-- ==== Sys2Proof/Word.lean ====
section
/-! DEFINITION. The words and numbered things of the manual, and a pair of like things, one for each
control processor. -/

namespace Sys2Proof

/-- One byte of a frame (R193). -/
abbrev Byte := BitVec 8

/-- A chassis time: the 48-bit millisecond count of the time base (R199). -/
abbrev Time := BitVec 48

/-- Line-card slots 1 to 8; the index is the slot number minus 1 (00_scope.md, Conventions). -/
abbrev Slot := Fin 8

/-- Supply bays 1 to 4; the index is the bay number minus 1. -/
abbrev Bay := Fin 4

/-- Fan trays 1 to 3; the index is the tray number minus 1. -/
abbrev Tray := Fin 3

/-- Rotors 1 to 4 of a tray; the index is the rotor number minus 1. -/
abbrev Rotor := Fin 4

/-- Global ports 0 to 255: port p of slot s is (s − 1) × 32 + p (00_scope.md, Conventions). -/
abbrev Port := Fin 256

/-- The two control processors. -/
inductive Cp where
  | a
  | b
  deriving DecidableEq, Repr

/-- For one CP, the other CP. -/
def Cp.peer : Cp → Cp
  | .a => .b
  | .b => .a

/-- One thing for CP-A and one for CP-B. -/
structure PerCp (α : Type) where
  a : α
  b : α
  deriving DecidableEq, Repr

/-- The thing kept for a CP. -/
def PerCp.get {α : Type} (x : PerCp α) : Cp → α
  | .a => x.a
  | .b => x.b

/-- Replace the thing kept for a CP. -/
def PerCp.put {α : Type} (x : PerCp α) (c : Cp) (v : α) : PerCp α :=
  match c with
  | .a => { x with a := v }
  | .b => { x with b := v }

end Sys2Proof
end

