-- ==== Sys2Proof/Syntax.lean ====
section
/-! DEFINITION. The commands of the block: one constructor of `Instr` for each row of
spec/opcode_table.json, with the row's operands.

A request row stands for the arrival on the CP's link of a good frame that carries that request with
this tag and these parameters (log 1); the parameters have the widths R192 gives them on the wire, so
a value outside its range reaches the check of the rule that owns it. -/

namespace Sys2Proof

/-- What a line expander answers to one transfer (R195): nothing within the answer window, or the
answer bit followed by these bits, first bit first. For a FIELD write the bit is 1 for ACK and 0 for
NAK; for TEST it is the line's level; for a FIELD read the data bits, lowest line first, and then the
parity bit. The bus rests at 1, so a bit that is not driven reads 1 (log 8). -/
inductive Answer where
  | silent
  | bits (bs : List Bool)
  deriving DecidableEq, Repr

/-- The commands, in the order of spec/opcode_table.json. -/
inductive Instr where
  /-- Power-up of the part with these levels on strap lines 1 to 6 (bit 0 is line 1; R197). -/
  | powerOnReset (lines : BitVec 6)
  /-- These bytes arrive on the CP's link as one frame (R184, R185, R193). -/
  | goodFrame (cp : Cp) (bytes : List Byte)
  /-- A frame that is not good arrives on the CP's link (R184). -/
  | badFrame (cp : Cp)
  /-- The card asserts its link reset line (R184). -/
  | linkResetAssert (cp : Cp)
  | heartbeat (cp : Cp) (tag : BitVec 4)
  /-- The deadline of this LIVE non-holder is reached (R4). -/
  | peerDeadlineExpiry (cp : Cp)
  /-- The holder's deadline is reached (R10). -/
  | heartbeatExpiry
  | claimAuthority (cp : Cp) (tag : BitVec 4) (epoch : BitVec 32)
  | yieldAuthority (cp : Cp) (tag : BitVec 4)
  | takeOver (cp : Cp) (tag : BitVec 4) (epoch : BitVec 32)
  | readAuthority (cp : Cp) (tag : BitVec 4)
  | adoptDeparted (cp : Cp) (tag : BitVec 4)
  | discardDeparted (cp : Cp) (tag : BitVec 4)
  | writeHandover (cp : Cp) (tag : BitVec 4) (first count : Byte) (words : List (BitVec 32))
  | readHandover (cp : Cp) (tag : BitVec 4) (target first count : Byte)
  | setMaintenanceField (cp : Cp) (tag : BitVec 4) (target : Byte) (base length : BitVec 16)
  | maintTest (cp : Cp) (tag : BitVec 4) (line : BitVec 16)
  | maintSet (cp : Cp) (tag : BitVec 4) (line : BitVec 16)
  | maintClear (cp : Cp) (tag : BitVec 4) (line : BitVec 16)
  | maintFieldRead (cp : Cp) (tag : BitVec 4) (first : BitVec 16) (count : Byte)
  | maintFieldWrite (cp : Cp) (tag : BitVec 4) (first : BitVec 16) (count : Byte) (data : BitVec 16)
  | senseRead (cp : Cp) (tag : BitVec 4) (first : BitVec 16) (count : Byte)
  /-- The maintenance transaction on the bus ends with this answer; the second answer is the one to
  the repeat that follows a parity failure (R31). So for the other `...End` commands. -/
  | maintTransactionEnd (first again : Answer)
  | readSupply (cp : Cp) (tag : BitVec 4)
  | readTray (cp : Cp) (tag : BitVec 4) (tray : Byte)
  | readTemperature (cp : Cp) (tag : BitVec 4)
  | setReservePolicy (cp : Cp) (tag : BitVec 4) (policy : Byte)
  | slotPower (cp : Cp) (tag : BitVec 4) (slot action : Byte)
  | setShedPriority (cp : Cp) (tag : BitVec 4) (slot priority : Byte)
  | readBudget (cp : Cp) (tag : BitVec 4)
  | readSlot (cp : Cp) (tag : BitVec 4) (slot : Byte)
  /-- INSTALL ENTITLEMENT with the six fields of the 20-byte record (R96, R194). -/
  | installEntitlement (cp : Cp) (tag : BitVec 4) (id : BitVec 32) (units : BitVec 16)
      (ceiling flags : Byte) (serial : BitVec 64) (check : BitVec 32)
  | removeEntitlement (cp : Cp) (tag : BitVec 4) (id : BitVec 32)
  | portAdmin (cp : Cp) (tag : BitVec 4) (group mask action cls : Byte)
  | readPortGroup (cp : Cp) (tag : BitVec 4) (group : Byte)
  | readPool (cp : Cp) (tag : BitVec 4)
  | readGrantList (cp : Cp) (tag : BitVec 4) (position : BitVec 16)
  | readWaitQueue (cp : Cp) (tag : BitVec 4) (position : BitVec 16)
  | readEntitlements (cp : Cp) (tag : BitVec 4)
  /-- The last byte of the response of the CP's data-transfer read has left the port (R188). -/
  | dataTransferReadComplete (cp : Cp)
  | beginZoneEdit (cp : Cp) (tag : BitVec 4) (mode : Byte)
  | cancelZoneEdit (cp : Cp) (tag : BitVec 4)
  | createZone (cp : Cp) (tag : BitVec 4) (zone : BitVec 16) (kind : Byte)
  | deleteZone (cp : Cp) (tag : BitVec 4) (zone : BitVec 16)
  | addMember (cp : Cp) (tag : BitVec 4) (zone port : BitVec 16) (principal : Byte)
  | removeMember (cp : Cp) (tag : BitVec 4) (zone port : BitVec 16)
  | readZone (cp : Cp) (tag : BitVec 4) (level : Byte) (zone : BitVec 16) (position : Byte)
  | commitZones (cp : Cp) (tag : BitVec 4) (hold : Byte)
  /-- The Reach Engine's computation completes (R141). -/
  | commitComputationComplete
  | loadingWriteEnd (first again : Answer)
  /-- At a pass completion the slot's ACK deadline is found reached (R145, R155). -/
  | ackTimeout (slot : Slot)
  | activateFieldWriteEnd (first again : Answer)
  | activationStrobeEnd (answer : Answer)
  | activateZones (cp : Cp) (tag : BitVec 4)
  | retryDistribution (cp : Cp) (tag : BitVec 4)
  | abortDistribution (cp : Cp) (tag : BitVec 4)
  | slotActivatePulseEnd (answer : Answer)
  | queryReach (cp : Cp) (tag : BitVec 4) (p q : BitVec 16)
  | readZoneStatus (cp : Cp) (tag : BitVec 4)
  | fetchNotice (cp : Cp) (tag : BitVec 4)
  | retireNotice (cp : Cp) (tag : BitVec 4)
  /-- SET ALARM MASK with the twenty enable flag bytes, class 1 first (R171, R192). -/
  | setAlarmMask (cp : Cp) (tag : BitVec 4) (flags : Vector Byte 20)
  | setAlarmLevel (cp : Cp) (tag : BitVec 4) (cls level : Byte)
  | setAlarmRoute (cp : Cp) (tag : BitVec 4) (cls route : Byte)
  | injectAlarm (cp : Cp) (tag : BitVec 4) (cls : Byte) (number : BitVec 16)
  | withdrawInjection (cp : Cp) (tag : BitVec 4) (cls : Byte) (number : BitVec 16)
  | readAlarm (cp : Cp) (tag : BitVec 4) (cls : Byte) (number : BitVec 16)
  | releaseHistoryHalf (cp : Cp) (tag : BitVec 4) (half : Byte)
  | readHistory (cp : Cp) (tag : BitVec 4) (half first count : Byte)
  | readTime (cp : Cp) (tag : BitVec 4)
  | readIdentity (cp : Cp) (tag : BitVec 4)
  /-- Chassis time reaches the next whole multiple of 20 ms (R37). -/
  | scanMark
  | scanTransactionEnd (first again : Answer)
  | heldFieldWriteEnd (first again : Answer)
  /-- The slot's power-good deadline is reached (R81). -/
  | powerGoodDeadlineExpiry (slot : Slot)
  /-- The card releases its link reset line (R184). -/
  | linkResetRelease (cp : Cp)
  | serialReadEnd (first again : Answer)
  deriving DecidableEq, Repr

end Sys2Proof
end

