-- ==== Sys2Proof/Decode.lean ====
section
/-! DEFINITION. Words of the opcode table. No row of spec/opcode_table.json gives bits (its `fields` are
empty), so no word spells a command (log 30). -/

namespace Sys2Proof

/-- The command that a word of the table spells: none. -/
def decodeTableWord (_nbits _w : Nat) : Option Instr := none

end Sys2Proof
end

