-- ==== Sys2Proof/Machine/Types.lean ====
section
/-! DEFINITION. The records of each block, as plain data. The state names of the manual are kept;
where a field is present only in a state of the record, the state's constructor carries it. -/

namespace Sys2Proof.Machine

/-! ### Straps (10_start_up_straps_and_identity.md) -/

/-- Heartbeat period H (R197). -/
inductive HeartbeatPeriod where
  | ms250
  | ms500
  | ms1000
  | ms2000
  deriving DecidableEq, Repr

/-- Reserve policy (R69). -/
inductive Policy where
  | n
  | nPlus1
  | grid
  deriving DecidableEq, Repr

/-- Default zoning, in force while the active generation is 0 (R121, R138). -/
inductive DefaultZoning where
  | all
  | none
  deriving DecidableEq, Repr

/-- The latched straps (R197). -/
structure Straps where
  period : HeartbeatPeriod
  takeover : Bool
  policy : Policy
  zoning : DefaultZoning
  deriving DecidableEq, Repr

/-! ### Supervisor links (09_supervisor_links.md) -/

/-- A request as its good frame carried it: tag, request code and parameter bytes (R193). -/
structure Frame where
  tag : BitVec 4
  code : Byte
  params : List Byte
  deriving DecidableEq, Repr

/-- Outcome codes (09, Outcome codes). -/
inductive OutcomeCode where
  | done
  | none
  | notHolder
  | silent
  | stale
  | heldByPeer
  | busy
  | zoneBusy
  | queueFull
  | badParam
  | bounds
  | noSpace
  | notFound
  | duplicate
  | checkFail
  | state
  | frozen
  | noResponse
  | parity
  deriving DecidableEq, Repr

/-- A response: the echoed tag and request code, the outcome, and the result bytes as R192 lays them
out. -/
structure Response where
  tag : BitVec 4
  code : Byte
  outcome : OutcomeCode
  results : List Byte
  deriving DecidableEq, Repr

/-- The six line-bus requests of class 3 (R45 to R47). -/
inductive MaintKind where
  | test
  | set
  | clear
  | fieldRead
  | fieldWrite
  | senseRead
  deriving DecidableEq, Repr

/-- What a request in execution waits for (R188): the last byte of its response, the commit
computation, or the end of its bus transaction on `count` lines from `first`. -/
inductive Phase where
  | transfer
  | commit
  | lineBus (kind : MaintKind) (first count : Nat)
  deriving DecidableEq, Repr

/-- The request in execution of a port (R187). `dropped` says that the link has gone DOWN since it
was taken, so that its response is dropped (R189). -/
structure InExecution where
  tag : BitVec 4
  code : Byte
  phase : Phase
  dropped : Bool
  deriving DecidableEq, Repr

/-- One supervisor link port (R184 to R189). -/
structure LinkPort where
  up : Bool
  resetHeld : Bool
  badFrames : Nat
  /-- Requests waiting, oldest first, at most 4 (R186). -/
  queue : List Frame
  current : Option InExecution
  /-- A response frame already leaving (R187). -/
  leaving : Option Response
  /-- Responses that leave ahead of every other: to HEARTBEAT, and QUEUE_FULL (R187). -/
  immediate : List Response
  /-- The response order (R187). -/
  waiting : List Response
  deriving DecidableEq, Repr

/-! ### Authority Unit (01_authority_and_takeover.md) -/

/-- Presence of a CP; a deadline is held while LIVE and only then (R1). -/
inductive Presence where
  | absent
  | silent
  | live (deadline : Time)
  deriving DecidableEq, Repr

/-- Causes of the last change of holder (R7). -/
inductive Cause where
  | powerOn
  | claimed
  | yielded
  | heartbeatExpiry
  | linkLost
  | forced
  | claimOverSilent
  deriving DecidableEq, Repr

/-- The departed record (R18). `transaction` is the staged zone count and staged member-entry count,
held only with a transaction. -/
structure Departed where
  prior : Cp
  priorEpoch : BitVec 32
  cause : Cause
  time : Time
  transaction : Option (Nat × Nat)
  frozen : Bool
  deriving DecidableEq, Repr

/-- State of the Authority Unit (R1, R7, R18, R23). -/
structure Authority where
  presence : PerCp Presence
  holder : Option Cp
  epoch : BitVec 32
  since : Time
  cause : Cause
  claimed : Bool
  departed : Option Departed
  handover : PerCp (Vector (BitVec 32) 16)
  deriving DecidableEq, Repr

/-! ### Line Bus Controller (02_the_chassis_line_bus.md) -/

/-- A transaction on the line bus (R29, R30). A FIELD has 1 to 16 lines; its data carries the first
line as least significant bit. -/
inductive Txn where
  | set (line : Nat)
  | clear (line : Nat)
  | test (line : Nat)
  | read (first count : Nat)
  | write (first count : Nat) (data : BitVec 16)
  deriving DecidableEq, Repr

/-- The held fields of R28: the midplane indicator field; of a slot the power enable, two port enable
fields and four port class fields; of a tray the duty field. -/
inductive HeldField where
  | indicator
  | powerEnable (slot : Slot)
  | portEnable (slot : Slot) (half : Fin 2)
  | portClass (slot : Slot) (quarter : Fin 4)
  | duty (tray : Tray)
  deriving DecidableEq, Repr

/-- Entries of arbiter class 1 (R33). -/
inductive Class1 where
  | held (field : HeldField)
  | activateField
  | strobe
  | slotActivate (slot : Slot)
  deriving DecidableEq, Repr

/-- Who holds the bus. `ignored` marks a transaction whose outcome its engine ignores (R146, R152). -/
inductive Owner where
  | held (field : HeldField)
  | activateField
  | strobe
  | slotActivate (slot : Slot) (ignored : Bool)
  | loading (slot : Slot) (ignored : Bool)
  | maint (cp : Cp)
  | scan
  | serial
  deriving DecidableEq, Repr

/-- The transaction on the bus and its requester. -/
structure OnBus where
  owner : Owner
  txn : Txn
  deriving DecidableEq, Repr

/-- Outcomes of a bus transaction (R29, R31, R32). A read that ends DONE has its data, a TEST its
level as data 0 or 1. -/
inductive BusEnd where
  | done (data : BitVec 16)
  | noResponse
  | parity
  deriving DecidableEq, Repr

/-- Debounce record of a FRU (R39): reported presence, and whether the differing count is 1. -/
structure Debounce where
  present : Bool
  differing : Bool
  deriving DecidableEq, Repr

/-- A maintenance field (R43). -/
structure MaintField where
  base : Nat
  length : Nat
  deriving DecidableEq, Repr

/-- The entry of the scan list that a pass has reached (R38), with what the pass holds for its FRU so
far: whether the slot's acknowledgement was awaited when the pass reached the slot (log 19), the supply
lines of the presence read, and the identity fields read (none for a read that did not end DONE). -/
inductive ScanStep where
  | sensor (which : Fin 2)
  | slotLines (slot : Slot) (awaited : Bool)
  | slotIdentity (slot : Slot) (awaited : Bool) (got : List (Option (BitVec 16)))
  | slotAck (slot : Slot)
  | bayLines (bay : Bay)
  | bayIdentity (bay : Bay) (inputOk outputOk : Bool) (got : List (Option (BitVec 16)))
  | trayLine (tray : Tray)
  | trayIdentity (tray : Tray)
  | rotor (tray : Tray) (rotor : Rotor) (rise : Bool)
  | rewrite (field : HeldField) (rest : List HeldField)
  deriving DecidableEq, Repr

/-- The scan engine (R37, R198): IDLE, in an attempt to read the chassis serial (the pieces read so
far, lowest first, and whether a pass follows the attempt in any case), or in a pass. -/
inductive Scan where
  | idle
  | serial (got : List (BitVec 16)) (owed : Bool)
  | pass (step : ScanStep)
  deriving DecidableEq, Repr

/-- A loading write waiting in class 2 (R33). -/
structure LoadWrite where
  slot : Slot
  txn : Txn
  deriving DecidableEq, Repr

/-- State of the Line Bus Controller. -/
structure Bus where
  current : Option OnBus
  class1 : List Class1
  class2 : Option LoadWrite
  class3 : List (Cp × Txn)
  class4 : Bool
  /-- Distribution grant count (R35). -/
  grants : Nat
  /-- Lines whose last write that ended DONE drove them to 1, ascending (log 25). -/
  driven : List Nat
  maint : PerCp MaintField
  slotSeen : Vector Debounce 8
  baySeen : Vector Debounce 4
  traySeen : Vector Debounce 3
  scan : Scan
  startPending : Bool
  deriving DecidableEq, Repr

/-! ### Cooling Controller (03_supplies_fans_and_temperature.md) -/

/-- Supply states (R48). -/
inductive SupplyState where
  | absent
  | off
  | good
  | failed
  deriving DecidableEq, Repr

/-- Input kind of a supply (R48). -/
inductive InputKind where
  | highLine
  | lowLine
  deriving DecidableEq, Repr

/-- Identity of a supply, read at its presence rise (R49). -/
structure SupplyIdentity where
  rated : Nat
  input : InputKind
  deriving DecidableEq, Repr

/-- Supply record (R48); the identity is present while the state is not ABSENT. -/
structure Supply where
  state : SupplyState
  identity : Option SupplyIdentity
  usable : Nat
  deriving DecidableEq, Repr

/-- Inlet sensor record (R54). -/
structure Sensor where
  last : Int
  valid : Bool
  invalidPasses : Nat
  deriving DecidableEq, Repr

/-- Fitted and state fields of a rotor (R57): neither held, fitted NO, or fitted YES with state GOOD
or FAILED. -/
inductive RotorFit where
  | none
  | notFitted
  | good
  | failed
  deriving DecidableEq, Repr

/-- Rotor record (R57). -/
structure RotorRec where
  fit : RotorFit
  measured : Nat
  low : Nat
  goodRun : Nat
  deriving DecidableEq, Repr

/-- Tray record (R57): PRESENT exactly while a rotor maximum is held. -/
structure TrayRec where
  maximum : Option Nat
  settle : Time
  rotors : Vector RotorRec 4
  deriving DecidableEq, Repr

/-- Reasons kept with the commanded duty (R64). -/
inductive DutyReason where
  | start
  | forced
  | temperature
  | load
  | noHolder
  | minimum
  deriving DecidableEq, Repr

/-- State of the Cooling Controller. -/
structure Cooling where
  supplies : Vector Supply 4
  sensors : Vector Sensor 2
  tIn : Int
  assumed : Bool
  trays : Vector TrayRec 3
  duty : Nat
  reason : DutyReason
  tempTerm : Option Nat
  loadTerm : Option Nat
  /-- Demand as the Power Budget Unit last gave it (R63). -/
  demand : Nat
  settled : Bool
  /-- Completed scan passes, counted up to 3 (R62). -/
  passes : Nat
  deriving DecidableEq, Repr

/-! ### Power Budget Unit (04_the_power_budget.md) -/

/-- Port speed classes (R94). -/
inductive PortClass where
  | s
  | m
  | h
  deriving DecidableEq, Repr

/-- What a cooling notice carries of one bay (R61). -/
structure BayInput where
  state : SupplyState
  usable : Nat
  deriving DecidableEq, Repr

/-- The input record: the copy of the last cooling notice (R69). -/
structure InputRecord where
  bays : Vector BayInput 4
  tIn : Int
  rotors : Nat
  deriving DecidableEq, Repr

/-- Kind of the last recompute (R69). -/
inductive RecomputeKind where
  | shed
  | admission
  deriving DecidableEq, Repr

/-- Identity of a line card, read at its presence rise (R78, R79). -/
structure Card where
  kind : Byte
  base : Nat
  ports : Nat
  deriving DecidableEq, Repr

/-- Denial reason (R78). -/
inductive DenialReason where
  | waiting
  | shed
  deriving DecidableEq, Repr

/-- Slot power state (R78). -/
inductive SlotPower where
  | empty
  | off
  | denied (reason : DenialReason)
  | powering (deadline : Time)
  | powered
  | faulted
  deriving DecidableEq, Repr

/-- Slot record (R78): presence is PRESENT exactly while a card is recorded. -/
structure SlotRec where
  card : Option Card
  power : SlotPower
  admin : Bool
  priority : Nat
  deriving DecidableEq, Repr

/-- Port power state (R84), with the granted class that the License Unit's notices last carried
(R85, R86). -/
inductive PortPower where
  | off
  | held (cls : PortClass)
  | enabled (cls : PortClass)
  deriving DecidableEq, Repr

/-- State of the Power Budget Unit. -/
structure Power where
  policy : Policy
  input : InputRecord
  /-- S, the supply budget (R71). -/
  supply : Nat
  gridLost : Bool
  /-- Cfull (R72). -/
  coolFull : Nat
  /-- C, the cooling capacity (R72). -/
  coolCap : Nat
  /-- A, the available budget (R72). -/
  avail : Nat
  lastKind : RecomputeKind
  lastTime : Time
  slots : Vector SlotRec 8
  ports : Vector PortPower 256
  deriving DecidableEq, Repr

/-! ### License Unit (05_port_licensing.md) -/

/-- An entitlement record, every field as received (R96). -/
structure Entitlement where
  id : BitVec 32
  units : BitVec 16
  ceiling : Byte
  flags : Byte
  serial : BitVec 64
  check : BitVec 32
  deriving DecidableEq, Repr

/-- Settings of a port position (R94): admin UP, and the requested class. -/
structure PortConfig where
  up : Bool
  requested : PortClass
  deriving DecidableEq, Repr

/-- An entry of the grant list (R101). -/
structure Grant where
  port : Port
  cls : PortClass
  deriving DecidableEq, Repr

/-- What the License Unit hands to the Power Budget Unit (R85, R86). -/
inductive Notice where
  | grant (port : Port) (cls : PortClass)
  | release (port : Port)
  | regrade (port : Port) (cls : PortClass)
  deriving DecidableEq, Repr

/-- State of the License Unit. The license state of a port is its place on `grants` or `waiting`
(R94). -/
structure License where
  table : List Entitlement
  ports : Vector PortConfig 256
  grants : List Grant
  waiting : List Port
  deriving DecidableEq, Repr

/-! ### Zoning Unit (06, 07) -/

/-- Kind of a zone; a PEER zone has a principal set, kept ascending (R122). -/
inductive ZoneKind where
  | standard
  | peer (principals : List Port)
  deriving DecidableEq, Repr

/-- Zone record (R122). -/
structure Zone where
  number : Fin 256
  kind : ZoneKind
  members : List Port
  deriving DecidableEq, Repr

/-- A zone table: records in ascending zone number (R122). -/
abbrev ZoneTable := List Zone

/-- A pending or active level (R121). -/
structure Level where
  table : ZoneTable
  generation : BitVec 16
  deriving DecidableEq, Repr

/-- Fields of the transaction record that are present while it is not CLOSED (R124). -/
structure TxnInfo where
  owner : Cp
  epoch : BitVec 32
  base : Option (BitVec 16)
  opened : Time
  deriving DecidableEq, Repr

/-- The zone transaction (R124); while COMPUTING the hold flag of the commit is kept with it (R139). -/
inductive ZoneTxn where
  | closed
  | opened (info : TxnInfo)
  | computing (info : TxnInfo) (hold : Bool)
  | held (info : TxnInfo)
  deriving DecidableEq, Repr

/-- Main state of the Distribution Engine (R142). -/
inductive EngineState where
  | idle
  | distributing
  | awaitActivate
  | activating
  | failed
  deriving DecidableEq, Repr

/-- Set status of a slot of the distribution set (R142). -/
inductive SetStatus where
  | queued
  | loading
  | awaitAck
  | loaded
  | failedLoad
  deriving DecidableEq, Repr

/-- Catch-up result (R142). -/
inductive CatchUpResult where
  | none
  | done
  | failed
  deriving DecidableEq, Repr

/-- The next loading write of a load: the generation field, row piece n (piece n mod 16 of local port
n / 16, R196), or LOAD DONE (R144, R155). -/
inductive LoadStep where
  | generation
  | piece (n : Nat)
  | loadDone
  deriving DecidableEq, Repr

/-- A load in progress: of a main distribution, or of a catch-up. -/
structure LoadJob where
  slot : Slot
  main : Bool
  step : LoadStep
  deriving DecidableEq, Repr

/-- Zoning record of a slot (R142); `status` is held while the slot is in the distribution set and
`catchUp` is its membership of the catch-up set (R153). -/
structure ZoneSlot where
  loaded : BitVec 16
  status : Option SetStatus
  ackDeadline : Option Time
  result : CatchUpResult
  catchUp : Bool
  deriving DecidableEq, Repr

/-- State of the Zoning Unit. -/
structure Zoning where
  staging : ZoneTable
  txn : ZoneTxn
  pending : Option Level
  active : Level
  main : EngineState
  hold : Option Bool
  job : Option LoadJob
  catchUpSlot : Option Slot
  slots : Vector ZoneSlot 8
  deriving DecidableEq, Repr

/-! ### Alarm Unit (08_alarms_notices_and_the_history_ring.md) -/

/-- The twenty alarm classes (R159), in the order of their numbers. -/
inductive AlarmClass where
  | psuFault
  | psuInputLost
  | psuRemoved
  | fanRotorFail
  | fanTrayAbsent
  | tempWarn
  | tempCrit
  | sensorLost
  | budgetShed
  | budgetTight
  | slotFault
  | slotChange
  | licenseWait
  | licenseRevoked
  | zoneDone
  | zoneDistFail
  | authorityChange
  | peerSilent
  | lineBusError
  | historyHalf
  deriving DecidableEq, Repr

/-- Kind of a class (R159). -/
inductive AlarmKind where
  | condition
  | event
  deriving DecidableEq, Repr

/-- Route of a class (R159). -/
inductive Route where
  | active
  | standby
  | both
  | none
  deriving DecidableEq, Repr

/-- The settable fields of a class entry (R159). -/
structure ClassEntry where
  level : Nat
  route : Route
  deriving DecidableEq, Repr

/-- One CONDITION row: number `number` (from 1) of class `cls` (R161). -/
structure CondRow where
  cls : AlarmClass
  number : Nat
  condition : Bool
  forced : Bool
  seen : PerCp Bool
  changed : Time
  deriving DecidableEq, Repr

/-- One EVENT row: number `number` (from 1) of class `cls` (R163). -/
structure EventRow where
  cls : AlarmClass
  number : Nat
  latch : PerCp Bool
  latchH : Bool
  last : Time
  injected : Bool
  deriving DecidableEq, Repr

/-- An entry of an in-service stack (R168). -/
structure StackEntry where
  level : Nat
  cls : AlarmClass
  number : Nat
  deriving DecidableEq, Repr

/-- Alarm LED mode (R176). -/
inductive LedMode where
  | off
  | steady
  | blinking
  deriving DecidableEq, Repr

/-- Transition of a history entry (R177). -/
inductive Transition where
  | raised
  | cleared
  | event
  deriving DecidableEq, Repr

/-- A history entry (R177); `time` is the low 32 bits of chassis time. -/
structure HistoryEntry where
  time : BitVec 32
  cls : AlarmClass
  number : Nat
  transition : Transition
  injected : Bool
  level : Nat
  epoch : BitVec 32
  deriving DecidableEq, Repr

/-- State of a half of the history ring (R177). -/
inductive HalfState where
  | filling
  | full
  | free
  deriving DecidableEq, Repr

/-- A half of the history ring, oldest entry first; its filled count is the number of entries. -/
structure Half where
  state : HalfState
  entries : List HistoryEntry
  deriving DecidableEq, Repr

/-- State of the Alarm Unit. A stack's head is its top. -/
structure Alarm where
  classes : Vector ClassEntry 20
  conds : List CondRow
  events : List EventRow
  mask : PerCp (Vector Bool 20)
  stack : PerCp (List StackEntry)
  attn : PerCp Bool
  led : LedMode
  half0 : Half
  half1 : Half
  overrun : Bool
  deriving DecidableEq, Repr

end Sys2Proof.Machine
end

