-- ==== Sys2Proof/Machine/PowerOn.lean ====
section
/-! DEFINITION. The fixed alarm class table, the strap codes, and the value of every block's records
after power-on reset. -/

namespace Sys2Proof.Machine

/-! ### The alarm class table (R159) -/

/-- All classes in ascending number. -/
def AlarmClass.all : List AlarmClass :=
  [.psuFault, .psuInputLost, .psuRemoved, .fanRotorFail, .fanTrayAbsent, .tempWarn, .tempCrit,
    .sensorLost, .budgetShed, .budgetTight, .slotFault, .slotChange, .licenseWait, .licenseRevoked,
    .zoneDone, .zoneDistFail, .authorityChange, .peerSilent, .lineBusError, .historyHalf]

/-- Position in the class table; the class number is one more. -/
def AlarmClass.index : AlarmClass → Fin 20
  | .psuFault => 0
  | .psuInputLost => 1
  | .psuRemoved => 2
  | .fanRotorFail => 3
  | .fanTrayAbsent => 4
  | .tempWarn => 5
  | .tempCrit => 6
  | .sensorLost => 7
  | .budgetShed => 8
  | .budgetTight => 9
  | .slotFault => 10
  | .slotChange => 11
  | .licenseWait => 12
  | .licenseRevoked => 13
  | .zoneDone => 14
  | .zoneDistFail => 15
  | .authorityChange => 16
  | .peerSilent => 17
  | .lineBusError => 18
  | .historyHalf => 19

/-- The class number, 1 to 20. -/
def AlarmClass.number (c : AlarmClass) : Nat := c.index.val + 1

/-- Kind of each class (R159). -/
def AlarmClass.kind : AlarmClass → AlarmKind
  | .psuFault | .psuInputLost | .fanRotorFail | .fanTrayAbsent | .tempWarn | .tempCrit
  | .sensorLost | .budgetTight | .slotFault | .licenseWait | .peerSilent => .condition
  | .psuRemoved | .budgetShed | .slotChange | .licenseRevoked | .zoneDone | .zoneDistFail
  | .authorityChange | .lineBusError | .historyHalf => .event

/-- Number of rows of each class (R159, column Instances). -/
def AlarmClass.count : AlarmClass → Nat
  | .psuFault => 4
  | .psuInputLost => 4
  | .psuRemoved => 4
  | .fanRotorFail => 12
  | .fanTrayAbsent => 3
  | .tempWarn => 1
  | .tempCrit => 1
  | .sensorLost => 2
  | .budgetShed => 8
  | .budgetTight => 1
  | .slotFault => 8
  | .slotChange => 8
  | .licenseWait => 1
  | .licenseRevoked => 256
  | .zoneDone => 1
  | .zoneDistFail => 1
  | .authorityChange => 1
  | .peerSilent => 2
  | .lineBusError => 1
  | .historyHalf => 2

/-- Default level and route of each class (R159). -/
def AlarmClass.defaults : AlarmClass → ClassEntry
  | .psuFault => ⟨6, .active⟩
  | .psuInputLost => ⟨5, .active⟩
  | .psuRemoved => ⟨3, .active⟩
  | .fanRotorFail => ⟨5, .active⟩
  | .fanTrayAbsent => ⟨6, .active⟩
  | .tempWarn => ⟨4, .active⟩
  | .tempCrit => ⟨7, .both⟩
  | .sensorLost => ⟨3, .active⟩
  | .budgetShed => ⟨6, .active⟩
  | .budgetTight => ⟨3, .active⟩
  | .slotFault => ⟨5, .active⟩
  | .slotChange => ⟨2, .active⟩
  | .licenseWait => ⟨2, .active⟩
  | .licenseRevoked => ⟨4, .active⟩
  | .zoneDone => ⟨1, .active⟩
  | .zoneDistFail => ⟨4, .active⟩
  | .authorityChange => ⟨5, .both⟩
  | .peerSilent => ⟨4, .both⟩
  | .lineBusError => ⟨3, .active⟩
  | .historyHalf => ⟨1, .active⟩

/-- The row numbers 1 to n. -/
def numbersTo (n : Nat) : List Nat := (List.range n).map (· + 1)

/-- A CONDITION row after power-on reset (R161). -/
def CondRow.powerOn (c : AlarmClass) (number : Nat) : CondRow :=
  { cls := c, number := number, condition := false, forced := false, seen := ⟨false, false⟩,
    changed := 0 }

/-- An EVENT row after power-on reset (R163). -/
def EventRow.powerOn (c : AlarmClass) (number : Nat) : EventRow :=
  { cls := c, number := number, latch := ⟨false, false⟩, latchH := false, last := 0,
    injected := false }

/-- All CONDITION rows in ascending class and number. -/
def condRows : List CondRow :=
  (AlarmClass.all.filter fun c => c.kind = .condition).flatMap fun c =>
    (numbersTo c.count).map (CondRow.powerOn c)

/-- All EVENT rows in ascending class and number. -/
def eventRows : List EventRow :=
  (AlarmClass.all.filter fun c => c.kind = .event).flatMap fun c =>
    (numbersTo c.count).map (EventRow.powerOn c)

/-- A mask with every class enabled (R171). -/
def maskAll : Vector Bool 20 := Vector.replicate 20 true

/-- The class table with its default levels and routes. -/
def defaultClasses : Vector ClassEntry 20 :=
  ⟨(AlarmClass.all.map AlarmClass.defaults).toArray, by decide⟩

/-- Alarm Unit after power-on reset (08, Power-on and link-reset values). -/
def Alarm.powerOn : Alarm :=
  { classes := defaultClasses
    conds := condRows
    events := eventRows
    mask := ⟨maskAll, maskAll⟩
    stack := ⟨[], []⟩
    attn := ⟨false, false⟩
    led := .off
    half0 := ⟨.filling, []⟩
    half1 := ⟨.free, []⟩
    overrun := false }

/-! ### Straps (R197) -/

/-- The straps that strap line levels code; where a strap takes two lines, the higher-numbered line
is the more significant bit. Bit 0 is line 1. -/
def Straps.ofLines (lines : BitVec 6) : Straps :=
  { period :=
      match (lines.extractLsb' 0 2).toNat with
      | 0 => .ms250
      | 1 => .ms500
      | 2 => .ms1000
      | _ => .ms2000
    takeover := lines.getLsbD 2
    policy :=
      match (lines.extractLsb' 3 2).toNat with
      | 0 => .n
      | 2 => .grid
      | _ => .nPlus1
    zoning := if lines.getLsbD 5 then .none else .all }

/-- The strap lines of a midplane with no pull-down fitted: every line reads 1 (R197). -/
def unfittedStraps : BitVec 6 := 0x3F

/-! ### The blocks after power-on reset -/

/-- A supervisor link port after power-on reset (R184, R186); the level of the link reset line is the
card's (log 4, log 26). -/
def LinkPort.powerOn (resetHeld : Bool) : LinkPort :=
  { up := false, resetHeld := resetHeld, badFrames := 0, queue := [], current := none,
    leaving := none, immediate := [], waiting := [] }

/-- Authority Unit after power-on reset (R1, R7, R18, R23). -/
def Authority.powerOn : Authority :=
  { presence := ⟨.absent, .absent⟩
    holder := none
    epoch := 0
    since := 0
    cause := .powerOn
    claimed := false
    departed := none
    handover := ⟨Vector.replicate 16 0, Vector.replicate 16 0⟩ }

/-- Line Bus Controller after power-on reset (R35, R37, R39, R43), with the first attempt to read the
chassis serial begun on the free bus (R198). -/
def Bus.powerOn : Bus :=
  { current := some ⟨.serial, .read 0 16⟩
    class1 := []
    class2 := none
    class3 := []
    class4 := false
    grants := 0
    driven := []
    maint := ⟨⟨3072, 0⟩, ⟨3072, 0⟩⟩
    slotSeen := Vector.replicate 8 ⟨false, false⟩
    baySeen := Vector.replicate 4 ⟨false, false⟩
    traySeen := Vector.replicate 3 ⟨false, false⟩
    scan := .serial [] false
    startPending := false }

/-- A rotor with nothing fitted and nothing measured (R57). -/
def RotorRec.bare : RotorRec := { fit := .none, measured := 0, low := 0, goodRun := 0 }

/-- Cooling Controller after power-on reset (03, Power-on values). -/
def Cooling.powerOn : Cooling :=
  { supplies := Vector.replicate 4 ⟨.absent, none, 0⟩
    sensors := Vector.replicate 2 ⟨0, false, 0⟩
    tIn := 50
    assumed := true
    trays := Vector.replicate 3 ⟨none, 0, Vector.replicate 4 RotorRec.bare⟩
    duty := 100
    reason := .start
    tempTerm := none
    loadTerm := none
    demand := 0
    settled := false
    passes := 0 }

/-- Power Budget Unit after power-on reset (04, Power-on values). -/
def Power.powerOn (policy : Policy) : Power :=
  { policy := policy
    input := { bays := Vector.replicate 4 ⟨.absent, 0⟩, tIn := 50, rotors := 0 }
    supply := 0
    gridLost := false
    coolFull := 0
    coolCap := 0
    avail := 0
    lastKind := .admission
    lastTime := 0
    slots := Vector.replicate 8 ⟨none, .empty, true, 2⟩
    ports := Vector.replicate 256 .off }

/-- License Unit after power-on reset (05, Power-on values). -/
def License.powerOn : License :=
  { table := [], ports := Vector.replicate 256 ⟨false, .s⟩, grants := [], waiting := [] }

/-- Zoning Unit after power-on reset (06 and 07, Power-on and link-reset values). -/
def Zoning.powerOn : Zoning :=
  { staging := []
    txn := .closed
    pending := none
    active := ⟨[], 0⟩
    main := .idle
    hold := none
    job := none
    catchUpSlot := none
    slots := Vector.replicate 8 ⟨0, none, none, .none, false⟩ }

end Sys2Proof.Machine
end

