-- ==== Sys2Proof/Machine/State.lean ====
section
/-! DEFINITION. The state of the part as plain data, the ways a step could stop, and the state right
after power-on reset. -/

namespace Sys2Proof.Machine

/-- Everything the spec gives the part, and the queue of commands that wait. -/
structure State where
  /-- Commands waiting, first in, first out: the model's own. -/
  pending : List Instr
  /-- Chassis time (R199). -/
  time : Time
  /-- Chassis time of the last scan mark taken: the model's own (log 2). -/
  lastMark : Time
  straps : Straps
  /-- Chassis serial; none while the serial state is UNREAD (R198). -/
  serial : Option (BitVec 64)
  link : PerCp LinkPort
  auth : Authority
  bus : Bus
  cool : Cooling
  power : Power
  lic : License
  zone : Zoning
  alarm : Alarm
  deriving DecidableEq, Repr

/-- Reasons for a fault. There are none: no rule of the spec stops the part (INVENTORY.md, Faults). -/
inductive Fault where
  deriving DecidableEq, Repr

/-- Reasons for a refusal. -/
inductive Refusal where
  /-- Raised only by an arm of `exec` for a command that has no meaning yet; safe. No arm raises it. -/
  | notModelled (mnemonic : String)
  deriving DecidableEq, Repr

/-- What a command answers. -/
abbrev Result := Host.Outcome State Fault Refusal

/-- The part right after power-on reset with these levels on its strap lines (R197, R198) and these
levels on the cards' link reset lines. -/
def State.powerOn (lines : BitVec 6) (resetHeld : PerCp Bool) : State :=
  { pending := []
    time := 0
    lastMark := 0
    straps := Straps.ofLines lines
    serial := none
    link := ⟨LinkPort.powerOn resetHeld.a, LinkPort.powerOn resetHeld.b⟩
    auth := Authority.powerOn
    bus := Bus.powerOn
    cool := Cooling.powerOn
    power := Power.powerOn (Straps.ofLines lines).policy
    lic := License.powerOn
    zone := Zoning.powerOn
    alarm := Alarm.powerOn }

/-- The machine right after reset: power-on reset of a frame with no strap pull-down fitted and both
link reset lines released (log 4). -/
def State.reset : State := State.powerOn unfittedStraps ⟨false, false⟩

end Sys2Proof.Machine
end

