-- ==== Sys2Proof/Machine/Ops.lean ====
section
/-! DEFINITION. Named operations over the state that every block uses: the parts of the state, chassis
times, entries of a fixed row of records, ports and their slots, and the joining of arbiter class 1. -/

namespace Sys2Proof.Machine

/-! ### Parts of the state -/

/-- Apply `f` to the link port of a CP. -/
def State.modLink (s : State) (c : Cp) (f : LinkPort → LinkPort) : State :=
  { s with link := s.link.put c (f (s.link.get c)) }

/-- Apply `f` to the Authority Unit. -/
def State.modAuth (s : State) (f : Authority → Authority) : State := { s with auth := f s.auth }

/-- Apply `f` to the Line Bus Controller. -/
def State.modBus (s : State) (f : Bus → Bus) : State := { s with bus := f s.bus }

/-- Apply `f` to the Cooling Controller. -/
def State.modCool (s : State) (f : Cooling → Cooling) : State := { s with cool := f s.cool }

/-- Apply `f` to the Power Budget Unit. -/
def State.modPower (s : State) (f : Power → Power) : State := { s with power := f s.power }

/-- Apply `f` to the License Unit. -/
def State.modLic (s : State) (f : License → License) : State := { s with lic := f s.lic }

/-- Apply `f` to the Zoning Unit. -/
def State.modZone (s : State) (f : Zoning → Zoning) : State := { s with zone := f s.zone }

/-- Apply `f` to the Alarm Unit. -/
def State.modAlarm (s : State) (f : Alarm → Alarm) : State := { s with alarm := f s.alarm }

/-- Replace the queue of waiting commands. -/
def State.setPending (s : State) (q : List Instr) : State := { s with pending := q }

/-- Set the time base. -/
def State.setTime (s : State) (t : Time) : State := { s with time := t }

/-! ### A fixed row of records -/

/-- Apply `f` to one record of a row. -/
def updAt {α : Type} {n : Nat} (v : Vector α n) (i : Fin n) (f : α → α) : Vector α n :=
  v.set i.val (f (v.get i)) i.isLt

/-! ### Chassis times (R199) -/

/-- The chassis time `ms` milliseconds after `t`; the count wraps from 2^48 − 1 to 0 (R199). -/
def timeAfter (t : Time) (ms : Nat) : Time := t + BitVec.ofNat 48 ms

/-- Whether the deadline is at or before `now`. The count wraps, so of two chassis times the one that
lies less than half the range behind is the earlier (DEDUCED, log 13). -/
def reached (now deadline : Time) : Bool := (now - deadline).toNat < 2 ^ 47

/-- The heartbeat period in milliseconds (R197). -/
def HeartbeatPeriod.ms : HeartbeatPeriod → Nat
  | .ms250 => 250
  | .ms500 => 500
  | .ms1000 => 1000
  | .ms2000 => 2000

/-! ### Ports and slots (00_scope.md, Conventions) -/

/-- The slot of a port. -/
def portSlot (p : Port) : Slot := ⟨p.val / 32, by omega⟩

/-- The local index of a port, 0 to 31. -/
def portLocal (p : Port) : Nat := p.val % 32

/-- The port of a slot with a local index. -/
def portOf (i : Slot) (l : Fin 32) : Port := ⟨i.val * 32 + l.val, by omega⟩

/-- All ports in ascending order. -/
def allPorts : List Port := List.finRange 256

/-- The ports of a slot in ascending order. -/
def slotPorts (i : Slot) : List Port := (List.finRange 32).map (portOf i)

/-- The records of the 32 ports of a slot, in ascending local index. -/
def slotPart {α : Type} (v : Vector α 256) (i : Slot) : List α := (v.toList.drop (32 * i.val)).take 32

/-- The slot record. -/
def State.slotRec (s : State) (i : Slot) : SlotRec := s.power.slots.get i

/-- A port exists while its slot is PRESENT and its local index is below the port count (R94). -/
def State.portExists (s : State) (p : Port) : Bool :=
  match (s.slotRec (portSlot p)).card with
  | none => false
  | some c => portLocal p < c.ports

/-! ### Who holds authority (R7, R16) -/

/-- Whether the CP holds authority. -/
def State.isHolder (s : State) (c : Cp) : Bool := s.auth.holder = some c

/-- Whether a presence is LIVE. -/
def Presence.isLive : Presence → Bool
  | .live _ => true
  | _ => false

/-! ### Arbiter class 1 (R33, R34) -/

/-- An entry joins class 1 at the tail. -/
def joinClass1 (e : Class1) (s : State) : State :=
  s.modBus fun b => { b with class1 := b.class1 ++ [e] }

/-- A held field joins the set of pending writes unless it is already pending (R34). -/
def joinHeld (f : HeldField) (s : State) : State :=
  if s.bus.class1.contains (.held f) then s else joinClass1 (.held f) s

/-- Several held fields join in order. -/
def joinAll (fs : List HeldField) (s : State) : State := fs.foldl (fun t f => joinHeld f t) s

end Sys2Proof.Machine
end

