-- ==== Sys2Proof/Machine/Flags.lean ====
section
/-! DEFINITION. The computed flags of the part: the targets of a route, eligibility, the attention
lines and the LED mode (08), and the value each owner's records give to a condition. -/

namespace Sys2Proof.Machine

/-! ### Routes and targets (R164) -/

/-- Whether a route targets the CP, by the authority record and presences as they stand (R164). -/
def routeTargets (a : Authority) (r : Route) (c : Cp) : Bool :=
  match r with
  | .active =>
    match a.holder with
    | some h => h = c
    | none => (a.presence.get c).isLive
  | .standby =>
    match a.holder with
    | some h => h ≠ c && (a.presence.get c).isLive
    | none => false
  | .both => a.presence.get c ≠ .absent
  | .none => false

/-! ### Eligibility (R165) -/

/-- A CONDITION row is active while its condition is true or its forced flag is YES (R161). -/
def CondRow.active (r : CondRow) : Bool := r.condition || r.forced

/-- Whether any latch of an EVENT row is set. -/
def EventRow.latched (r : EventRow) : Bool := r.latch.a || r.latch.b || r.latchH

/-- The entry of a class. -/
def classEntry (a : Alarm) (c : AlarmClass) : ClassEntry := a.classes.get c.index

/-- Level of the top entry of a stack; the empty stack counts as level 0 (R165). -/
def topLevel : List StackEntry → Nat
  | [] => 0
  | e :: _ => e.level

/-- Items 1 and 4 of R165: the class is enabled in the CP's mask, and its level is above the top of
the CP's stack. -/
def classCalls (s : State) (c : Cp) (cls : AlarmClass) : Bool :=
  (s.alarm.mask.get c).get cls.index && topLevel (s.alarm.stack.get c) < (classEntry s.alarm cls).level

/-- Whether a CONDITION row is eligible for the CP (R165). -/
def condEligible (s : State) (c : Cp) (r : CondRow) : Bool :=
  classCalls s c r.cls && r.active && routeTargets s.auth (classEntry s.alarm r.cls).route c
    && !r.seen.get c

/-- Whether an EVENT row is eligible for the CP (R165). -/
def eventEligible (s : State) (c : Cp) (r : EventRow) : Bool :=
  classCalls s c r.cls && (r.latch.get c || (r.latchH && routeTargets s.auth .active c))

/-- ATTN-x is asserted while at least one row is eligible for CP-x (R166). -/
def attentionOf (s : State) (c : Cp) : Bool :=
  s.alarm.conds.any (condEligible s c) || s.alarm.events.any (eventEligible s c)

/-- The alarm LED mode (R176). -/
def ledOf (a : Alarm) : LedMode :=
  if a.conds.any fun r => r.active && 5 ≤ (classEntry a r.cls).level then .steady
  else if a.events.any fun r => r.latched && 5 ≤ (classEntry a r.cls).level then .blinking
  else .off

/-! ### Condition values in the owners' records -/

/-- Rotor of a chassis rotor number, 1 to 12: tray t rotor r is (t − 1) × 4 + r. -/
def rotorNumber (t : Tray) (r : Rotor) : Nat := t.val * 4 + r.val + 1

/-- BUDGET_TIGHT: a slot is DENIED, a port is HELD, or the grid-redundancy-lost flag is YES (R88). -/
def budgetTight (p : Power) : Bool :=
  (p.slots.toList.any fun r => match r.power with
    | .denied _ => true
    | _ => false)
  || (p.ports.toList.any fun st => match st with
    | .held _ => true
    | _ => false)
  || p.gridLost

/-- The value that the owner's records give to a condition now (R26, R53, R56, R60, R87, R88, R115);
false for a class or number that has no condition. -/
def conditionNow (s : State) (c : AlarmClass) (n : Nat) : Bool :=
  match c with
  | .psuFault =>
    match s.cool.supplies[n - 1]? with
    | some r => r.state = .failed
    | none => false
  | .psuInputLost =>
    match s.cool.supplies[n - 1]? with
    | some r => r.state = .off
    | none => false
  | .fanRotorFail =>
    match s.cool.trays[(n - 1) / 4]? with
    | some t =>
      match t.rotors[(n - 1) % 4]? with
      | some r => r.fit = .failed
      | none => false
    | none => false
  | .fanTrayAbsent =>
    match s.cool.trays[n - 1]? with
    | some t => t.maximum.isNone
    | none => false
  | .tempWarn => 45 ≤ s.cool.tIn
  | .tempCrit => 55 ≤ s.cool.tIn
  | .sensorLost =>
    match s.cool.sensors[n - 1]? with
    | some r => r.invalidPasses = 4
    | none => false
  | .budgetTight => budgetTight s.power
  | .slotFault =>
    match s.power.slots[n - 1]? with
    | some r => r.power = .faulted
    | none => false
  | .licenseWait => !s.lic.waiting.isEmpty
  | .peerSilent =>
    match n with
    | 1 => s.auth.presence.a = .silent
    | 2 => s.auth.presence.b = .silent
    | _ => false
  | .psuRemoved | .budgetShed | .slotChange | .licenseRevoked | .zoneDone | .zoneDistFail
  | .authorityChange | .lineBusError | .historyHalf => false

end Sys2Proof.Machine
end

