-- ==== Sys2Proof/Config.lean ====
section
/-! DEFINITION. The values the manual leaves open: constants without a body, so that no proof can
see what they are. -/

namespace Sys2Proof

/-- FREE VALUE (log 9): what an enable flag byte of SET ALARM MASK that is neither 0 nor 1 is taken
as. R192 gives only 1 for YES and 0 for NO, and R171 names no refusal for another byte. -/
opaque Config.unstatedFlag : Byte → Bool

/-- FREE VALUE (log 7): whether a FIELD transaction whose repeat after a parity failure (R31) no
expander answers ends PARITY (true) or NO_RESPONSE (false, R32). -/
opaque Config.silentRepeatIsParity : Bool

end Sys2Proof
end

