-- ==== Sys2Proof/Machine/Wire.lean ====
section
/-! DEFINITION. Byte layouts of the supervisor links (09_supervisor_links.md, Byte layouts): numbers,
frames and their CRC-16, and the check code of an entitlement (R97). -/

namespace Sys2Proof.Machine

/-! ### Numbers (R192) -/

/-- A number in `k` bytes, most significant byte first. -/
def be : Nat → Nat → List Byte
  | 0, _ => []
  | k + 1, n => be k (n / 256) ++ [BitVec.ofNat 8 n]

/-- The number that bytes carry, most significant byte first. -/
def beNum (bs : List Byte) : Nat := bs.foldl (fun n b => n * 256 + b.toNat) 0

/-- The `k`-byte number at offset `at_` of the parameters, as a word of `w` bits. -/
def wordAt (w : Nat) (ps : List Byte) (at_ k : Nat) : BitVec w :=
  BitVec.ofNat w (beNum ((ps.drop at_).take k))

/-- The byte at an offset of the parameters. -/
def byteAt (ps : List Byte) (at_ : Nat) : Byte := wordAt 8 ps at_ 1

/-- `n` numbers of four bytes each, from the front. -/
def words32 : Nat → List Byte → List (BitVec 32)
  | 0, _ => []
  | n + 1, bs => BitVec.ofNat 32 (beNum (bs.take 4)) :: words32 n (bs.drop 4)

/-! ### CRC-16 of a frame (R193) -/

/-- The bits of a byte, most significant first. -/
def bitsMsb (b : Byte) : List Bool := (List.range 8).map fun i => b.getLsbD (7 - i)

/-- The bits of a byte, least significant first. -/
def bitsLsb (b : Byte) : List Bool := (List.range 8).map fun i => b.getLsbD i

/-- One bit under the generator 0x1021. -/
def crc16Bit (r : BitVec 16) (bit : Bool) : BitVec 16 :=
  if r.getLsbD 15 != bit then (r <<< 1) ^^^ 0x1021 else r <<< 1

/-- CRC-16 over bytes, starting at 0xFFFF, most significant bit first, not complemented (R193). -/
def crc16 (bs : List Byte) : BitVec 16 :=
  bs.foldl (fun r b => (bitsMsb b).foldl crc16Bit r) 0xFFFF

/-! ### Frames (R193) -/

/-- Request frame: sync, length, tag, request code, parameters, CRC-16 high byte first. -/
def Frame.bytes (f : Frame) : List Byte :=
  let body := BitVec.ofNat 8 (f.params.length + 2) :: f.tag.setWidth 8 :: f.code :: f.params
  0xA5 :: body ++ be 2 (crc16 body).toNat

/-- The request that these bytes carry as one good frame (R184, R193); none when they are not a
complete frame whose CRC-16 is correct. The tag's high four bits are ignored. -/
def parseFrame (bs : List Byte) : Option Frame :=
  match bs with
  | sync :: len :: rest =>
    if sync = 0xA5 ∧ 2 ≤ len.toNat ∧ rest.length = len.toNat + 2
        ∧ beNum (rest.drop len.toNat) = (crc16 (len :: rest.take len.toNat)).toNat then
      match rest.take len.toNat with
      | tag :: code :: params => some ⟨tag.setWidth 4, code, params⟩
      | _ => none
    else none
  | _ => none

/-- The frames that a run of bytes brings, none for a bad one (R193). Bytes other than 0xA5 between frames
are skipped; from 0xA5 the length byte, as many bytes and the two of the CRC belong to the frame, and a
length byte below 2 makes it bad there. `fuel` bounds the bytes. A frame that the run cuts short is bad
(log 1). -/
def framesIn : Nat → List Byte → List (Option Frame)
  | 0, _ | _, [] => []
  | fuel + 1, b :: bs =>
    if b ≠ 0xA5 then framesIn fuel bs
    else
      match bs with
      | [] => [none]
      | len :: rest =>
        if len.toNat < 2 then none :: framesIn fuel rest
        else
          parseFrame (b :: len :: rest.take (len.toNat + 2))
            :: framesIn fuel (rest.drop (len.toNat + 2))

/-- The frames of a run of bytes. -/
def received (bytes : List Byte) : List (Option Frame) := framesIn bytes.length bytes

/-- The byte by which an outcome travels (09, Outcome codes). -/
def OutcomeCode.byte : OutcomeCode → Byte
  | .done => 0x00
  | .none => 0x01
  | .notHolder => 0x10
  | .silent => 0x11
  | .stale => 0x12
  | .heldByPeer => 0x13
  | .busy => 0x20
  | .zoneBusy => 0x21
  | .queueFull => 0x22
  | .badParam => 0x30
  | .bounds => 0x31
  | .noSpace => 0x32
  | .notFound => 0x33
  | .duplicate => 0x34
  | .checkFail => 0x35
  | .state => 0x36
  | .frozen => 0x37
  | .noResponse => 0x40
  | .parity => 0x41

/-- Response frame: sync, length in two bytes, tag, request code, outcome, results, CRC-16. -/
def Response.bytes (r : Response) : List Byte :=
  let body := be 2 (r.results.length + 3) ++ (r.tag.setWidth 8 :: r.code :: r.outcome.byte :: r.results)
  0x5A :: body ++ be 2 (crc16 body).toNat

/-! ### Check code of an entitlement (R97, R194) -/

/-- One bit under the bit-reversed generator 0xEDB88320. -/
def crc32Bit (r : BitVec 32) (bit : Bool) : BitVec 32 :=
  if r.getLsbD 0 != bit then (r >>> 1) ^^^ 0xEDB88320 else r >>> 1

/-- 32-bit cyclic redundancy code: all ones at the start, least significant bit first, complemented
at the end (R97). -/
def crc32 (bs : List Byte) : BitVec 32 :=
  ~~~ bs.foldl (fun r b => (bitsLsb b).foldl crc32Bit r) 0xFFFFFFFF

/-- The first 16 bytes of an entitlement record, in the order they are received (R96, R194). -/
def Entitlement.head (e : Entitlement) : List Byte :=
  be 4 e.id.toNat ++ be 2 e.units.toNat ++ [e.ceiling, e.flags] ++ be 8 e.serial.toNat

/-- The 20 bytes of an entitlement record; the check code travels least significant byte first
(R194). -/
def Entitlement.bytes (e : Entitlement) : List Byte := e.head ++ (be 4 e.check.toNat).reverse

/-- The entitlement record that 20 bytes carry. -/
def parseEntitlement (bs : List Byte) : Entitlement :=
  { id := wordAt 32 bs 0 4
    units := wordAt 16 bs 4 2
    ceiling := byteAt bs 6
    flags := byteAt bs 7
    serial := wordAt 64 bs 8 8
    check := BitVec.ofNat 32 (beNum ((bs.drop 16).take 4).reverse) }

/-! ### Results (R192) -/

/-- A one-byte number. -/
def u8 (n : Nat) : List Byte := be 1 n

/-- A two-byte number. -/
def u16 (n : Nat) : List Byte := be 2 n

/-- A four-byte number. -/
def u32 (n : BitVec 32) : List Byte := be 4 n.toNat

/-- A chassis time in six bytes. -/
def encTime (t : Time) : List Byte := be 6 t.toNat

/-- YES and true travel as 1, NO and false as 0. -/
def yes (b : Bool) : List Byte := u8 b.toNat

/-- A signed temperature: one byte in two's complement. -/
def temp (t : Int) : List Byte := [BitVec.ofInt 8 t]

/-- A field that may be absent: a marker byte, and the field when it is present. -/
def opt {α : Type} (enc : α → List Byte) : Option α → List Byte
  | none => u8 0
  | some x => u8 1 ++ enc x

/-- A list of varying length: its number of entries in one byte, then the entries. -/
def encList {α : Type} (enc : α → List Byte) (xs : List α) : List Byte :=
  u8 xs.length ++ xs.flatMap enc

/-- A CP travels as 1 for CP-A and 2 for CP-B. -/
def encCp : Cp → List Byte
  | .a => u8 1
  | .b => u8 2

/-- A holder: NONE is 0. -/
def encHolder : Option Cp → List Byte
  | none => u8 0
  | some c => encCp c

/-- Presence states ABSENT, SILENT, LIVE. -/
def encPresence : Presence → List Byte
  | .absent => u8 1
  | .silent => u8 2
  | .live _ => u8 3

/-- Causes in the order of R7. -/
def encCause : Cause → List Byte
  | .powerOn => u8 1
  | .claimed => u8 2
  | .yielded => u8 3
  | .heartbeatExpiry => u8 4
  | .linkLost => u8 5
  | .forced => u8 6
  | .claimOverSilent => u8 7

/-- A record that is PRESENT (1) or ABSENT (2). -/
def encPresent (b : Bool) : List Byte := u8 (if b then 1 else 2)

/-- Reserve policies in the order of R69. -/
def encPolicy : Policy → List Byte
  | .n => u8 1
  | .nPlus1 => u8 2
  | .grid => u8 3

/-- Default zoning: ALL is 1 and NONE is 0. -/
def encZoning : DefaultZoning → List Byte
  | .all => u8 1
  | .none => u8 0

/-- Automatic takeover in the order of R197: off, on (log 11). -/
def encTakeover (b : Bool) : List Byte := u8 (if b then 2 else 1)

/-- Supply states in the order of R48. -/
def encSupplyState : SupplyState → List Byte
  | .absent => u8 1
  | .off => u8 2
  | .good => u8 3
  | .failed => u8 4

/-- Input kinds in the order of R48. -/
def encInput : InputKind → List Byte
  | .highLine => u8 1
  | .lowLine => u8 2

/-- Sensor validity: VALID, INVALID (R54). -/
def encValid (b : Bool) : List Byte := u8 (if b then 1 else 2)

/-- Duty reasons in the order of R64. -/
def encReason : DutyReason → List Byte
  | .start => u8 1
  | .forced => u8 2
  | .temperature => u8 3
  | .load => u8 4
  | .noHolder => u8 5
  | .minimum => u8 6

/-- Slot power states in the order of R78. -/
def encSlotPower : SlotPower → List Byte
  | .empty => u8 1
  | .off => u8 2
  | .denied _ => u8 3
  | .powering _ => u8 4
  | .powered => u8 5
  | .faulted => u8 6

/-- Denial reasons in the order of R78. -/
def encDenial : DenialReason → List Byte
  | .waiting => u8 1
  | .shed => u8 2

/-- Slot admin: ON, OFF (R78). -/
def encAdmin (b : Bool) : List Byte := u8 (if b then 1 else 2)

/-- Port power states in the order of R84. -/
def encPortPower : PortPower → List Byte
  | .off => u8 1
  | .held _ => u8 2
  | .enabled _ => u8 3

/-- Recompute kinds: SHED, ADMISSION (R69). -/
def encKind : RecomputeKind → List Byte
  | .shed => u8 1
  | .admission => u8 2

/-- Port classes: 1 for S, 2 for M, 3 for H. -/
def PortClass.code : PortClass → Nat
  | .s => 1
  | .m => 2
  | .h => 3

/-- A port class. -/
def encClass (c : PortClass) : List Byte := u8 c.code

/-- A ceiling or effective class: NONE is 0. -/
def encClassOrNone : Option PortClass → List Byte
  | none => u8 0
  | some c => encClass c

/-- Port admin: UP, DOWN (R94). -/
def encUp (b : Bool) : List Byte := u8 (if b then 1 else 2)

/-- Transaction states in the order of R124. -/
def encTxnState : ZoneTxn → List Byte
  | .closed => u8 1
  | .opened _ => u8 2
  | .computing _ _ => u8 3
  | .held _ => u8 4

/-- Zone kinds: STANDARD, PEER (R122). -/
def encZoneKind : ZoneKind → List Byte
  | .standard => u8 1
  | .peer _ => u8 2

/-- Engine states in the order of R142. -/
def encEngine : EngineState → List Byte
  | .idle => u8 1
  | .distributing => u8 2
  | .awaitActivate => u8 3
  | .activating => u8 4
  | .failed => u8 5

/-- Set statuses in the order of R142. -/
def encStatus : SetStatus → List Byte
  | .queued => u8 1
  | .loading => u8 2
  | .awaitAck => u8 3
  | .loaded => u8 4
  | .failedLoad => u8 5

/-- Catch-up results: NONE is 0, DONE 1, FAILED 2 (R142). -/
def encCatchUp : CatchUpResult → List Byte
  | .none => u8 0
  | .done => u8 1
  | .failed => u8 2

/-- A slot number, 1 to 8. -/
def encSlot (i : Slot) : List Byte := u8 (i.val + 1)

/-- A port as a result: one byte, since its range is 0 to 255 (log 11). -/
def encPort (p : Port) : List Byte := u8 p.val

/-- Alarm kinds: CONDITION, EVENT (R159). -/
def encAlarmKind : AlarmKind → List Byte
  | .condition => u8 1
  | .event => u8 2

/-- Routes: NONE is 0, then ACTIVE, STANDBY, BOTH (R159). -/
def encRoute : Route → List Byte
  | .none => u8 0
  | .active => u8 1
  | .standby => u8 2
  | .both => u8 3

/-- LED modes in the order of R176: OFF, STEADY, BLINKING. -/
def encLed : LedMode → List Byte
  | .off => u8 1
  | .steady => u8 2
  | .blinking => u8 3

/-- Transitions of a history entry (R194). -/
def encTransition : Transition → List Byte
  | .raised => u8 1
  | .cleared => u8 2
  | .event => u8 3

/-- Half states in the order of R177: FILLING, FULL, FREE. -/
def encHalfState : HalfState → List Byte
  | .filling => u8 1
  | .full => u8 2
  | .free => u8 3

end Sys2Proof.Machine
end

