-- ==== Sys2Proof/Machine/Operands.lean ====
section
/-! DEFINITION. The operand forms of the requests: the codes of enumerated parameters (R192), the
requests with their parameters, and the reading of a request from its code and parameter bytes. -/

namespace Sys2Proof.Machine

/-! ### Codes of enumerated parameters (R192)

Values are numbered from 1 in the order their rule lists them; NONE, where it may stand, is 0. -/

/-- A CP code: 1 for CP-A, 2 for CP-B. -/
def cpOf (b : Byte) : Option Cp :=
  match b.toNat with
  | 1 => some .a
  | 2 => some .b
  | _ => none

/-- A policy code: N, N_PLUS_1, GRID (R89). -/
def policyOf (b : Byte) : Option Policy :=
  match b.toNat with
  | 1 => some .n
  | 2 => some .nPlus1
  | 3 => some .grid
  | _ => none

/-- A slot action: ON (true), OFF (R90). -/
def slotActionOf (b : Byte) : Option Bool :=
  match b.toNat with
  | 1 => some true
  | 2 => some false
  | _ => none

/-- A port action: UP (true), DOWN (R109). -/
def portActionOf (b : Byte) : Option Bool :=
  match b.toNat with
  | 1 => some true
  | 2 => some false
  | _ => none

/-- A port class: S, M, H (R109). -/
def classOf (b : Byte) : Option PortClass :=
  match b.toNat with
  | 1 => some .s
  | 2 => some .m
  | 3 => some .h
  | _ => none

/-- A slot number, 1 to 8. -/
def slotOf (b : Byte) : Option Slot :=
  if h : 1 ≤ b.toNat ∧ b.toNat ≤ 8 then some ⟨b.toNat - 1, by omega⟩ else none

/-- A tray number, 1 to 3 (R67). -/
def trayOf (b : Byte) : Option Tray :=
  if h : 1 ≤ b.toNat ∧ b.toNat ≤ 3 then some ⟨b.toNat - 1, by omega⟩ else none

/-- Modes of BEGIN ZONE EDIT (R126). -/
inductive EditMode where
  | fromActive
  | empty
  deriving DecidableEq, Repr

/-- A mode code: FROM_ACTIVE, EMPTY (R126). -/
def editModeOf (b : Byte) : Option EditMode :=
  match b.toNat with
  | 1 => some .fromActive
  | 2 => some .empty
  | _ => none

/-- A zone kind code: STANDARD, PEER (R128); a new PEER zone has an empty principal set. -/
def zoneKindOf (b : Byte) : Option ZoneKind :=
  match b.toNat with
  | 1 => some .standard
  | 2 => some (.peer [])
  | _ => none

/-- Principal codes of ADD MEMBER (R130). -/
inductive PrincipalCode where
  | notGiven
  | principal
  | ordinary
  deriving DecidableEq, Repr

/-- A principal code: NOT_GIVEN, PRINCIPAL, ORDINARY (R130). -/
def principalOf (b : Byte) : Option PrincipalCode :=
  match b.toNat with
  | 1 => some .notGiven
  | 2 => some .principal
  | 3 => some .ordinary
  | _ => none

/-- A zone number or port of two bytes: 0 to 255. -/
def index256 (w : BitVec 16) : Option (Fin 256) :=
  if h : w.toNat < 256 then some ⟨w.toNat, h⟩ else none

/-- Zone levels that READ ZONE names (R136). -/
inductive ZoneLevel where
  | staging
  | pending
  | active
  deriving DecidableEq, Repr

/-- A level code: STAGING, PENDING, ACTIVE (R136). -/
def levelOf (b : Byte) : Option ZoneLevel :=
  match b.toNat with
  | 1 => some .staging
  | 2 => some .pending
  | 3 => some .active
  | _ => none

/-- A hold flag code: YES, NO (R139). -/
def holdOf (b : Byte) : Option Bool :=
  match b.toNat with
  | 0 => some false
  | 1 => some true
  | _ => none

/-- A class number, 1 to 20 (R159). -/
def alarmClassOf (b : Byte) : Option AlarmClass :=
  if b.toNat = 0 then none else AlarmClass.all[b.toNat - 1]?

/-- A route code: NONE, ACTIVE, STANDBY, BOTH (R173). -/
def routeOf (b : Byte) : Option Route :=
  match b.toNat with
  | 0 => some .none
  | 1 => some .active
  | 2 => some .standby
  | 3 => some .both
  | _ => none

/-- An enable flag: YES is 1 and NO is 0 (R192); what another byte is taken as is a free value
(log 9). -/
def flagOf (b : Byte) : Bool :=
  match b.toNat with
  | 0 => false
  | 1 => true
  | _ => Config.unstatedFlag b

/-- A history half, 0 or 1 (R179). -/
def halfOf (b : Byte) : Option (Fin 2) :=
  match b.toNat with
  | 0 => some 0
  | 1 => some 1
  | _ => none

/-! ### The request table (09_supervisor_links.md) -/

/-- The requests of the request table other than HEARTBEAT, with their parameters as they travel
(R192): a value outside its range is still a parameter here, for the check of its own rule. -/
inductive Request where
  | claimAuthority (epoch : BitVec 32)
  | yieldAuthority
  | takeOver (epoch : BitVec 32)
  | readAuthority
  | adoptDeparted
  | discardDeparted
  | writeHandover (first count : Byte) (words : List (BitVec 32))
  | readHandover (target : Byte) (first : Byte) (count : Byte)
  | setMaintenanceField (target : Byte) (base : BitVec 16) (length : BitVec 16)
  | maintTest (line : BitVec 16)
  | maintSet (line : BitVec 16)
  | maintClear (line : BitVec 16)
  | maintFieldRead (first : BitVec 16) (count : Byte)
  | maintFieldWrite (first : BitVec 16) (count : Byte) (data : BitVec 16)
  | senseRead (first : BitVec 16) (count : Byte)
  | readSupply
  | readTray (tray : Byte)
  | readTemperature
  | setReservePolicy (policy : Byte)
  | slotPower (slot : Byte) (action : Byte)
  | setShedPriority (slot : Byte) (priority : Byte)
  | readBudget
  | readSlot (slot : Byte)
  | installEntitlement (record : Entitlement)
  | removeEntitlement (id : BitVec 32)
  | portAdmin (group : Byte) (mask : Byte) (action : Byte) (cls : Byte)
  | readPortGroup (group : Byte)
  | readPool
  | readGrantList (position : BitVec 16)
  | readWaitQueue (position : BitVec 16)
  | readEntitlements
  | beginZoneEdit (mode : Byte)
  | cancelZoneEdit
  | createZone (zone : BitVec 16) (kind : Byte)
  | deleteZone (zone : BitVec 16)
  | addMember (zone : BitVec 16) (port : BitVec 16) (principal : Byte)
  | removeMember (zone : BitVec 16) (port : BitVec 16)
  | readZone (level : Byte) (zone : BitVec 16) (position : Byte)
  | commitZones (hold : Byte)
  | activateZones
  | retryDistribution
  | abortDistribution
  | queryReach (p : BitVec 16) (q : BitVec 16)
  | readZoneStatus
  | fetchNotice
  | retireNotice
  | setAlarmMask (flags : Vector Byte 20)
  | setAlarmLevel (cls : Byte) (level : Byte)
  | setAlarmRoute (cls : Byte) (route : Byte)
  | injectAlarm (cls : Byte) (number : BitVec 16)
  | withdrawInjection (cls : Byte) (number : BitVec 16)
  | readAlarm (cls : Byte) (number : BitVec 16)
  | releaseHistoryHalf (half : Byte)
  | readHistory (half : Byte) (first : Byte) (count : Byte)
  | readTime
  | readIdentity
  deriving DecidableEq, Repr

/-- The request code by which a request travels (09, The request table). -/
def Request.code : Request → Byte
  | .claimAuthority _ => 0x02
  | .yieldAuthority => 0x03
  | .takeOver _ => 0x04
  | .readAuthority => 0x05
  | .adoptDeparted => 0x06
  | .discardDeparted => 0x07
  | .writeHandover _ _ _ => 0x08
  | .readHandover _ _ _ => 0x09
  | .setMaintenanceField _ _ _ => 0x10
  | .maintTest _ => 0x11
  | .maintSet _ => 0x12
  | .maintClear _ => 0x13
  | .maintFieldRead _ _ => 0x14
  | .maintFieldWrite _ _ _ => 0x15
  | .senseRead _ _ => 0x16
  | .readSupply => 0x20
  | .readTray _ => 0x21
  | .readTemperature => 0x22
  | .setReservePolicy _ => 0x30
  | .slotPower _ _ => 0x31
  | .setShedPriority _ _ => 0x32
  | .readBudget => 0x33
  | .readSlot _ => 0x34
  | .installEntitlement _ => 0x40
  | .removeEntitlement _ => 0x41
  | .portAdmin _ _ _ _ => 0x42
  | .readPortGroup _ => 0x43
  | .readPool => 0x44
  | .readGrantList _ => 0x45
  | .readWaitQueue _ => 0x46
  | .readEntitlements => 0x47
  | .beginZoneEdit _ => 0x50
  | .cancelZoneEdit => 0x51
  | .createZone _ _ => 0x52
  | .deleteZone _ => 0x53
  | .addMember _ _ _ => 0x54
  | .removeMember _ _ => 0x55
  | .readZone _ _ _ => 0x56
  | .commitZones _ => 0x58
  | .activateZones => 0x59
  | .retryDistribution => 0x5A
  | .abortDistribution => 0x5B
  | .queryReach _ _ => 0x5C
  | .readZoneStatus => 0x5D
  | .fetchNotice => 0x60
  | .retireNotice => 0x61
  | .setAlarmMask _ => 0x62
  | .setAlarmLevel _ _ => 0x63
  | .setAlarmRoute _ _ => 0x64
  | .injectAlarm _ _ => 0x65
  | .withdrawInjection _ _ => 0x66
  | .readAlarm _ _ => 0x67
  | .releaseHistoryHalf _ => 0x68
  | .readHistory _ _ _ => 0x69
  | .readTime => 0x70
  | .readIdentity => 0x71

/-- Requests marked holder-only in the request table: the mutating requests (R16). -/
def Request.holderOnly : Request → Bool
  | .claimAuthority _ => false
  | .yieldAuthority => true
  | .takeOver _ => false
  | .readAuthority => false
  | .adoptDeparted => true
  | .discardDeparted => true
  | .writeHandover _ _ _ => false
  | .readHandover _ _ _ => false
  | .setMaintenanceField _ _ _ => true
  | .maintTest _ => false
  | .maintSet _ => false
  | .maintClear _ => false
  | .maintFieldRead _ _ => false
  | .maintFieldWrite _ _ _ => false
  | .senseRead _ _ => false
  | .readSupply => false
  | .readTray _ => false
  | .readTemperature => false
  | .setReservePolicy _ => true
  | .slotPower _ _ => true
  | .setShedPriority _ _ => true
  | .readBudget => false
  | .readSlot _ => false
  | .installEntitlement _ => true
  | .removeEntitlement _ => true
  | .portAdmin _ _ _ _ => true
  | .readPortGroup _ => false
  | .readPool => false
  | .readGrantList _ => false
  | .readWaitQueue _ => false
  | .readEntitlements => false
  | .beginZoneEdit _ => true
  | .cancelZoneEdit => true
  | .createZone _ _ => true
  | .deleteZone _ => true
  | .addMember _ _ _ => true
  | .removeMember _ _ => true
  | .readZone _ _ _ => false
  | .commitZones _ => true
  | .activateZones => true
  | .retryDistribution => true
  | .abortDistribution => true
  | .queryReach _ _ => false
  | .readZoneStatus => false
  | .fetchNotice => false
  | .retireNotice => false
  | .setAlarmMask _ => false
  | .setAlarmLevel _ _ => true
  | .setAlarmRoute _ _ => true
  | .injectAlarm _ _ => true
  | .withdrawInjection _ _ => true
  | .readAlarm _ _ => false
  | .releaseHistoryHalf _ => true
  | .readHistory _ _ _ => false
  | .readTime => false
  | .readIdentity => false

/-- The parameter bytes by which a request travels, in the order its rule lists them (R192). -/
def Request.params : Request → List Byte
  | .claimAuthority epoch => be 4 epoch.toNat
  | .yieldAuthority => []
  | .takeOver epoch => be 4 epoch.toNat
  | .readAuthority => []
  | .adoptDeparted => []
  | .discardDeparted => []
  | .writeHandover first count words =>
    [first, count] ++ words.flatMap fun w => be 4 w.toNat
  | .readHandover target first count => [target] ++ [first] ++ [count]
  | .setMaintenanceField target base length => [target] ++ be 2 base.toNat ++ be 2 length.toNat
  | .maintTest line => be 2 line.toNat
  | .maintSet line => be 2 line.toNat
  | .maintClear line => be 2 line.toNat
  | .maintFieldRead first count => be 2 first.toNat ++ [count]
  | .maintFieldWrite first count data => be 2 first.toNat ++ [count] ++ be 2 data.toNat
  | .senseRead first count => be 2 first.toNat ++ [count]
  | .readSupply => []
  | .readTray tray => [tray]
  | .readTemperature => []
  | .setReservePolicy policy => [policy]
  | .slotPower slot action => [slot] ++ [action]
  | .setShedPriority slot priority => [slot] ++ [priority]
  | .readBudget => []
  | .readSlot slot => [slot]
  | .installEntitlement record => record.bytes
  | .removeEntitlement id => be 4 id.toNat
  | .portAdmin group mask action cls => [group] ++ [mask] ++ [action] ++ [cls]
  | .readPortGroup group => [group]
  | .readPool => []
  | .readGrantList position => be 2 position.toNat
  | .readWaitQueue position => be 2 position.toNat
  | .readEntitlements => []
  | .beginZoneEdit mode => [mode]
  | .cancelZoneEdit => []
  | .createZone zone kind => be 2 zone.toNat ++ [kind]
  | .deleteZone zone => be 2 zone.toNat
  | .addMember zone port principal => be 2 zone.toNat ++ be 2 port.toNat ++ [principal]
  | .removeMember zone port => be 2 zone.toNat ++ be 2 port.toNat
  | .readZone level zone position => [level] ++ be 2 zone.toNat ++ [position]
  | .commitZones hold => [hold]
  | .activateZones => []
  | .retryDistribution => []
  | .abortDistribution => []
  | .queryReach p q => be 2 p.toNat ++ be 2 q.toNat
  | .readZoneStatus => []
  | .fetchNotice => []
  | .retireNotice => []
  | .setAlarmMask flags => flags.toList
  | .setAlarmLevel cls level => [cls] ++ [level]
  | .setAlarmRoute cls route => [cls] ++ [route]
  | .injectAlarm cls number => [cls] ++ be 2 number.toNat
  | .withdrawInjection cls number => [cls] ++ be 2 number.toNat
  | .readAlarm cls number => [cls] ++ be 2 number.toNat
  | .releaseHistoryHalf half => [half]
  | .readHistory half first count => [half] ++ [first] ++ [count]
  | .readTime => []
  | .readIdentity => []

/-- The request that a request code and parameter bytes carry; none when the code is not one of the
request table, or the number of parameter bytes differs from the number its code requires (R185
step 2). For WRITE HANDOVER that number is 2 plus 4 times the count given. -/
def Request.parse (code : Byte) (ps : List Byte) : Option Request :=
  match code.toNat with
  | 0x02 => if ps.length = 4 then some (.claimAuthority (wordAt 32 ps 0 4)) else none
  | 0x03 => if ps.length = 0 then some .yieldAuthority else none
  | 0x04 => if ps.length = 4 then some (.takeOver (wordAt 32 ps 0 4)) else none
  | 0x05 => if ps.length = 0 then some .readAuthority else none
  | 0x06 => if ps.length = 0 then some .adoptDeparted else none
  | 0x07 => if ps.length = 0 then some .discardDeparted else none
  | 0x08 =>
    if 2 ≤ ps.length ∧ ps.length = 2 + 4 * (byteAt ps 1).toNat then
      some (.writeHandover (byteAt ps 0) (byteAt ps 1) (words32 (byteAt ps 1).toNat (ps.drop 2)))
    else none
  | 0x09 =>
    if ps.length = 3 then some (.readHandover (byteAt ps 0) (byteAt ps 1) (byteAt ps 2))
    else none
  | 0x10 =>
    if ps.length = 5 then some (.setMaintenanceField (byteAt ps 0) (wordAt 16 ps 1 2) (wordAt 16 ps 3 2))
    else none
  | 0x11 => if ps.length = 2 then some (.maintTest (wordAt 16 ps 0 2)) else none
  | 0x12 => if ps.length = 2 then some (.maintSet (wordAt 16 ps 0 2)) else none
  | 0x13 => if ps.length = 2 then some (.maintClear (wordAt 16 ps 0 2)) else none
  | 0x14 => if ps.length = 3 then some (.maintFieldRead (wordAt 16 ps 0 2) (byteAt ps 2)) else none
  | 0x15 =>
    if ps.length = 5 then some (.maintFieldWrite (wordAt 16 ps 0 2) (byteAt ps 2) (wordAt 16 ps 3 2))
    else none
  | 0x16 => if ps.length = 3 then some (.senseRead (wordAt 16 ps 0 2) (byteAt ps 2)) else none
  | 0x20 => if ps.length = 0 then some .readSupply else none
  | 0x21 => if ps.length = 1 then some (.readTray (byteAt ps 0)) else none
  | 0x22 => if ps.length = 0 then some .readTemperature else none
  | 0x30 => if ps.length = 1 then some (.setReservePolicy (byteAt ps 0)) else none
  | 0x31 => if ps.length = 2 then some (.slotPower (byteAt ps 0) (byteAt ps 1)) else none
  | 0x32 => if ps.length = 2 then some (.setShedPriority (byteAt ps 0) (byteAt ps 1)) else none
  | 0x33 => if ps.length = 0 then some .readBudget else none
  | 0x34 => if ps.length = 1 then some (.readSlot (byteAt ps 0)) else none
  | 0x40 => if ps.length = 20 then some (.installEntitlement (parseEntitlement ps)) else none
  | 0x41 => if ps.length = 4 then some (.removeEntitlement (wordAt 32 ps 0 4)) else none
  | 0x42 =>
    if ps.length = 4 then some (.portAdmin (byteAt ps 0) (byteAt ps 1) (byteAt ps 2) (byteAt ps 3))
    else none
  | 0x43 => if ps.length = 1 then some (.readPortGroup (byteAt ps 0)) else none
  | 0x44 => if ps.length = 0 then some .readPool else none
  | 0x45 => if ps.length = 2 then some (.readGrantList (wordAt 16 ps 0 2)) else none
  | 0x46 => if ps.length = 2 then some (.readWaitQueue (wordAt 16 ps 0 2)) else none
  | 0x47 => if ps.length = 0 then some .readEntitlements else none
  | 0x50 => if ps.length = 1 then some (.beginZoneEdit (byteAt ps 0)) else none
  | 0x51 => if ps.length = 0 then some .cancelZoneEdit else none
  | 0x52 => if ps.length = 3 then some (.createZone (wordAt 16 ps 0 2) (byteAt ps 2)) else none
  | 0x53 => if ps.length = 2 then some (.deleteZone (wordAt 16 ps 0 2)) else none
  | 0x54 =>
    if ps.length = 5 then some (.addMember (wordAt 16 ps 0 2) (wordAt 16 ps 2 2) (byteAt ps 4))
    else none
  | 0x55 =>
    if ps.length = 4 then some (.removeMember (wordAt 16 ps 0 2) (wordAt 16 ps 2 2))
    else none
  | 0x56 =>
    if ps.length = 4 then some (.readZone (byteAt ps 0) (wordAt 16 ps 1 2) (byteAt ps 3))
    else none
  | 0x58 => if ps.length = 1 then some (.commitZones (byteAt ps 0)) else none
  | 0x59 => if ps.length = 0 then some .activateZones else none
  | 0x5A => if ps.length = 0 then some .retryDistribution else none
  | 0x5B => if ps.length = 0 then some .abortDistribution else none
  | 0x5C => if ps.length = 4 then some (.queryReach (wordAt 16 ps 0 2) (wordAt 16 ps 2 2)) else none
  | 0x5D => if ps.length = 0 then some .readZoneStatus else none
  | 0x60 => if ps.length = 0 then some .fetchNotice else none
  | 0x61 => if ps.length = 0 then some .retireNotice else none
  | 0x62 => if h : ps.length = 20 then some (.setAlarmMask ⟨ps.toArray, by simpa using h⟩) else none
  | 0x63 => if ps.length = 2 then some (.setAlarmLevel (byteAt ps 0) (byteAt ps 1)) else none
  | 0x64 => if ps.length = 2 then some (.setAlarmRoute (byteAt ps 0) (byteAt ps 1)) else none
  | 0x65 => if ps.length = 3 then some (.injectAlarm (byteAt ps 0) (wordAt 16 ps 1 2)) else none
  | 0x66 =>
    if ps.length = 3 then some (.withdrawInjection (byteAt ps 0) (wordAt 16 ps 1 2))
    else none
  | 0x67 => if ps.length = 3 then some (.readAlarm (byteAt ps 0) (wordAt 16 ps 1 2)) else none
  | 0x68 => if ps.length = 1 then some (.releaseHistoryHalf (byteAt ps 0)) else none
  | 0x69 =>
    if ps.length = 3 then some (.readHistory (byteAt ps 0) (byteAt ps 1) (byteAt ps 2))
    else none
  | 0x70 => if ps.length = 0 then some .readTime else none
  | 0x71 => if ps.length = 0 then some .readIdentity else none
  | _ => none

/-- The frame by which a request travels under a tag. -/
def Request.frame (tag : BitVec 4) (r : Request) : Frame := ⟨tag, r.code, r.params⟩

/-- The request code of HEARTBEAT, which carries no parameters. -/
def heartbeatCode : Byte := 0x01

end Sys2Proof.Machine
end

