-- ==== Sys2Proof/Machine/Alarm.lean ====
section
/-! DEFINITION. The Alarm Unit: occurrences, the history ring, re-evaluation, and the requests of
08_alarms_notices_and_the_history_ring.md. -/

namespace Sys2Proof.Machine

/-! ### Re-evaluation (R166, R176) -/

/-- Eligibility is evaluated afresh, the attention lines are driven to match and the LED mode is
re-formed; at a change of mode the indicator field joins class 1 (R166, R176). -/
def reevaluate (s : State) : State :=
  let led := ledOf s.alarm
  let t := s.modAlarm fun a => { a with attn := ⟨attentionOf s .a, attentionOf s .b⟩, led := led }
  if led = s.alarm.led then t else joinHeld .indicator t

/-! ### Rows -/

/-- Apply `f` to one CONDITION row. -/
def modCond (c : AlarmClass) (n : Nat) (f : CondRow → CondRow) (s : State) : State :=
  s.modAlarm fun a =>
    { a with conds := a.conds.map fun r => if r.cls = c ∧ r.number = n then f r else r }

/-- Apply `f` to one EVENT row. -/
def modEvent (c : AlarmClass) (n : Nat) (f : EventRow → EventRow) (s : State) : State :=
  s.modAlarm fun a =>
    { a with events := a.events.map fun r => if r.cls = c ∧ r.number = n then f r else r }

/-- The CONDITION row of a class and number. -/
def condRow? (a : Alarm) (c : AlarmClass) (n : Nat) : Option CondRow :=
  a.conds.find? fun r => r.cls = c ∧ r.number = n

/-- The EVENT row of a class and number. -/
def eventRow? (a : Alarm) (c : AlarmClass) (n : Nat) : Option EventRow :=
  a.events.find? fun r => r.cls = c ∧ r.number = n

/-- When a row stops being active, both seen marks are cleared in the same step (R161). -/
def CondRow.settleSeen (r : CondRow) : CondRow :=
  if r.active then r else { r with seen := ⟨false, false⟩ }

/-! ### History ring (R177, R178) -/

/-- The half that is FILLING, where the writer stands; none while the writer is STALLED (R177). -/
def fillingHalf (a : Alarm) : Option (Fin 2) :=
  if a.half0.state = .filling then some 0
  else if a.half1.state = .filling then some 1
  else none

/-- A half of the ring. -/
def halfAt (a : Alarm) (h : Fin 2) : Half := if h = 0 then a.half0 else a.half1

/-- Replace a half of the ring. -/
def putHalf (a : Alarm) (h : Fin 2) (v : Half) : Alarm :=
  if h = 0 then { a with half0 := v } else { a with half1 := v }

/-- The other half. -/
def otherHalf (h : Fin 2) : Fin 2 := if h = 0 then 1 else 0

/-- The latches that an EVENT occurrence sets by the class route at this moment (R163). -/
def setLatches (a : Authority) (route : Route) (r : EventRow) : EventRow :=
  match route with
  | .active => { r with latchH := true }
  | .standby | .both =>
    { r with latch := ⟨r.latch.a || routeTargets a route .a, r.latch.b || routeTargets a route .b⟩ }
  | .none => r

/-- Step 1 of R160 for an EVENT occurrence: last, injected and the latches (R163). -/
def latchEvent (c : AlarmClass) (n : Nat) (injected : Bool) (s : State) : State :=
  modEvent c n
    (fun r =>
      setLatches s.auth (classEntry s.alarm c).route { r with last := s.time, injected := injected })
    s

/-- After a write made the filled count 32 (R178): the half becomes FULL, one HISTORY_HALF occurrence
is taken for it without an entry, and the other half becomes FILLING if it is FREE. -/
def closeHalf (h : Fin 2) (s : State) : State :=
  let s1 := s.modAlarm fun a => putHalf a h { halfAt a h with state := .full }
  let s2 := latchEvent .historyHalf (h.val + 1) false s1
  s2.modAlarm fun a =>
    if (halfAt a (otherHalf h)).state = .free then putHalf a (otherHalf h) ⟨.filling, []⟩ else a

/-- Steps 2 and 3 of R160: an entry for the occurrence is written at the writer's position, or is
lost with the overrun flag set while the writer is STALLED (R178). -/
def appendHistory (c : AlarmClass) (n : Nat) (tr : Transition) (injected : Bool) (s : State) :
    State :=
  if c = .historyHalf then s
  else
    match fillingHalf s.alarm with
    | none => s.modAlarm fun a => { a with overrun := true }
    | some h =>
      let e : HistoryEntry :=
        { time := s.time.setWidth 32, cls := c, number := n, transition := tr, injected := injected,
          level := (classEntry s.alarm c).level, epoch := s.auth.epoch }
      let entries := (halfAt s.alarm h).entries ++ [e]
      let s1 := s.modAlarm fun a => putHalf a h ⟨.filling, entries⟩
      if entries.length = 32 then closeHalf h s1 else s1

/-! ### Occurrences (R160) -/

/-- An owner hands a change of a condition: RAISED or CLEARED (R162). -/
def occurCondition (c : AlarmClass) (n : Nat) (value : Bool) (s : State) : State :=
  let s1 := modCond c n (fun r => { r with condition := value, changed := s.time }.settleSeen) s
  reevaluate (appendHistory c n (if value then .raised else .cleared) false s1)

/-- An EVENT occurrence (R163). -/
def occurEvent (c : AlarmClass) (n : Nat) (injected : Bool) (s : State) : State :=
  reevaluate (appendHistory c n .event injected (latchEvent c n injected s))

/-- The forced flag of a CONDITION row changes by INJECT ALARM or WITHDRAW INJECTION (R174, R175). -/
def occurForced (c : AlarmClass) (n : Nat) (forced : Bool) (s : State) : State :=
  let s1 := modCond c n (fun r => { r with forced := forced, changed := s.time }.settleSeen) s
  reevaluate (appendHistory c n (if forced then .raised else .cleared) true s1)

/-- The condition of a row as the Alarm Unit holds it. -/
def heldCondition (a : Alarm) (c : AlarmClass) (n : Nat) : Bool :=
  match condRow? a c n with
  | some r => r.condition
  | none => false

/-- The owner hands the value its records give to a condition, if it is a change from what the Alarm
Unit holds (R160). -/
def handCondition (c : AlarmClass) (n : Nat) (s : State) : State :=
  let v := conditionNow s c n
  if heldCondition s.alarm c n = v then s else occurCondition c n v s

/-- Likewise for the classes withheld until the Cooling Controller has settled (R62, R87, R88). -/
def handSettled (c : AlarmClass) (n : Nat) (s : State) : State :=
  if s.cool.settled then handCondition c n s else s

/-- An EVENT occurrence of a class withheld until the Cooling Controller has settled. -/
def eventSettled (c : AlarmClass) (n : Nat) (s : State) : State :=
  if s.cool.settled then occurEvent c n false s else s

/-- The row number of PEER_SILENT for a CP (R26). -/
def cpNumber : Cp → Nat
  | .a => 1
  | .b => 2

/-! ### Link reset of a CP (R183) -/

/-- The CP's stack is emptied, its seen marks and latches cleared, its mask all-enabled. -/
def clearService (c : Cp) (s : State) : State :=
  reevaluate <| s.modAlarm fun a =>
    { a with
      conds := a.conds.map fun r => { r with seen := r.seen.put c false }
      events := a.events.map fun r => { r with latch := r.latch.put c false }
      mask := a.mask.put c maskAll
      stack := a.stack.put c [] }

/-! ### Fetching and retiring notices -/

/-- An eligible row as FETCH NOTICE chooses among them. -/
abbrev Candidate := StackEntry

/-- The rows eligible for a CP. -/
def candidates (s : State) (c : Cp) : List Candidate :=
  (s.alarm.conds.filter (condEligible s c)).map
      (fun r => ⟨(classEntry s.alarm r.cls).level, r.cls, r.number⟩)
    ++ (s.alarm.events.filter (eventEligible s c)).map
      (fun r => ⟨(classEntry s.alarm r.cls).level, r.cls, r.number⟩)

/-- Whether the first is chosen before the second: higher level, then lower class number, then lower
number (R169). -/
def Candidate.before (x y : Candidate) : Bool :=
  y.level < x.level
    || (x.level = y.level
      && (x.cls.number < y.cls.number || (x.cls = y.cls && x.number < y.number)))

/-- The most urgent of the candidates (R169). -/
def mostUrgent : List Candidate → Option Candidate
  | [] => none
  | x :: xs =>
    match mostUrgent xs with
    | none => some x
    | some y => if y.before x then some y else some x

/-- The chosen row is marked taken for the requester: the seen mark of a condition; of an event every
latch that made it eligible (R169). -/
def markTaken (c : Cp) (e : StackEntry) (s : State) : State :=
  match e.cls.kind with
  | .condition => modCond e.cls e.number (fun r => { r with seen := r.seen.put c true }) s
  | .event =>
    modEvent e.cls e.number
      (fun r =>
        { r with
          latch := r.latch.put c false
          latchH := r.latchH && !routeTargets s.auth .active c })
      s

/-- Encode a class number. -/
def encAlarmClass (c : AlarmClass) : List Byte := u8 c.number

/-- The requester's attention line. -/
def encAttention (s : State) (c : Cp) : List Byte := yes (s.alarm.attn.get c)

/-- What a block answers to a request it takes: a completed request with its results, a data-transfer
read whose response is formed now (R188), or a request that takes time. -/
inductive Took where
  | reply (outcome : OutcomeCode) (results : List Byte)
  | transfer (outcome : OutcomeCode) (results : List Byte)
  | waits (phase : Phase)
  deriving DecidableEq, Repr

/-- FETCH NOTICE (R169). The fields of the row's kind travel without a marker: the kind before them says
which they are (log 37). -/
def fetchNotice (c : Cp) (s : State) : State × Took :=
  match mostUrgent (candidates s c) with
  | none => (s, .reply .none (u8 (s.alarm.stack.get c).length ++ encAttention s c))
  | some e =>
    let pushed := s.modAlarm fun a => { a with stack := a.stack.put c (e :: a.stack.get c) }
    let t := reevaluate (markTaken c e pushed)
    let row :=
      match e.cls.kind with
      | .condition =>
        match condRow? t.alarm e.cls e.number with
        | some r => yes r.condition ++ yes r.forced ++ encTime r.changed
        | none => []
      | .event =>
        match eventRow? t.alarm e.cls e.number with
        | some r => encTime r.last ++ yes r.injected
        | none => []
    (t, .reply .done
      (encAlarmClass e.cls ++ u16 e.number ++ encAlarmKind e.cls.kind ++ u8 e.level ++ row
        ++ u8 (t.alarm.stack.get c).length ++ encAttention t c))

/-- RETIRE NOTICE (R170). -/
def retireNotice (c : Cp) (s : State) : State × Took :=
  let after (t : State) : List Byte :=
    u8 (t.alarm.stack.get c).length ++ u8 (topLevel (t.alarm.stack.get c)) ++ encAttention t c
  match s.alarm.stack.get c with
  | [] => (s, .reply .state (after s))
  | e :: rest =>
    let t := reevaluate (s.modAlarm fun a => { a with stack := a.stack.put c rest })
    (t, .reply .done (u8 e.level ++ encAlarmClass e.cls ++ u16 e.number ++ after t))

/-! ### Masks, levels and routes -/

/-- The twenty enable flags of a mask. -/
def encMask (m : Vector Bool 20) : List Byte := m.toList.flatMap yes

/-- SET ALARM MASK (R171). -/
def setAlarmMask (c : Cp) (flags : Vector Byte 20) (s : State) : State × Took :=
  let t := reevaluate (s.modAlarm fun a => { a with mask := a.mask.put c (flags.map flagOf) })
  (t, .reply .done (encMask (t.alarm.mask.get c) ++ encAttention t c))

/-- A level clamped to 1 to 7 (R172). -/
def clampLevel (n : Nat) : Nat := max 1 (min 7 n)

/-- SET ALARM LEVEL (R172). A class out of range names no class whose level could be carried. -/
def setAlarmLevel (cls level : Byte) (s : State) : State × Took :=
  match alarmClassOf cls with
  | none => (s, .reply .badParam [])
  | some c =>
    let t := reevaluate <| s.modAlarm fun a =>
      { a with classes := updAt a.classes c.index fun e => { e with level := clampLevel level.toNat } }
    (t, .reply .done (encAlarmClass c ++ u8 (classEntry t.alarm c).level))

/-- SET ALARM ROUTE (R173). -/
def setAlarmRoute (cls route : Byte) (s : State) : State × Took :=
  match alarmClassOf cls with
  | none => (s, .reply .badParam [])
  | some c =>
    let results (t : State) : List Byte := encAlarmClass c ++ encRoute (classEntry t.alarm c).route
    match routeOf route with
    | none => (s, .reply .badParam (results s))
    | some r =>
      if c = .peerSilent ∧ r = .none then (s, .reply .badParam (results s))
      else
        let t := reevaluate <| s.modAlarm fun a =>
          { a with classes := updAt a.classes c.index fun e => { e with route := r } }
        (t, .reply .done (results t))

/-! ### Injection -/

/-- Class and number in range (R174). -/
def alarmRef (cls : Byte) (number : BitVec 16) : Option (AlarmClass × Nat) :=
  match alarmClassOf cls with
  | none => none
  | some c => if 1 ≤ number.toNat ∧ number.toNat ≤ c.count then some (c, number.toNat) else none

/-- Condition and forced flag of a CONDITION row as results. -/
def encCondition (s : State) (c : AlarmClass) (n : Nat) : List Byte :=
  match condRow? s.alarm c n with
  | some r => yes r.condition ++ yes r.forced
  | none => []

/-- The forced flag of a row. -/
def isForced (s : State) (c : AlarmClass) (n : Nat) : Bool :=
  match condRow? s.alarm c n with
  | some r => r.forced
  | none => false

/-- INJECT ALARM (R174). Condition and forced, listed for a CONDITION alone, travel without a marker
(log 37). A refusal carries nothing: whether the injection changed anything is a result of a request
that was carried out (log 10). -/
def injectAlarm (cls : Byte) (number : BitVec 16) (s : State) : State × Took :=
  match alarmRef cls number with
  | none => (s, .reply .badParam [])
  | some (c, n) =>
    match c.kind with
    | .event =>
      let t := occurEvent c n true s
      (t, .reply .done (yes true))
    | .condition =>
      if isForced s c n then (s, .reply .done (encCondition s c n ++ yes false))
      else
        let t := occurForced c n true s
        (t, .reply .done (encCondition t c n ++ yes true))

/-- WITHDRAW INJECTION (R175). A refusal carries nothing, that of an EVENT instance in range among them:
an EVENT row has no condition, and whether the flag changed is a result of a request that was carried
out (log 10). -/
def withdrawInjection (cls : Byte) (number : BitVec 16) (s : State) : State × Took :=
  match alarmRef cls number with
  | none => (s, .reply .badParam [])
  | some (c, n) =>
    match c.kind with
    | .event => (s, .reply .badParam [])
    | .condition =>
      if isForced s c n then
        let t := occurForced c n false s
        (t, .reply .done (encCondition t c n ++ yes true))
      else (s, .reply .done (encCondition s c n ++ yes false))

/-! ### Reading alarm state -/

/-- How many rows of a class are active or have a latch set (R181). -/
def standingOfClass (a : Alarm) (c : AlarmClass) : Nat :=
  match c.kind with
  | .condition => (a.conds.filter fun r => r.cls = c ∧ r.active = true).length
  | .event => (a.events.filter fun r => r.cls = c ∧ r.latched = true).length

/-- The fields of one row, and its eligibility for CP-A and CP-B (R181). The fields of the class's kind
travel without a marker (log 37). -/
def encRow (s : State) (c : AlarmClass) (n : Nat) : List Byte :=
  match c.kind with
  | .condition =>
    match condRow? s.alarm c n with
    | some r =>
      yes r.condition ++ yes r.forced ++ yes r.active ++ yes r.seen.a ++ yes r.seen.b
        ++ encTime r.changed ++ yes (condEligible s .a r) ++ yes (condEligible s .b r)
    | none => []
  | .event =>
    match eventRow? s.alarm c n with
    | some r =>
      yes r.latch.a ++ yes r.latch.b ++ yes r.latchH ++ encTime r.last ++ yes r.injected
        ++ yes (eventEligible s .a r) ++ yes (eventEligible s .b r)
    | none => []

/-- What class 0 reports of one CP: mask, attention line, stack depth and entries from the bottom. One
byte is both the stack depth and the count that R192 puts before the entries (log 38). -/
def encService (s : State) (c : Cp) : List Byte :=
  encMask (s.alarm.mask.get c) ++ encAttention s c
    ++ encList (fun e : StackEntry => u8 e.level ++ encAlarmClass e.cls ++ u16 e.number)
      (s.alarm.stack.get c).reverse

/-- Counts of active conditions and of latched events at a level (R181); the two counts of a level stand
together, which R181 leaves open (log 38). -/
def encLevelCounts (a : Alarm) (level : Nat) : List Byte :=
  u8 (a.conds.filter fun r => r.active && (classEntry a r.cls).level = level).length
    ++ u16 (a.events.filter fun r => r.latched && (classEntry a r.cls).level = level).length

/-- READ ALARM (R181). -/
def readAlarm (cls : Byte) (number : BitVec 16) (s : State) : State × Took :=
  if cls.toNat = 0 then
    (s, .reply .done
      (encService s .a ++ encService s .b ++ encLed s.alarm.led
        ++ (numbersTo 7).flatMap (encLevelCounts s.alarm)))
  else
    match alarmRef cls number with
    | none => (s, .reply .badParam [])
    | some (c, n) =>
      let e := classEntry s.alarm c
      (s, .reply .done
        (encAlarmKind c.kind ++ u16 c.count ++ u8 e.level ++ encRoute e.route
          ++ yes ((s.alarm.mask.get .a).get c.index) ++ yes ((s.alarm.mask.get .b).get c.index)
          ++ encRow s c n ++ u16 (standingOfClass s.alarm c)))

/-! ### History requests -/

/-- State and filled count of each half. -/
def encHalves (a : Alarm) : List Byte :=
  encHalfState a.half0.state ++ u8 a.half0.entries.length ++ encHalfState a.half1.state
    ++ u8 a.half1.entries.length

/-- The writer: its half and entry, or STALLED as absent fields (log 11). -/
def encWriter (a : Alarm) : List Byte :=
  opt (fun h : Fin 2 => u8 h.val) (fillingHalf a)
    ++ opt (fun h : Fin 2 => u8 (h.val * 32 + (halfAt a h).entries.length)) (fillingHalf a)

/-- RELEASE HISTORY HALF (R179). The overrun flag, present with DONE, travels without a marker: the outcome
says whether it is there (log 37). -/
def releaseHistoryHalf (half : Byte) (s : State) : State × Took :=
  let after (t : State) : List Byte := encHalves t.alarm ++ encWriter t.alarm
  match halfOf half with
  | none => (s, .reply .badParam (after s))
  | some h =>
    if (halfAt s.alarm h).state = .full then
      let stalled := fillingHalf s.alarm = none
      let t := s.modAlarm fun a =>
        { putHalf a h ⟨if stalled then .filling else .free, []⟩ with overrun := false }
      (t, .reply .done (yes s.alarm.overrun ++ after t))
    else (s, .reply .state (after s))

/-- A history entry as READ HISTORY returns it: its index in the ring, then 14 bytes (R194). -/
def encEntry (index : Nat) (e : HistoryEntry) : List Byte :=
  u8 index ++ u32 e.time ++ encAlarmClass e.cls ++ u16 e.number ++ encTransition e.transition
    ++ yes e.injected ++ u8 e.level ++ u32 e.epoch

/-- READ HISTORY (R180), a data-transfer read (R188; log 12). -/
def readHistory (half first count : Byte) (s : State) : State × Took :=
  let a := s.alarm
  let tail : List Byte := encHalves a ++ encWriter a ++ yes a.overrun
  match halfOf half with
  | none => (s, .reply .badParam tail)
  | some h =>
    if count.toNat = 0 ∨ 32 < first.toNat + count.toNat then (s, .reply .badParam tail)
    else
      let es := ((halfAt a h).entries.drop first.toNat).take count.toNat
      (s, .transfer .done
        (u8 es.length
          ++ (es.zipIdx.flatMap fun p => encEntry (h.val * 32 + first.toNat + p.2) p.1)
          ++ tail))

end Sys2Proof.Machine
end

