-- ==== Sys2Proof/Machine/Lines.lean ====
section
/-! DEFINITION. The chassis line bus address space: the ranges of R27, the line map of R28 and the
first lines of the named fields. -/

namespace Sys2Proof.Machine

/-! ### Ranges (R27) -/

/-- The line at an offset of a slot's block: 256 × s is the first line of slot s. -/
def slotLine (i : Slot) (offset : Nat) : Nat := 256 * (i.val + 1) + offset

/-- The line at an offset of a supply bay's range. -/
def bayLine (b : Bay) (offset : Nat) : Nat := 2304 + 64 * b.val + offset

/-- The line at an offset of a fan tray's range. -/
def trayLine (t : Tray) (offset : Nat) : Nat := 2560 + 128 * t.val + offset

/-- First line and number of lines of the range that holds a line below 4096 (R27). -/
def rangeOf (line : Nat) : Nat × Nat :=
  if line < 2304 then (line / 256 * 256, 256)
  else if line < 2560 then (2304 + (line - 2304) / 64 * 64, 64)
  else if line < 2944 then (2560 + (line - 2560) / 128 * 128, 128)
  else if line < 3072 then (2944, 128)
  else (3072, 1024)

/-- Whether the whole field lies in the range that holds its first line and does not pass line 4095
(R30). -/
def fieldFits (first count : Nat) : Bool :=
  first < 4096 && first + count ≤ (rangeOf first).1 + (rangeOf first).2

/-- The number of lines a count stands for: 0 means 16 (R30). -/
def linesOf (count : Nat) : Nat := if count = 0 then 16 else count

/-! ### The line map (R28) -/

/-- Markings of the line map. -/
inductive LineMark where
  | sense
  | partControl
  deriving DecidableEq, Repr

/-- The marking of a line; none in the maintenance range, which is outside the line map (R28). -/
def lineMark (line : Nat) : Option LineMark :=
  if line < 256 then some (if line < 128 then .sense else .partControl)
  else if line < 2304 then some (if line % 256 < 64 then .sense else .partControl)
  else if line < 2560 then some .sense
  else if line < 2944 then some (if (line - 2560) % 128 < 96 then .sense else .partControl)
  else if line < 3072 then some .sense
  else none

/-! ### Held fields (R28) -/

/-- First line of a held field. -/
def HeldField.first : HeldField → Nat
  | .indicator => 128
  | .powerEnable i => slotLine i 64
  | .portEnable i h => slotLine i (80 + 16 * h.val)
  | .portClass i q => slotLine i (112 + 16 * q.val)
  | .duty t => trayLine t 96

/-- Number of lines of a held field; the power enable is one line. -/
def HeldField.width : HeldField → Nat
  | .indicator => 4
  | .powerEnable _ => 1
  | .portEnable _ _ => 16
  | .portClass _ _ => 16
  | .duty _ => 7

/-- The port enable field that carries a port. -/
def enableFieldOf (p : Port) : HeldField :=
  .portEnable (portSlot p) (if portLocal p < 16 then 0 else 1)

/-- The port class field that carries a port. -/
def classFieldOf (p : Port) : HeldField :=
  .portClass (portSlot p)
    (if portLocal p < 8 then 0 else if portLocal p < 16 then 1 else if portLocal p < 24 then 2 else 3)

/-- A value of 16 lines, the first listed level on the lowest line (R30). -/
def packBits (bs : List Bool) : BitVec 16 :=
  BitVec.ofNat 16 (bs.foldr (fun b n => 2 * n + b.toNat) 0)

end Sys2Proof.Machine
end

