-- ==== Sys2Proof/Machine/Cooling.lean ====
section
/-! DEFINITION. The Cooling Controller's own arithmetic: good rotors, usable outputs, and the commanded
duty (03_supplies_fans_and_temperature.md; 04, R70). -/

namespace Sys2Proof.Machine

/-- The number of GOOD fitted rotors of a tray record. -/
def TrayRec.good (t : TrayRec) : Nat := t.rotors.toList.countP fun r => r.fit = .good

/-- The number of GOOD fitted rotors in PRESENT trays (R61). -/
def goodRotors (c : Cooling) : Nat :=
  ((c.trays.toList.filter fun t => t.maximum.isSome).map TrayRec.good).sum

/-- Cfull: 450 W for each GOOD fitted rotor (R61, R72). -/
def coolFullOf (rotors : Nat) : Nat := 450 * rotors

/-- A derate of `perDegree` for each degree above `start`, clamped to 0 to 100 (R70, R72). -/
def derate (perDegree : Nat) (start tIn : Int) : Nat := min 100 (perDegree * (tIn - start).toNat)

/-- Ds, the supply derate (R70). -/
def supplyDerate (tIn : Int) : Nat := derate 3 40 tIn

/-- Dc, the cooling derate (R72). -/
def coolingDerate (tIn : Int) : Nat := derate 2 35 tIn

/-- L of R70: 20 for HIGH_LINE and 11 for LOW_LINE. -/
def InputKind.factor : InputKind → Nat
  | .highLine => 20
  | .lowLine => 11

/-- Usable output of a supply (R52, R70). -/
def usableOf (state : SupplyState) (identity : Option SupplyIdentity) (tIn : Int) : Nat :=
  match state, identity with
  | .good, some i => i.rated * i.input.factor / 20 * (100 - supplyDerate tIn) / 100
  | _, _ => 0

/-! ### Commanded duty (R58, R63 to R65) -/

/-- The temperature term, formed only when T_in is above 25 (R64 step 3). -/
def tempTermOf (tIn : Int) : Option Nat := if 25 < tIn then some (35 + 2 * (tIn - 25).toNat) else none

/-- The load term: ceil(100 × (demand + 180) / Cfull) (R64 step 3). -/
def loadTermOf (demand full : Nat) : Nat := (100 * (demand + 180) + full - 1) / full

/-- Whether step 2 of R64 forces the duty to 100. -/
def dutyForced (c : Cooling) : Bool :=
  (c.trays.toList.any fun t => t.rotors.toList.any fun r => r.fit = .failed)
    || (c.trays.toList.any fun t => t.maximum.isNone)
    || goodRotors c = 0 || c.assumed || 55 ≤ c.tIn

/-- A duty as R64 forms it: its value, its reason, and the two terms where they were formed. -/
structure Duty where
  value : Nat
  reason : DutyReason
  tempTerm : Option Nat
  loadTerm : Option Nat
  deriving DecidableEq, Repr

/-- Steps 4 and 5 of R64. -/
def boundDuty (holder : Option Cp) (d : Duty) : Duty :=
  let d1 : Duty :=
    if holder = none ∧ d.value < 60 then { d with value := 60, reason := .noHolder } else d
  if d1.value < 35 then { d1 with value := 35, reason := .minimum }
  else if 100 < d1.value then { d1 with value := 100 }
  else d1

/-- Steps 3 to 5 of R64. -/
def dutyFromTerms (holder : Option Cp) (c : Cooling) : Duty :=
  let load := loadTermOf c.demand (coolFullOf (goodRotors c))
  let temp := tempTermOf c.tIn
  match temp with
  | some t =>
    if load ≤ t then boundDuty holder ⟨t, .temperature, temp, some load⟩
    else boundDuty holder ⟨load, .load, temp, some load⟩
  | none => boundDuty holder ⟨load, .load, temp, some load⟩

/-- The commanded duty formed from the inputs as they stand (R64). -/
def dutyOf (a : Authority) (c : Cooling) : Duty :=
  if a.claimed = false then ⟨100, .start, none, none⟩
  else if dutyForced c then ⟨100, .forced, none, none⟩
  else dutyFromTerms a.holder c

/-- A change of duty restarts the settle deadline of every tray and zeroes every rotor's counts
(R58). -/
def TrayRec.unsettle (now : Time) (t : TrayRec) : TrayRec :=
  { t with
    settle := timeAfter now 2000
    rotors := t.rotors.map fun r => { r with low := 0, goodRun := 0 } }

/-- The duty is recomputed; at a new value the settle deadlines restart and the duty fields of the
three trays join class 1 (R58, R63, R65). -/
def recomputeDuty (s : State) : State :=
  let d := dutyOf s.auth s.cool
  let t := s.modCool fun c =>
    { c with duty := d.value, reason := d.reason, tempTerm := d.tempTerm, loadTerm := d.loadTerm }
  if d.value = s.cool.duty then t
  else
    joinAll [.duty 0, .duty 1, .duty 2]
      (t.modCool fun c => { c with trays := c.trays.map (TrayRec.unsettle s.time) })

/-- The Power Budget Unit gives the demand, and the duty is recomputed (R63, R73). -/
def giveDemand (demand : Nat) (s : State) : State :=
  recomputeDuty (s.modCool fun c => { c with demand := demand })

/-! ### Reading (R66 to R68) -/

/-- One supply record of READ SUPPLY; grid A travels as 1 and grid B as 2 (R66). -/
def encSupply (b : Bay) (r : Supply) : List Byte :=
  u8 (if b.val < 2 then 1 else 2) ++ encSupplyState r.state
    ++ opt (fun i : SupplyIdentity => u16 i.rated) r.identity
    ++ opt (fun i : SupplyIdentity => encInput i.input) r.identity
    ++ u16 r.usable ++ yes (r.state = .failed) ++ yes (r.state = .off)

/-- READ SUPPLY (R66). -/
def readSupply (s : State) : State × Took :=
  (s, .reply .done ((List.finRange 4).flatMap fun b => encSupply b (s.cool.supplies.get b)))

/-- The expected speed of a rotor (R58). -/
def expectedSpeed (maximum duty : Nat) : Nat := maximum * duty / 100

/-- Whether a rotor is fitted; none while the positions are not fixed. -/
def RotorFit.fitted : RotorFit → Option Bool
  | .none => Option.none
  | .notFitted => some false
  | .good => some true
  | .failed => some true

/-- State of a rotor, GOOD (1) or FAILED (2), of a fitted rotor only (R57). -/
def RotorFit.state : RotorFit → Option (List Byte)
  | .good => some (u8 1)
  | .failed => some (u8 2)
  | _ => Option.none

/-- One rotor of READ TRAY (R67). -/
def encRotor (t : TrayRec) (duty : Nat) (r : RotorRec) : List Byte :=
  opt yes r.fit.fitted ++ opt id r.fit.state ++ u16 r.measured
    ++ opt (fun m => u16 (expectedSpeed m duty)) t.maximum ++ u8 r.low ++ u8 r.goodRun

/-- READ TRAY (R67). Settling is YES while the chassis time is below the settle deadline. R67 names no
result of a refusal, and R192 lets it carry none then. -/
def readTray (tray : Byte) (s : State) : State × Took :=
  match trayOf tray with
  | none => (s, .reply .badParam [])
  | some i =>
    let t := s.cool.trays.get i
    (s, .reply .done
      (encPresent t.maximum.isSome ++ opt u16 t.maximum ++ encTime t.settle
        ++ yes (!reached s.time t.settle) ++ t.rotors.toList.flatMap (encRotor t s.cool.duty)
        ++ u8 s.cool.duty))

/-- READ TEMPERATURE (R68). -/
def readTemperature (s : State) : State × Took :=
  let c := s.cool
  (s, .reply .done
    (temp c.tIn ++ yes c.assumed
      ++ (c.sensors.toList.flatMap fun r => temp r.last ++ encValid r.valid ++ u8 r.invalidPasses)
      ++ yes (45 ≤ c.tIn) ++ yes (55 ≤ c.tIn)
      ++ (c.sensors.toList.flatMap fun r => yes (r.invalidPasses = 4))
      ++ u8 c.duty ++ encReason c.reason ++ opt u8 c.tempTerm ++ opt u16 c.loadTerm
      ++ yes c.settled))

end Sys2Proof.Machine
end

