-- ==== Sys2Proof/Machine/Distribution.lean ====
section
/-! DEFINITION. Reach rows, the Distribution Engine, activation and catch-up
(07_reach_computation_distribution_and_activation.md). -/

namespace Sys2Proof.Machine

/-! ### Reach rows (R137, R138) -/

/-- Whether a zone gives reach between two ports (R137). -/
def Zone.joins (z : Zone) (p q : Port) : Bool :=
  z.members.contains p && z.members.contains q &&
    match z.kind with
    | .standard => true
    | .peer ps => ps.contains p || ps.contains q

/-- Whether q is in the reach row of p under a zone table (R137). -/
def reach (tbl : ZoneTable) (p q : Port) : Bool := p ≠ q && tbl.any fun z => z.joins p q

/-- Whether q is in the row of p in the active level (R138). -/
def activeReach (s : State) (p q : Port) : Bool :=
  if s.zone.active.generation = 0 then s.straps.zoning = .all && p ≠ q
  else reach s.zone.active.table p q

/-- Piece k of the row of a port: the reach bits of ports 16k to 16k + 15 (R137, R196). -/
def rowPiece (row : Port → Bool) (k : Nat) : BitVec 16 :=
  packBits ((List.range 16).map fun i => row (Fin.ofNat 256 (16 * k + i)))

/-- The generation after the active one (R138). -/
def nextGeneration (g : BitVec 16) : BitVec 16 := if g = 65535 then 1 else g + 1

/-! ### The engine's records (R142) -/

/-- Apply `f` to the zoning record of a slot. -/
def modZoneSlot (i : Slot) (f : ZoneSlot → ZoneSlot) (s : State) : State :=
  s.modZone fun z => { z with slots := updAt z.slots i f }

/-- Apply `f` to every zoning record. -/
def modZoneSlots (f : ZoneSlot → ZoneSlot) (s : State) : State :=
  s.modZone fun z => { z with slots := z.slots.map f }

/-- All slots in ascending number. -/
def allSlots : List Slot := List.finRange 8

/-- Whether a slot is POWERED. -/
def State.isPowered (s : State) (i : Slot) : Bool := (s.slotRec i).power = .powered

/-- The set status of a slot; none outside the distribution set. -/
def State.statusOf (s : State) (i : Slot) : Option SetStatus := (s.zone.slots.get i).status

/-- The distribution set, ascending (R142). -/
def distributionSet (s : State) : List Slot := allSlots.filter fun i => (s.statusOf i).isSome

/-- The catch-up set, ascending (R153). -/
def catchUpSet (s : State) : List Slot := allSlots.filter fun i => (s.zone.slots.get i).catchUp

/-- The pending generation, 0 while the pending level is ABSENT (R121). -/
def pendingGeneration (z : Zoning) : BitVec 16 :=
  match z.pending with
  | none => 0
  | some l => l.generation

/-! ### Loading writes (R144, R155, R196) -/

/-- The port count of the slot record. -/
def portCount (s : State) (i : Slot) : Nat :=
  match (s.slotRec i).card with
  | none => 0
  | some c => c.ports

/-- The row of a port that a load writes: a main load writes the pending rows, a catch-up the active
ones. -/
def loadRow (s : State) (main : Bool) (p : Port) : Port → Bool :=
  if main then
    match s.zone.pending with
    | none => fun _ => false
    | some l => reach l.table p
  else activeReach s p

/-- The transaction of the next loading write. -/
def loadTxn (s : State) (j : LoadJob) : Txn :=
  match j.step with
  | .generation =>
    .write (slotLine j.slot 176) 16
      (if j.main then pendingGeneration s.zone else s.zone.active.generation)
  | .piece n =>
    .write (slotLine j.slot 192) 16
      (rowPiece (loadRow s j.main (portOf j.slot (Fin.ofNat 32 (n / 16)))) (n % 16))
  | .loadDone => .set (slotLine j.slot 208)

/-- The write that follows one that ended DONE; none after LOAD DONE. -/
def LoadStep.next (ports : Nat) : LoadStep → Option LoadStep
  | .generation => some (if 0 < ports then .piece 0 else .loadDone)
  | .piece n => some (if n + 1 < 16 * ports then .piece (n + 1) else .loadDone)
  | .loadDone => none

/-- Whether a transaction of the engine whose outcome it ignores is on the bus (R33; log 33). -/
def ignoredOnBus (b : Bus) : Bool :=
  match b.current with
  | some ⟨.loading _ ignored, _⟩ => ignored
  | some ⟨.slotActivate _ ignored, _⟩ => ignored
  | _ => false

/-- The next loading write of the load in progress is requested in class 2, once the engine's
previous transaction has ended (R33). -/
def requestLoad (s : State) : State :=
  match s.zone.job with
  | none => s
  | some j =>
    if ignoredOnBus s.bus then s else s.modBus fun b => { b with class2 := some ⟨j.slot, loadTxn s j⟩ }

/-- A load of a slot begins with its generation field write. -/
def beginLoad (i : Slot) (main : Bool) (s : State) : State :=
  requestLoad (s.modZone fun z => { z with job := some ⟨i, main, .generation⟩ })

/-! ### The end of loading, and catch-up service -/

/-- Whether a set status still waits for its load (R147). -/
def SetStatus.unfinished : SetStatus → Bool
  | .queued | .loading | .awaitAck => true
  | .loaded | .failedLoad => false

/-- Loading is complete when no slot of the set is QUEUED, LOADING or AWAIT_ACK; what follows is by
the failures and the hold flag (R147). -/
def judgeComplete (s : State) : State :=
  if allSlots.any fun i => (s.statusOf i).any SetStatus.unfinished then s
  else if allSlots.any fun i => s.statusOf i = some .failedLoad then
    occurEvent .zoneDistFail 1 false (s.modZone fun z => { z with main := .failed })
  else if s.zone.hold = some true then s.modZone fun z => { z with main := .awaitActivate }
  else joinClass1 .activateField (s.modZone fun z => { z with main := .activating })

/-- While IDLE with no catch-up in progress, the lowest member of the catch-up set becomes the
catch-up slot and its catch-up begins (R154, R155). -/
def serveCatchUp (s : State) : State :=
  if s.zone.catchUpSlot.isSome then s
  else
    match catchUpSet s with
    | [] => s
    | i :: _ => beginLoad i false (s.modZone fun z => { z with catchUpSlot := some i })

/-- The engine goes on: in DISTRIBUTING with no load and no catch-up in progress to the next QUEUED
slot or to the judgement of R147; in IDLE it serves the catch-up set (R143, R144, R154). -/
def goOn (s : State) : State :=
  match s.zone.main with
  | .idle => serveCatchUp s
  | .distributing =>
    if s.zone.job.isSome || s.zone.catchUpSlot.isSome then s
    else
      match allSlots.find? fun i => s.statusOf i = some .queued with
      | some i => beginLoad i true (modZoneSlot i (fun r => { r with status := some .loading }) s)
      | none => judgeComplete s
  | _ => s

/-! ### Loads and their acknowledgement (R144, R145, R155) -/

/-- The load in progress ends. -/
def endJob (s : State) : State := s.modZone fun z => { z with job := none }

/-- The wait of 200 ms for a slot's acknowledgement begins (R144, R155). -/
def awaitAck (i : Slot) (s : State) : State :=
  modZoneSlot i (fun r => { r with ackDeadline := some (timeAfter s.time 200) }) s

/-- The slot leaves the catch-up set with a result, and there is no catch-up slot. -/
def endCatchUp (i : Slot) (result : CatchUpResult) (s : State) : State :=
  modZoneSlot i (fun r => { r with catchUp := false, ackDeadline := none, result := result })
    ((endJob s).modZone fun z => { z with catchUpSlot := none })

/-- A catch-up fails (R155). -/
def failCatchUp (i : Slot) (s : State) : State :=
  goOn (occurEvent .zoneDistFail 1 false (endCatchUp i .failed s))

/-- A slot of the distribution set becomes FAILED_LOAD (R144, R145). -/
def failSlot (i : Slot) (s : State) : State :=
  goOn (modZoneSlot i (fun r => { r with status := some .failedLoad, ackDeadline := none }) s)

/-- A loading write of the load in progress has ended (R144, R155); the outcome of an ignored one has
no effect (R146, R152). -/
def loadingEnded (ignored : Bool) (e : BusEnd) (s : State) : State :=
  if ignored then requestLoad s
  else
    match s.zone.job with
    | none => s
    | some j =>
      match e with
      | .done _ =>
        match j.step.next (portCount s j.slot) with
        | some n => requestLoad (s.modZone fun z => { z with job := some { j with step := n } })
        | none =>
          if j.main then
            goOn (awaitAck j.slot
              (modZoneSlot j.slot (fun r => { r with status := some .awaitAck }) (endJob s)))
          else if s.zone.active.generation = 0 then joinClass1 (.slotActivate j.slot) (endJob s)
          else awaitAck j.slot (endJob s)
      | .noResponse | .parity =>
        if j.main then failSlot j.slot (endJob s) else failCatchUp j.slot s

/-- An ACK value read by the scan is handed over (R145, R155). -/
def ackValue (i : Slot) (v : BitVec 16) (s : State) : State :=
  let r := s.zone.slots.get i
  if s.zone.catchUpSlot = some i then
    if r.ackDeadline.isSome ∧ v = s.zone.active.generation then
      joinClass1 (.slotActivate i) (modZoneSlot i (fun r => { r with ackDeadline := none }) s)
    else s
  else if r.status = some .awaitAck ∧ v = pendingGeneration s.zone then
    goOn (modZoneSlot i
      (fun r => { r with status := some .loaded, loaded := v, ackDeadline := none }) s)
  else s

/-- The ACK deadline of a slot is judged at a pass completion (R145, R155). -/
def judgeAckDeadline (i : Slot) (s : State) : State :=
  match (s.zone.slots.get i).ackDeadline with
  | none => s
  | some d =>
    if reached s.time d then
      if s.zone.catchUpSlot = some i then failCatchUp i s else failSlot i s
    else s

/-- Every slot's ACK deadline is judged (R145). -/
def judgeAckDeadlines (s : State) : State := allSlots.foldl (fun t i => judgeAckDeadline i t) s

/-- A slot activate pulse has ended (R155). -/
def pulseEnded (i : Slot) (ignored : Bool) (e : BusEnd) (s : State) : State :=
  if ignored then requestLoad s
  else
    match e with
    | .done _ =>
      goOn (modZoneSlot i (fun r => { r with loaded := s.zone.active.generation })
        (endCatchUp i .done s))
    | .noResponse | .parity => joinClass1 (.slotActivate i) s

/-! ### Slots that enter and leave POWERED (R146, R153) -/

/-- What an owner's transaction becomes when the slot leaves POWERED: its outcome is ignored (R146). -/
def Owner.ignoring (i : Slot) : Owner → Owner
  | .loading j ignored => .loading j (ignored || j = i)
  | .slotActivate j ignored => .slotActivate j (ignored || j = i)
  | o => o

/-- A loading write for the slot that waits is withdrawn, and so is its pulse (R146; log 24). -/
def Bus.forget (i : Slot) (b : Bus) : Bus :=
  { b with
    current := b.current.map fun t => { t with owner := t.owner.ignoring i }
    class1 := b.class1.filter fun e => e ≠ .slotActivate i
    class2 := b.class2.filter fun w => w.slot ≠ i }

/-- The notice that a slot left POWERED (R146). -/
def slotLeft (i : Slot) (s : State) : State :=
  let s1 := modZoneSlot i
    (fun r => { r with loaded := 0, status := none, ackDeadline := none, catchUp := false }) s
  let s2 := s1.modZone fun z =>
    { z with
      job := z.job.filter fun j => j.slot ≠ i
      catchUpSlot := z.catchUpSlot.filter fun c => c ≠ i }
  goOn (s2.modBus (Bus.forget i))

/-- The notice that a slot entered POWERED (R153, R155). -/
def slotEntered (i : Slot) (s : State) : State :=
  goOn (modZoneSlot i (fun r => { r with result := .none, catchUp := true }) s)

/-! ### Main distribution (R143), activation (R149, R150) -/

/-- A slot's zoning record at the start of a main distribution: in the set while POWERED, and out of
the catch-up set unless its catch-up is in progress (R143). -/
def enterSet (s : State) (i : Slot) (r : ZoneSlot) : ZoneSlot :=
  if s.isPowered i then
    { r with status := some .queued, catchUp := r.catchUp && s.zone.catchUpSlot = some i }
  else r

/-- A main distribution starts (R143). -/
def startMain (hold : Bool) (s : State) : State :=
  let s1 := allSlots.foldl (fun t i => modZoneSlot i (enterSet s i) t) s
  goOn (s1.modZone fun z => { z with main := .distributing, hold := some hold })

/-- The midplane ACTIVATE field write has ended (R149). -/
def activateFieldEnded (e : BusEnd) (s : State) : State :=
  match e with
  | .done _ => joinClass1 .strobe s
  | .parity => joinClass1 .activateField (occurEvent .lineBusError 1 false s)
  | .noResponse => joinClass1 .activateField s

/-- The activation is complete (R150). -/
def activate (s : State) : State :=
  match s.zone.pending with
  | none => s
  | some l =>
    let s1 := modZoneSlots (fun r => { r with status := none }) s
    let s2 := s1.modZone fun z =>
      { z with active := l, pending := none, hold := none, main := .idle }
    goOn (occurEvent .zoneDone 1 false s2)

/-- The activation strobe has ended (R149, R150). -/
def strobeEnded (e : BusEnd) (s : State) : State :=
  match e with
  | .done _ => activate s
  | .noResponse | .parity => joinClass1 .strobe s

/-! ### The requests of 07 -/

/-- The pending generation as a result. -/
def encGeneration (g : BitVec 16) : List Byte := u16 g.toNat

/-- A list of slots. -/
def encSlots (is : List Slot) : List Byte := encList encSlot is

/-- The slots of the distribution set with their set status. -/
def encSetStatus (s : State) : List Byte :=
  encList (fun i => encSlot i ++
    match s.statusOf i with
    | some st => encStatus st
    | none => []) (distributionSet s)

/-- ACTIVATE ZONES (R148). -/
def activateZones (s : State) : State × Took :=
  let results (t : State) : List Byte :=
    encEngine t.zone.main ++ encGeneration (pendingGeneration t.zone) ++ encSetStatus t
  if s.zone.main = .awaitActivate then
    let t := joinClass1 .activateField (s.modZone fun z => { z with main := .activating })
    (t, .reply .done (results t))
  else (s, .reply .state (results s))

/-- A FAILED_LOAD slot is QUEUED again (R151). -/
def requeue (r : ZoneSlot) : ZoneSlot :=
  if r.status = some .failedLoad then { r with status := some .queued } else r

/-- RETRY DISTRIBUTION (R151). -/
def retryDistribution (s : State) : State × Took :=
  if s.zone.main = .failed then
    let n := (allSlots.filter fun i => s.statusOf i = some .failedLoad).length
    let t := goOn ((modZoneSlots requeue s).modZone fun z => { z with main := .distributing })
    (t, .reply .done (u8 n ++ encEngine t.zone.main))
  else (s, .reply .state (u8 0 ++ encEngine s.zone.main))

/-- Step 1 of R152: no further loading write of the main distribution is requested, a waiting one is
withdrawn, and the outcome of one on the bus is ignored. -/
def stopMainLoad (s : State) : State :=
  match s.zone.job with
  | none => s
  | some j =>
    if j.main then (endJob s).modBus (Bus.forget j.slot) else s

/-- Steps 2 to 4 of R152 for one slot, as they are numbered: a slot whose loaded generation is the active one
is not taken into the catch-up set, an AWAIT_ACK one included (log 40). -/
def abortSlot (s : State) (i : Slot) (r : ZoneSlot) : ZoneSlot :=
  let loaded := if r.loaded = pendingGeneration s.zone then 0 else r.loaded
  { loaded := loaded
    status := none
    ackDeadline := if s.zone.catchUpSlot = some i then r.ackDeadline else none
    result := r.result
    catchUp := r.catchUp || (s.isPowered i && loaded ≠ s.zone.active.generation) }

/-- The abort taken (R152, steps 1 to 5). -/
def abort (s : State) : State :=
  let s1 := stopMainLoad s
  let s2 := allSlots.foldl (fun t i => modZoneSlot i (abortSlot s i) t) s1
  goOn (s2.modZone fun z => { z with pending := none, hold := none, main := .idle })

/-- ABORT DISTRIBUTION (R152). A refusal discards no generation and names none. -/
def abortDistribution (s : State) : State × Took :=
  match s.zone.main with
  | .idle | .activating => (s, .reply .state (encSlots (catchUpSet s)))
  | .distributing | .awaitActivate | .failed =>
    let t := abort s
    (t, .reply .done (encGeneration (pendingGeneration s.zone) ++ encSlots (catchUpSet t)))

/-- The zone that QUERY REACH gives: DEFAULT (none here) while the active generation is 0, otherwise
the lowest-numbered zone that gives the reach (R157). -/
def reachZone (s : State) (p q : Port) : Option Zone :=
  if s.zone.active.generation = 0 then none
  else s.zone.active.table.find? fun z => z.joins p q

/-- QUERY REACH (R157). A zone travels as a marker, and DEFAULT as an inner marker 0 (log 11). R157 names
no result of a refusal. -/
def queryReach (p q : BitVec 16) (s : State) : State × Took :=
  match index256 p, index256 q with
  | some p, some q =>
    let r := activeReach s p q
    let zone : List Byte :=
      if r then u8 1 ++ opt (fun z : Zone => u8 z.number.val) (reachZone s p q) else u8 0
    (s, .reply .done
      (yes r ++ zone ++ encGeneration s.zone.active.generation
        ++ encGeneration (pendingGeneration s.zone)))
  | _, _ => (s, .reply .badParam [])

end Sys2Proof.Machine
end

