-- ==== Sys2Proof/Machine/Zones.lean ====
section
/-! DEFINITION. The Zone Store: zone tables, the zone transaction, the edit requests and the reading of
zones (06_zone_databases_and_editing.md), and the commit (07, R139 to R141). -/

namespace Sys2Proof.Machine

/-! ### Zone tables (R122, R123) -/

/-- Insert a port in an ascending list (R122). -/
def insertPort (p : Port) : List Port → List Port
  | [] => [p]
  | q :: qs => if p < q then p :: q :: qs else if p = q then q :: qs else q :: insertPort p qs

/-- Insert a zone at its place in ascending number (R122). -/
def insertZone (z : Zone) : ZoneTable → ZoneTable
  | [] => [z]
  | y :: ys =>
    if z.number < y.number then z :: y :: ys
    else if z.number = y.number then z :: ys
    else y :: insertZone z ys

/-- The zone of a number. -/
def zoneAt (tbl : ZoneTable) (n : Fin 256) : Option Zone := tbl.find? fun z => z.number = n

/-- The table without a zone. -/
def dropZone (tbl : ZoneTable) (n : Fin 256) : ZoneTable := tbl.filter fun z => z.number ≠ n

/-- The member-entry count of a level (R123). -/
def entryCount (tbl : ZoneTable) : Nat := (tbl.map fun z => z.members.length).sum

/-- The principals of a zone; a STANDARD zone has none. -/
def Zone.principals (z : Zone) : List Port :=
  match z.kind with
  | .standard => []
  | .peer ps => ps

/-- Whether a zone is a PEER zone. -/
def Zone.isPeer (z : Zone) : Bool :=
  match z.kind with
  | .standard => false
  | .peer _ => true

/-- The table less its empty zones (R122). -/
def withoutEmpty (tbl : ZoneTable) : ZoneTable := tbl.filter fun z => !z.members.isEmpty

/-! ### The transaction record (R124) -/

/-- The fields that are present while the transaction is not CLOSED. -/
def ZoneTxn.info : ZoneTxn → Option TxnInfo
  | .closed => none
  | .opened i => some i
  | .computing i _ => some i
  | .held i => some i

/-- Zone count and member-entry count of a table. -/
def encCounts (tbl : ZoneTable) : List Byte := u16 tbl.length ++ u16 (entryCount tbl)

/-- The base: NONE is an inner marker 0 (log 11). -/
def encBase (b : Option (BitVec 16)) : List Byte := opt encGeneration b

/-- Owner and owner epoch, each absent while CLOSED. -/
def encOwner (t : ZoneTxn) : List Byte :=
  opt (fun i : TxnInfo => encCp i.owner) t.info ++ opt (fun i : TxnInfo => u32 i.epoch) t.info

/-- The transaction state with owner, owner epoch, base and opened. -/
def encTxn (t : ZoneTxn) : List Byte :=
  encTxnState t ++ encOwner t ++ opt (fun i : TxnInfo => encBase i.base) t.info
    ++ opt (fun i : TxnInfo => encTime i.opened) t.info

/-- The staging counts. -/
def encStaging (s : State) : List Byte := encCounts s.zone.staging

/-- Staging is emptied and the transaction is CLOSED. -/
def closeTxn (s : State) : State := s.modZone fun z => { z with staging := [], txn := .closed }

/-- Replace the staging table. -/
def putStaging (tbl : ZoneTable) (s : State) : State := s.modZone fun z => { z with staging := tbl }

/-! ### Opening and cancelling (R126, R127) -/

/-- BEGIN ZONE EDIT of a CP that passed fencing (R126). -/
def beginZoneEdit (c : Cp) (mode : Byte) (s : State) : State × Took :=
  let results (t : State) : List Byte :=
    encTxnState t.zone.txn ++ encOwner t.zone.txn
      ++ opt (fun i : TxnInfo => encBase i.base) t.zone.txn.info ++ encStaging t
  match editModeOf mode with
  | none => (s, .reply .badParam (results s))
  | some m =>
    match s.zone.txn with
    | .closed =>
      let base :=
        match m with
        | .fromActive => some s.zone.active.generation
        | .empty => none
      let table :=
        match m with
        | .fromActive => s.zone.active.table
        | .empty => []
      let t := s.modZone fun z =>
        { z with staging := table, txn := .opened ⟨c, s.auth.epoch, base, s.time⟩ }
      (t, .reply .done (results t))
    | _ => (s, .reply .state (results s))

/-- The refusal of R125 for a request that only an OPEN transaction takes; none when it is OPEN. -/
def notOpen (t : ZoneTxn) : Option OutcomeCode :=
  match t with
  | .opened _ => none
  | .computing _ _ => some .busy
  | .closed | .held _ => some .state

/-- CANCEL ZONE EDIT (R127). The dropped counts, present with DONE, travel without a marker (log 37). -/
def cancelZoneEdit (s : State) : State × Took :=
  match notOpen s.zone.txn with
  | some o => (s, .reply o (encTxnState s.zone.txn))
  | none =>
    let t := closeTxn s
    (t, .reply .done (encTxnState t.zone.txn ++ encStaging s))

/-! ### Edits (R128 to R131) -/

/-- Member count and principal count of a zone. -/
def encZoneCounts (z : Zone) : List Byte := u8 z.members.length ++ u8 z.principals.length

/-- The counts of the zone that a parameter names, while staging holds it; otherwise there is no such
zone to count (R130, R131; log 10), and neither the counts nor a marker byte travel (log 37). -/
def encNamedCounts (zone : BitVec 16) (s : State) : List Byte :=
  match (index256 zone).bind (zoneAt s.zone.staging) with
  | some z => encZoneCounts z
  | none => []

/-- An edit is judged first against the transaction state (R125); a refusal there carries the
transaction state, the counts of the zone where the edit's rule lists them, and the staging counts
(log 10). -/
def whenOpen (s : State) (counts : List Byte) (edit : State × Took) : State × Took :=
  match notOpen s.zone.txn with
  | some o => (s, .reply o (encTxnState s.zone.txn ++ counts ++ encStaging s))
  | none => edit

/-- CREATE ZONE (R128). -/
def createZone (zone : BitVec 16) (kind : Byte) (s : State) : State × Took :=
  whenOpen s [] <|
    match index256 zone, zoneKindOf kind with
    | some n, some k =>
      if (zoneAt s.zone.staging n).isSome then (s, .reply .duplicate (encStaging s))
      else
        let t := putStaging (insertZone ⟨n, k, []⟩ s.zone.staging) s
        (t, .reply .done (encStaging t))
    | _, _ => (s, .reply .badParam (encStaging s))

/-- DELETE ZONE (R129). -/
def deleteZone (zone : BitVec 16) (s : State) : State × Took :=
  whenOpen s [] <|
    match index256 zone with
    | none => (s, .reply .badParam (encStaging s))
    | some n =>
      match zoneAt s.zone.staging n with
      | none => (s, .reply .notFound (encStaging s))
      | some z =>
        let t := putStaging (dropZone s.zone.staging n) s
        (t, .reply .done (u8 z.members.length ++ encStaging t))

/-- The principal set after ADD MEMBER (R130 step 4, and the insertion). -/
def withPrincipal (code : PrincipalCode) (p : Port) : ZoneKind → ZoneKind
  | .standard => .standard
  | .peer ps =>
    match code with
    | .principal => .peer (insertPort p ps)
    | .ordinary => .peer (ps.filter fun q => q ≠ p)
    | .notGiven => .peer ps

/-- The zone after ADD MEMBER. -/
def Zone.addMember (z : Zone) (code : PrincipalCode) (p : Port) : Zone :=
  { z with kind := withPrincipal code p z.kind, members := insertPort p z.members }

/-- The zone after REMOVE MEMBER (R131). -/
def Zone.removeMember (z : Zone) (p : Port) : Zone :=
  { z with
    kind := withPrincipal .ordinary p z.kind
    members := z.members.filter fun q => q ≠ p }

/-- A port's standing, present on a PEER zone only. -/
def encStanding (z : Zone) (b : Bool) : List Byte := opt yes (if z.isPeer then some b else none)

/-- ADD MEMBER (R130). -/
def addMember (zone port : BitVec 16) (principal : Byte) (s : State) : State × Took :=
  whenOpen s (encNamedCounts zone s) <|
    match index256 zone, index256 port, principalOf principal with
    | some n, some p, some code =>
      match zoneAt s.zone.staging n with
      | none => (s, .reply .notFound (encStaging s))
      | some z =>
        let member := z.members.contains p
        if code = .principal ∧ z.isPeer = false then
          (s, .reply .badParam (encZoneCounts z ++ encStaging s))
        else if !member && (64 ≤ z.members.length || 4096 ≤ entryCount s.zone.staging) then
          (s, .reply .noSpace (encZoneCounts z ++ encStaging s))
        else
          let y := z.addMember code p
          let t := putStaging (insertZone y s.zone.staging) s
          (t, .reply .done
            (yes member ++ encStanding y (y.principals.contains p) ++ encZoneCounts y
              ++ encStaging t))
    | _, _, _ => (s, .reply .badParam (encNamedCounts zone s ++ encStaging s))

/-- REMOVE MEMBER (R131). -/
def removeMember (zone port : BitVec 16) (s : State) : State × Took :=
  whenOpen s (encNamedCounts zone s) <|
    match index256 zone, index256 port with
    | some n, some p =>
      match zoneAt s.zone.staging n with
      | none => (s, .reply .notFound (encStaging s))
      | some z =>
        if z.members.contains p then
          let y := z.removeMember p
          let t := putStaging (insertZone y s.zone.staging) s
          (t, .reply .done
            (encStanding z (z.principals.contains p) ++ encZoneCounts y ++ encStaging t))
        else (s, .reply .notFound (encZoneCounts z ++ encStaging s))
    | _, _ => (s, .reply .badParam (encNamedCounts zone s ++ encStaging s))

/-! ### The transaction across a change of holder (R132, R133) -/

/-- An OPEN transaction becomes HELD (R132). -/
def holdTxn (s : State) : State :=
  match s.zone.txn with
  | .opened i => s.modZone fun z => { z with txn := .held i }
  | _ => s

/-- A HELD transaction is resolved by adoption for a holder at an epoch (R133). -/
def adoptTxn (c : Cp) (epoch : BitVec 32) (s : State) : State :=
  match s.zone.txn with
  | .held i =>
    s.modZone fun z => { z with txn := .opened ⟨c, epoch, i.base, s.time⟩ }
  | _ => s

/-- A HELD transaction is resolved by discarding (R133). -/
def discardTxn (s : State) : State :=
  match s.zone.txn with
  | .held _ => closeTxn s
  | _ => s

/-! ### Commit (R139 to R141, R134) -/

/-- COMMIT ZONES (R139): it takes time unless it is refused. -/
def commitZones (hold : Byte) (s : State) : State × Took :=
  let results : List Byte := encTxnState s.zone.txn ++ encEngine s.zone.main
  match s.zone.txn with
  | .opened i =>
    match holdOf hold with
    | none => (s, .reply .badParam results)
    | some h =>
      if s.zone.main = .idle then
        (s.modZone fun z => { z with txn := .computing i h }, .waits .commit)
      else (s, .reply .zoneBusy results)
  | .computing _ _ => (s, .reply .busy results)
  | .closed | .held _ => (s, .reply .state results)

/-- The distinct member ports of a table. -/
def memberPorts (tbl : ZoneTable) : List Port :=
  allPorts.filter fun p => tbl.any fun z => z.members.contains p

/-- Whether a port exists and its license state is GRANTED (R94). -/
def portGranted (s : State) (p : Port) : Bool :=
  s.portExists p && s.lic.grants.any fun g => g.port = p

/-- Whether the row of a port is not empty: a zone joins it to another port (R137). -/
def hasRow (tbl : ZoneTable) (p : Port) : Bool :=
  tbl.any fun z => z.members.any fun q => p ≠ q && z.joins p q

/-- The counts of the response, formed after the copy and before the distribution starts (R141 step 2);
`staged` is the table as staged. -/
def commitCounts (staged : ZoneTable) (s : State) (l : Level) : List Byte :=
  encGeneration l.generation ++ encCounts l.table
    ++ u16 (staged.length - l.table.length)
    ++ u16 (allPorts.filter (hasRow l.table)).length
    ++ u16 ((memberPorts l.table).filter fun p => !portGranted s p).length
    ++ u16 (l.table.filter fun z => z.isPeer && z.principals.isEmpty).length

/-- The commit computation completes (R141, R134): the owner, and the results of its response; nothing
happens while no computation is in flight. -/
def completeCommit (s : State) : State × Option (Cp × List Byte) :=
  match s.zone.txn with
  | .computing i hold =>
    let staged := s.zone.staging
    let level : Level := ⟨withoutEmpty staged, nextGeneration s.zone.active.generation⟩
    let s1 := closeTxn (s.modZone fun z => { z with pending := some level })
    let t := startMain hold s1
    (t, some (i.owner,
      commitCounts staged s1 level ++ encSlots (distributionSet t) ++ encEngine t.zone.main))
  | _ => (s, none)

/-! ### Reading (R136, R158) -/

/-- The zone table of a level; the pending level has no zones while ABSENT (R121). -/
def tableOf (z : Zoning) : ZoneLevel → ZoneTable
  | .staging => z.staging
  | .pending =>
    match z.pending with
    | none => []
    | some l => l.table
  | .active => z.active.table

/-- The level summary of READ ZONE (R136). A field that R136 lists for one level has no byte where another
level is read, the model's choice (log 37). -/
def encSummary (s : State) (l : ZoneLevel) : List Byte :=
  encCounts (tableOf s.zone l) ++
    match l with
    | .staging => encTxn s.zone.txn
    | .pending => encPresent s.zone.pending.isSome ++ encGeneration (pendingGeneration s.zone)
    | .active =>
      encGeneration s.zone.active.generation
        ++ opt encZoning (if s.zone.active.generation = 0 then some s.straps.zoning else none)

/-- A member of a zone; for a PEER zone whether it is a principal. -/
def encMember (z : Zone) (p : Port) : List Byte :=
  encPort p ++ encStanding z (z.principals.contains p)

/-- The zone that READ ZONE reports, from a member position (R136). -/
def encZone (z : Zone) (position : Nat) : List Byte :=
  u8 z.number.val ++ encZoneKind z.kind ++ u8 z.members.length
    ++ opt u8 (if z.isPeer then some z.principals.length else none)
    ++ encList (encMember z) ((z.members.drop position).take 32)

/-- READ ZONE (R136), a data-transfer read (R188). -/
def readZone (level : Byte) (zone : BitVec 16) (position : Byte) (s : State) : State × Took :=
  match levelOf level with
  | none => (s, .reply .badParam [])
  | some l =>
    if 255 < zone.toNat ∨ 63 < position.toNat then (s, .reply .badParam (encSummary s l))
    else
      match (tableOf s.zone l).find? fun z => zone.toNat ≤ z.number.val with
      | none => (s, .transfer .notFound (encSummary s l))
      | some z => (s, .transfer .done (encSummary s l ++ encZone z position.toNat))

/-- What READ ZONE STATUS reports of one slot (R158). -/
def encZoneSlot (s : State) (i : Slot) : List Byte :=
  let r := s.zone.slots.get i
  encGeneration r.loaded ++ encCatchUp r.result ++ yes r.catchUp ++ opt encStatus r.status
    ++ opt encTime r.ackDeadline ++ encSlotPower (s.slotRec i).power

/-- The hold flag of the commit being computed, while COMPUTING. -/
def computingHold (t : ZoneTxn) : Option Bool :=
  match t with
  | .computing _ h => some h
  | _ => none

/-- READ ZONE STATUS (R158), a data-transfer read (R188). -/
def readZoneStatus (s : State) : State × Took :=
  let z := s.zone
  (s, .transfer .done
    (encTxn z.txn ++ opt yes (computingHold z.txn)
      ++ encGeneration z.active.generation ++ encCounts z.active.table ++ encZoning s.straps.zoning
      ++ encPresent z.pending.isSome ++ encGeneration (pendingGeneration z)
      ++ encCounts (tableOf z .pending)
      ++ encEngine z.main ++ opt yes z.hold
      ++ encSlots (distributionSet s) ++ encSlots (catchUpSet s) ++ opt encSlot z.catchUpSlot
      ++ allSlots.flatMap (encZoneSlot s)))

end Sys2Proof.Machine
end

