-- ==== Sys2Proof/Machine/Authority.lean ====
section
/-! DEFINITION. The Authority Unit: presence, changes of holder, the departed record and the handover
words, and the requests of 01_authority_and_takeover.md. -/

namespace Sys2Proof.Machine

/-! ### Presence (R1 to R6) -/

/-- The presence of a CP is set; eligibility is evaluated at the change (R166). -/
def setPresence (c : Cp) (p : Presence) (s : State) : State :=
  reevaluate (s.modAuth fun a => { a with presence := a.presence.put c p })

/-- The condition PEER_SILENT of a CP is handed if it changed (R26). -/
def handPeer (c : Cp) (s : State) : State := handCondition .peerSilent (cpNumber c) s

/-- The CP whose peer departs: the peer when it is LIVE, otherwise NONE (R10, R11, R13). -/
def successor (a : Authority) (c : Cp) : Option Cp :=
  if (a.presence.get c.peer).isLive then some c.peer else none

/-! ### Change of holder (R9, R18, R22) -/

/-- Causes by which a departure is involuntary (R18). -/
def Cause.involuntary : Cause → Bool
  | .heartbeatExpiry | .linkLost | .forced | .claimOverSilent => true
  | .powerOn | .claimed | .yielded => false

/-- Whether a CP has an OPEN transaction owned by it (R18). -/
def ownsOpenTxn (t : ZoneTxn) (c : Cp) : Bool :=
  match t with
  | .opened i => i.owner = c
  | _ => false

/-- Step 1 of R9. -/
def setHolder (h : Option Cp) (cause : Cause) (s : State) : State :=
  s.modAuth fun a =>
    { a with holder := h, epoch := a.epoch + 1, since := s.time, cause := cause, claimed := true }

/-- The departed record is removed. -/
def removeDeparted (s : State) : State := s.modAuth fun a => { a with departed := none }

/-- Step 2 of R9: an existing departed record is resolved against the new holder (R22). -/
def resolveDeparted (h : Option Cp) (s : State) : State :=
  match s.auth.departed with
  | none => s
  | some d =>
    let t := removeDeparted s
    if d.transaction.isNone then t
    else if h = some d.prior then adoptTxn d.prior s.auth.epoch t
    else discardTxn t

/-- Step 3 of R9: a fresh departed record for the CP that departs (R18, R132). -/
def createDeparted (c : Cp) (priorEpoch : BitVec 32) (cause : Cause) (s : State) : State :=
  let own := ownsOpenTxn s.zone.txn c
  if own || cause.involuntary then
    let d : Departed :=
      { prior := c, priorEpoch := priorEpoch, cause := cause, time := s.time
        transaction :=
          if own then some (s.zone.staging.length, entryCount s.zone.staging) else none
        frozen := cause.involuntary }
    let t := s.modAuth fun a => { a with departed := some d }
    if own then holdTxn t else t
  else s

/-- The records that a change of holder moves, before its occurrence: steps 1 to 3 of R9, the
indicator field, whose authority LEDs change (R28), and the duty (R63). That the indicator field joins class 1
ahead of the duty fields is the model's choice (log 6). -/
def moveAuthority (h : Option Cp) (cause : Cause) (s : State) : State :=
  let s1 := resolveDeparted h (setHolder h cause s)
  let s2 :=
    match s.auth.holder with
    | none => s1
    | some c => createDeparted c s.auth.epoch cause s1
  recomputeDuty (joinHeld .indicator s2)

/-- A change of holder (R9, R26). -/
def changeHolder (h : Option Cp) (cause : Cause) (s : State) : State :=
  occurEvent .authorityChange 1 false (moveAuthority h cause s)

/-! ### Deadlines (R4, R10) -/

/-- A CP falls silent: its deadline is discarded and PEER_SILENT is raised. -/
def fallSilent (c : Cp) (s : State) : State := handPeer c (setPresence c .silent s)

/-- Whether a CP holds a deadline that is reached; a deadline that a HEARTBEAT has renewed is not (R5). -/
def deadlineReached (c : Cp) (s : State) : Bool :=
  match s.auth.presence.get c with
  | .live d => reached s.time d
  | .silent | .absent => false

/-- The deadline of a LIVE CP that does not hold authority is reached (R4). -/
def peerExpiry (c : Cp) (s : State) : State :=
  if deadlineReached c s && !s.isHolder c then fallSilent c s else s

/-- The holder's deadline is reached (R10). -/
def holderExpiry (s : State) : State :=
  match s.auth.holder with
  | none => s
  | some c =>
    if deadlineReached c s then
      let t := fallSilent c s
      if s.straps.takeover then changeHolder (successor t.auth c) .heartbeatExpiry t else t
    else s

/-! ### Link UP and link DOWN (R2, R6, R11, R183, R189) -/

/-- A link comes UP: its CP goes from ABSENT to SILENT (R2). -/
def presenceUp (c : Cp) (s : State) : State := fallSilent c s

/-- Steps 2 and 3 of R189: the CP becomes ABSENT and authority moves from it; its service state is
cleared; then the occurrences of the move are taken. -/
def presenceDown (c : Cp) (s : State) : State :=
  let s1 := setPresence c .absent s
  if s.isHolder c then
    occurEvent .authorityChange 1 false
      (handPeer c (clearService c (moveAuthority (successor s1.auth c) .linkLost s1)))
  else handPeer c (clearService c s1)

/-! ### HEARTBEAT (R3) -/

/-- Holder and epoch. -/
def encAuthority (s : State) : List Byte := encHolder s.auth.holder ++ u32 s.auth.epoch

/-- Whether a departed record exists. -/
def encDeparted (s : State) : List Byte := yes s.auth.departed.isSome

/-- A HEARTBEAT is taken: the CP is LIVE until H after its arrival (R3, R26). -/
def takeHeartbeat (c : Cp) (s : State) : State :=
  handPeer c (setPresence c (.live (timeAfter s.time s.straps.period.ms)) s)

/-- The results of a HEARTBEAT; `prior` is the sender's presence before it (R3). -/
def heartbeatResults (c : Cp) (prior : Presence) (t : State) : List Byte :=
  encAuthority t ++ encPresence prior ++ encDeparted t ++ encAttention t c

/-! ### Authority requests (R12 to R15) -/

/-- CLAIM AUTHORITY (R12). -/
def claimAuthority (c : Cp) (epoch : BitVec 32) (s : State) : State × Took :=
  let results (t : State) : List Byte := encAuthority t ++ encCause t.auth.cause ++ encDeparted t
  if epoch ≠ s.auth.epoch then (s, .reply .stale (results s))
  else
    match s.auth.holder with
    | none =>
      let t := changeHolder (some c) .claimed s
      (t, .reply .done (results t))
    | some h =>
      if h = c then (s, .reply .done (results s))
      else if (s.auth.presence.get h).isLive then (s, .reply .heldByPeer (results s))
      else
        let t := changeHolder (some c) .claimOverSilent s
        (t, .reply .done (results t))

/-- YIELD AUTHORITY of the holder (R13). -/
def yieldAuthority (c : Cp) (s : State) : State × Took :=
  let t := changeHolder (successor s.auth c) .yielded s
  (t, .reply .done (encAuthority t ++ encDeparted t))

/-- TAKE OVER (R14). -/
def takeOver (c : Cp) (epoch : BitVec 32) (s : State) : State × Took :=
  let results (t : State) : List Byte := encAuthority t ++ encDeparted t
  if epoch ≠ s.auth.epoch then (s, .reply .stale (results s))
  else if s.isHolder c then (s, .reply .done (results s))
  else if s.isHolder c.peer && (s.auth.presence.get c.peer).isLive then
    let t := changeHolder (some c) .forced s
    (t, .reply .done (results t))
  else (s, .reply .state (results s))

/-- The deadline of a LIVE CP, 0 for one that is not LIVE (R15). -/
def encDeadline : Presence → List Byte
  | .live d => encTime d
  | _ => encTime 0

/-- The fields of the departed record, each absent while there is none (R15, R18). -/
def encRecord (d : Option Departed) : List Byte :=
  opt (fun x : Departed => encCp x.prior) d ++ opt (fun x : Departed => u32 x.priorEpoch) d
    ++ opt (fun x : Departed => encCause x.cause) d ++ opt (fun x : Departed => encTime x.time) d
    ++ opt (fun x : Departed => encPresent x.transaction.isSome) d
    ++ opt (fun x : Nat × Nat => u16 x.1) (d.bind Departed.transaction)
    ++ opt (fun x : Nat × Nat => u16 x.2) (d.bind Departed.transaction)
    ++ opt (fun x : Departed => yes x.frozen) d

/-- READ AUTHORITY (R15). -/
def readAuthority (s : State) : State × Took :=
  let a := s.auth
  (s, .reply .done
    (encAuthority s ++ encTime a.since ++ encCause a.cause ++ yes a.claimed
      ++ encPresence a.presence.a ++ encPresence a.presence.b
      ++ encDeadline a.presence.a ++ encDeadline a.presence.b
      ++ u16 s.straps.period.ms ++ encTakeover s.straps.takeover
      ++ encDeparted s ++ encRecord a.departed))

/-! ### The departed record (R20, R21) -/

/-- Prior holder, prior epoch and cause of the record that was resolved. -/
def encResolved (d : Departed) : List Byte := encCp d.prior ++ u32 d.priorEpoch ++ encCause d.cause

/-- ADOPT DEPARTED of the holder (R20, R133). -/
def adoptDeparted (c : Cp) (s : State) : State × Took :=
  match s.auth.departed with
  | none => (s, .reply .state [])
  | some d =>
    let t := removeDeparted (if d.transaction.isSome then adoptTxn c s.auth.epoch s else s)
    (t, .reply .done
      (encResolved d ++ yes d.transaction.isSome
        ++ opt (fun x : Nat × Nat => u16 x.1) d.transaction
        ++ opt (fun x : Nat × Nat => u16 x.2) d.transaction))

/-- DISCARD DEPARTED of the holder (R21, R133). -/
def discardDeparted (s : State) : State × Took :=
  match s.auth.departed with
  | none => (s, .reply .state [])
  | some d =>
    let t := removeDeparted (if d.transaction.isSome then discardTxn s else s)
    (t, .reply .done (encResolved d ++ yes d.transaction.isSome))

/-! ### Handover words (R23 to R25) -/

/-- Whether a CP's words are frozen (R23). -/
def isFrozen (a : Authority) (c : Cp) : Bool :=
  match a.departed with
  | some d => d.prior = c && d.frozen
  | none => false

/-- Words replaced from an index onward. -/
def putWords (v : Vector (BitVec 32) 16) (first : Nat) : List (BitVec 32) → Vector (BitVec 32) 16
  | [] => v
  | w :: ws => putWords (v.setIfInBounds first w) (first + 1) ws

/-- WRITE HANDOVER (R24). -/
def writeHandover (c : Cp) (first count : Byte) (words : List (BitVec 32)) (s : State) :
    State × Took :=
  let frozen : List Byte := yes (isFrozen s.auth c)
  if count.toNat = 0 ∨ 16 < first.toNat + count.toNat then (s, .reply .badParam frozen)
  else if isFrozen s.auth c then (s, .reply .frozen frozen)
  else
    (s.modAuth fun a =>
        { a with handover := a.handover.put c (putWords (a.handover.get c) first.toNat words) },
      .reply .done frozen)

/-- READ HANDOVER (R25). -/
def readHandover (target first count : Byte) (s : State) : State × Took :=
  match cpOf target with
  | none => (s, .reply .badParam [])
  | some c =>
    let frozen : List Byte := yes (isFrozen s.auth c)
    if count.toNat = 0 ∨ 16 < first.toNat + count.toNat then (s, .reply .badParam frozen)
    else
      let ws := ((s.auth.handover.get c).toList.drop first.toNat).take count.toNat
      (s, .reply .done (encList u32 ws ++ frozen))

end Sys2Proof.Machine
end

