-- ==== Sys2Proof/Machine/Power.lean ====
section
/-! DEFINITION. The Power Budget Unit: budget arithmetic, recomputes, port power, and the requests of
04_the_power_budget.md. -/

namespace Sys2Proof.Machine

/-! ### Demand (R73) -/

/-- The draw of a port of a class (R73). -/
def PortClass.draw : PortClass → Nat
  | .s => 4
  | .m => 6
  | .h => 9

/-- The draw of a port in a power state. -/
def PortPower.draw : PortPower → Nat
  | .enabled c => c.draw
  | _ => 0

/-- Whether a power state is ENABLED. -/
def PortPower.isEnabled : PortPower → Bool
  | .enabled _ => true
  | _ => false

/-- Whether a slot is POWERING or POWERED. -/
def SlotPower.drawing : SlotPower → Bool
  | .powering _ | .powered => true
  | _ => false

/-- Whether a slot is DENIED. -/
def SlotPower.isDenied : SlotPower → Bool
  | .denied _ => true
  | _ => false

/-- The base draw of a slot record. -/
def SlotRec.base (r : SlotRec) : Nat :=
  match r.card with
  | none => 0
  | some c => c.base

/-- Slot draw: base draw and draws of ENABLED ports while POWERING or POWERED, otherwise 0 (R93). -/
def slotDraw (p : Power) (i : Slot) : Nat :=
  let r := p.slots.get i
  if r.power.drawing then r.base + ((slotPart p.ports i).map PortPower.draw).sum else 0

/-- The demand (R73). -/
def demand (p : Power) : Nat := (allSlots.map (slotDraw p)).sum

/-- Whether a further draw fits the margin, A minus the demand. -/
def fits (p : Power) (draw : Nat) : Bool := demand p + draw ≤ p.avail

/-! ### The budget (R71, R72) -/

/-- S under N_PLUS_1: the sum less the largest, 0 with fewer than two GOOD supplies (R71). -/
def supplyNPlus1 (bays : List BayInput) : Nat :=
  if (bays.countP fun b => b.state = .good) < 2 then 0
  else (bays.map BayInput.usable).sum - (bays.map BayInput.usable).foldl max 0

/-- S and the grid-redundancy-lost flag (R71). -/
def supplyBudget (policy : Policy) (bays : List BayInput) : Nat × Bool :=
  match policy with
  | .n => ((bays.map BayInput.usable).sum, false)
  | .nPlus1 => (supplyNPlus1 bays, false)
  | .grid =>
    let gridA := bays.take 2
    let gridB := bays.drop 2
    if (gridA.any fun b => b.state = .good) && gridB.any fun b => b.state = .good then
      (min (gridA.map BayInput.usable).sum (gridB.map BayInput.usable).sum, false)
    else (supplyNPlus1 bays, true)

/-- S, the grid flag, Cfull, C and A are formed anew (R71, R72, R74). -/
def formBudget (p : Power) : Power :=
  let s := supplyBudget p.policy p.input.bays.toList
  let full := coolFullOf p.input.rotors
  let c := full * (100 - coolingDerate p.input.tIn) / 100
  { p with
    supply := s.1, gridLost := s.2, coolFull := full, coolCap := c, avail := min s.1 c - 180 }

/-! ### Slots and ports change (R83, R84) -/

/-- Apply `f` to a slot record. -/
def modSlot (i : Slot) (f : SlotRec → SlotRec) (s : State) : State :=
  s.modPower fun p => { p with slots := updAt p.slots i f }

/-- The power state of a slot is set. -/
def setSlotPower (i : Slot) (st : SlotPower) (s : State) : State :=
  modSlot i (fun r => { r with power := st }) s

/-- The power state of a port is set; when it enters or leaves ENABLED its field joins class 1
(R84). -/
def setPort (p : Port) (st : PortPower) (s : State) : State :=
  let t := s.modPower fun w => { w with ports := updAt w.ports p fun _ => st }
  if (s.power.ports.get p).isEnabled = st.isEnabled then t else joinHeld (enableFieldOf p) t

/-- Every port of the slot goes to OFF, and a port enable field in which a line changes joins class 1
(R83). -/
def portsOff (i : Slot) (s : State) : State :=
  let old := slotPart s.power.ports i
  let s1 := s.modPower fun w =>
    { w with ports := w.ports.mapIdx fun k st => if k / 32 = i.val then .off else st }
  let s2 := if (old.take 16).any PortPower.isEnabled then joinHeld (.portEnable i 0) s1 else s1
  if (old.drop 16).any PortPower.isEnabled then joinHeld (.portEnable i 1) s2 else s2

/-- The slot leaves POWERING or POWERED for another state: its power enable joins class 1 unless the
new state is EMPTY, and its ports go to OFF (R83). -/
def leaveDraw (i : Slot) (st : SlotPower) (s : State) : State :=
  let t := setSlotPower i st s
  portsOff i (if st = .empty then t else joinHeld (.powerEnable i) t)

/-- BUDGET_TIGHT is evaluated (R88). -/
def evalTight (s : State) : State := handSettled .budgetTight 1 s

/-- The demand as it stands is given to the Cooling Controller (R73). -/
def tellDemand (s : State) : State := giveDemand (demand s.power) s

/-- A slot leaves POWERING or POWERED outside a recompute: the demand is given, and a slot that left
POWERED is notified to the Zoning Unit at once (R83, R88); that BUDGET_TIGHT follows what the notice raises is
the model's choice (log 17). -/
def leavePower (i : Slot) (st : SlotPower) (s : State) : State :=
  let t := tellDemand (leaveDraw i st s)
  evalTight (if s.isPowered i then slotLeft i t else t)

/-! ### Recompute (R74 to R77) -/

/-- POWERING and POWERED slots in shed order (R75). -/
def shedOrder (p : Power) : List Slot :=
  [0, 1, 2, 3].flatMap fun n =>
    allSlots.reverse.filter fun i => (p.slots.get i).priority = n && (p.slots.get i).power.drawing

/-- DENIED slots in admission order (R76). -/
def admitOrder (p : Power) : List Slot :=
  [3, 2, 1, 0].flatMap fun n =>
    allSlots.filter fun i => (p.slots.get i).priority = n && (p.slots.get i).power.isDenied

/-- Slots are shed in order until the demand fits A (R75); answers the slots shed, in order. With A = 0 too the
pass stops as soon as the demand is 0, so a slot that draws 0 W may stay (log 42). -/
def shedPass : List Slot → State → State × List Slot
  | [], s => (s, [])
  | i :: is, s =>
    if demand s.power ≤ s.power.avail then (s, [])
    else
      let r := shedPass is (leaveDraw i (.denied .shed) s)
      (r.1, i :: r.2)

/-- A DENIED slot whose base draw fits the margin is admitted (R76 step 1). -/
def admitSlot (i : Slot) (s : State) : State :=
  if fits s.power (s.slotRec i).base then
    joinHeld (.powerEnable i) (setSlotPower i (.powering (timeAfter s.time 1000)) s)
  else s

/-- A HELD port whose draw fits the margin becomes ENABLED (R76 step 2). -/
def admitPort (p : Port) (s : State) : State :=
  match s.power.ports.get p with
  | .held c => if fits s.power c.draw then setPort p (.enabled c) s else s
  | _ => s

/-- The HELD ports in ascending index. -/
def heldPorts (p : Power) : List Port :=
  allPorts.filter fun i => match p.ports.get i with
    | .held _ => true
    | _ => false

/-- The admission pass (R76). -/
def admissionPass (s : State) : State :=
  let s1 := (admitOrder s.power).foldl (fun t i => admitSlot i t) s
  (heldPorts s1.power).foldl (fun t p => admitPort p t) s1

/-- The hand-on of a recompute, steps 2 to 6 of R77 (step 1, the joins, is made by the pass);
`left` are the shed slots that were POWERED. -/
def handOn (kind : RecomputeKind) (left shed : List Slot) (s : State) : State :=
  let s1 := left.foldl (fun t i => slotLeft i t) s
  let s2 := shed.foldl (fun t i => eventSettled .budgetShed (i.val + 1) t) s1
  let s3 := evalTight (tellDemand s2)
  s3.modPower fun p => { p with lastKind := kind, lastTime := s.time }

/-- A recompute, with the slots it shed (R74). -/
def recomputeShed (s : State) : State × List Slot :=
  let s1 := s.modPower formBudget
  if s1.power.avail < demand s1.power then
    let r := shedPass (shedOrder s1.power) s1
    (handOn .shed (r.2.filter fun i => s1.isPowered i) r.2 r.1, r.2)
  else (handOn .admission [] [] (admissionPass s1), [])

/-- A recompute (R74). -/
def recompute (s : State) : State := (recomputeShed s).1

/-! ### Port power and the notices of the License Unit (R85, R86) -/

/-- The port power test (R85). -/
def testPort (p : Port) (c : PortClass) (s : State) : State :=
  evalTight <|
    if fits s.power c.draw then tellDemand (setPort p (.enabled c) s) else setPort p (.held c) s

/-- A grant notice (R85). -/
def takeGrant (p : Port) (c : PortClass) (s : State) : State :=
  if s.isPowered (portSlot p) && (s.lic.ports.get p).up then testPort p c s else s

/-- A release notice, and whether it calls for a recompute (R86). -/
def takeRelease (p : Port) (s : State) : State × Bool :=
  let t := setPort p .off s
  if (s.power.ports.get p).isEnabled then (evalTight (tellDemand t), true) else (evalTight t, false)

/-- A regrade notice, and whether it calls for a recompute (R86). -/
def takeRegrade (p : Port) (c : PortClass) (s : State) : State × Bool :=
  match s.power.ports.get p with
  | .off => (evalTight s, false)
  | .held old => (evalTight (setPort p (.held c) s), c.draw < old.draw)
  | .enabled old =>
    if c.draw ≤ old.draw then (evalTight (tellDemand (setPort p (.enabled c) s)), true)
    else if fits s.power (c.draw - old.draw) then
      (evalTight (tellDemand (setPort p (.enabled c) s)), false)
    else (evalTight (tellDemand (setPort p (.held c) s)), true)

/-- One notice of the License Unit. -/
def takeNotice (n : Notice) (s : State) : State × Bool :=
  match n with
  | .grant p c => (takeGrant p c s, false)
  | .release p => takeRelease p s
  | .regrade p c => takeRegrade p c s

/-- The notices of one step, taken in order; answers whether any calls for a recompute. -/
def takeAll : List Notice → State → State × Bool
  | [], s => (s, false)
  | n :: ns, s =>
    let r := takeNotice n s
    let q := takeAll ns r.1
    (q.1, r.2 || q.2)

/-- The notices of one step are handed to the Power Budget Unit, which makes one recompute after the
last of them where one is called for (R74, R86, R108; log 15). -/
def handNotices (ns : List Notice) (s : State) : State :=
  let r := takeAll ns s
  if r.2 then recompute r.1 else r.1

/-- The condition SLOT_FAULT of a slot is handed if it changed (R87). -/
def handSlotFault (i : Slot) (s : State) : State := handSettled .slotFault (i.val + 1) s

/-! ### Requests (R89 to R93) -/

/-- The demand and A as results. -/
def encDemandA (s : State) : List Byte := u16 (demand s.power) ++ u16 s.power.avail

/-- SET RESERVE POLICY (R89). -/
def setReservePolicy (policy : Byte) (s : State) : State × Took :=
  let results (t : State) (shed : Nat) : List Byte :=
    encPolicy t.power.policy ++ u16 t.power.supply ++ u16 t.power.avail ++ u16 (demand t.power)
      ++ yes t.power.gridLost ++ u8 shed
  match policyOf policy with
  | none => (s, .reply .badParam (results s 0))
  | some p =>
    if p = s.power.policy then (s, .reply .done (results s 0))
    else
      let r := recomputeShed (s.modPower fun w => { w with policy := p })
      (r.1, .reply .done (results r.1 r.2.length))

/-- A transition outside a recompute between states that draw nothing, and its recompute (R88, R90);
SLOT_FAULT follows the state. -/
def moveSlot (i : Slot) (st : SlotPower) (s : State) : State :=
  recompute (evalTight (handSlotFault i (setSlotPower i st s)))

/-- SLOT POWER OFF of a slot in a power state (R90). -/
def slotOff (i : Slot) (s : State) : State :=
  match (s.slotRec i).power with
  | .empty | .off => s
  | .denied _ | .faulted => moveSlot i .off s
  | .powering _ | .powered => recompute (leavePower i .off s)

/-- SLOT POWER ON of a slot in a power state (R90). -/
def slotOn (i : Slot) (s : State) : State :=
  match (s.slotRec i).power with
  | .off | .faulted => moveSlot i (.denied .waiting) s
  | .empty | .denied _ | .powering _ | .powered => s

/-- The denial reason of a power state. -/
def denialOf : SlotPower → Option DenialReason
  | .denied r => some r
  | _ => none

/-- The power-good deadline of a power state. -/
def deadlineOf : SlotPower → Option Time
  | .powering d => some d
  | _ => none

/-- Admin, power state and denial reason of a slot. -/
def encSlotState (r : SlotRec) : List Byte :=
  encAdmin r.admin ++ encSlotPower r.power ++ opt encDenial (denialOf r.power)

/-- SLOT POWER (R90). -/
def slotPower (slot action : Byte) (s : State) : State × Took :=
  match slotOf slot with
  | none => (s, .reply .badParam [])
  | some i =>
    match slotActionOf action with
    | none => (s, .reply .badParam (encSlotState (s.slotRec i) ++ encDemandA s))
    | some on =>
      let s1 := modSlot i (fun r => { r with admin := on }) s
      let t := if on then slotOn i s1 else slotOff i s1
      (t, .reply .done (encSlotState (t.slotRec i) ++ encDemandA t))

/-- The shed priorities of slots 1 to 8. -/
def encPriorities (s : State) : List Byte := allSlots.flatMap fun i => u8 (s.slotRec i).priority

/-- SET SHED PRIORITY (R91). -/
def setShedPriority (slot priority : Byte) (s : State) : State × Took :=
  match slotOf slot with
  | none => (s, .reply .badParam (encPriorities s))
  | some i =>
    if 3 < priority.toNat then (s, .reply .badParam (encPriorities s))
    else if (s.slotRec i).priority = priority.toNat then (s, .reply .done (encPriorities s))
    else
      let t := recompute (modSlot i (fun r => { r with priority := priority.toNat }) s)
      (t, .reply .done (encPriorities t))

/-- One bay of the input record. -/
def encBay (b : BayInput) : List Byte := encSupplyState b.state ++ u16 b.usable

/-- How many slots satisfy a test of their power state. -/
def countSlots (p : Power) (f : SlotPower → Bool) : List Byte :=
  u8 (p.slots.toList.countP fun r => f r.power)

/-- Whether a port is HELD. -/
def PortPower.isHeld : PortPower → Bool
  | .held _ => true
  | _ => false

/-- Whether a slot is POWERING. -/
def SlotPower.isPowering : SlotPower → Bool
  | .powering _ => true
  | _ => false

/-- READ BUDGET (R92). -/
def readBudget (s : State) : State × Took :=
  let p := s.power
  (s, .reply .done
    (encPolicy p.policy ++ temp p.input.tIn ++ u8 p.input.rotors ++ p.input.bays.toList.flatMap encBay
      ++ u8 (supplyDerate p.input.tIn) ++ u8 (coolingDerate p.input.tIn)
      ++ u16 p.supply ++ yes p.gridLost ++ u16 p.coolFull ++ u16 p.coolCap ++ u16 p.avail
      ++ u16 (demand p) ++ u16 (p.avail - demand p)
      ++ countSlots p (fun st => st = .empty) ++ countSlots p (fun st => st = .off)
      ++ countSlots p SlotPower.isDenied ++ countSlots p SlotPower.isPowering
      ++ countSlots p (fun st => st = .powered) ++ countSlots p (fun st => st = .faulted)
      ++ u16 (p.ports.toList.countP PortPower.isEnabled) ++ u16 (p.ports.toList.countP PortPower.isHeld)
      ++ yes (budgetTight p) ++ encKind p.lastKind ++ encTime p.lastTime))

/-- READ SLOT (R93). -/
def readSlot (slot : Byte) (s : State) : State × Took :=
  match slotOf slot with
  | none => (s, .reply .badParam [])
  | some i =>
    let r := s.slotRec i
    let z := s.zone.slots.get i
    (s, .reply .done
      (encPresent r.card.isSome ++ opt (fun c : Card => [c.kind]) r.card
        ++ opt (fun c : Card => u16 c.base) r.card ++ opt (fun c : Card => u8 c.ports) r.card
        ++ encSlotPower r.power ++ opt encDenial (denialOf r.power) ++ opt encTime (deadlineOf r.power)
        ++ encAdmin r.admin ++ u8 r.priority ++ u16 (slotDraw s.power i)
        ++ (slotPart s.power.ports i).flatMap encPortPower
        ++ encGeneration z.loaded ++ yes z.catchUp ++ yes (r.power = .faulted)))

end Sys2Proof.Machine
end

