-- ==== Sys2Proof/Machine/License.lean ====
section
/-! DEFINITION. The License Unit: the pool, the grant list and the wait queue, and the requests of
05_port_licensing.md. -/

namespace Sys2Proof.Machine

/-! ### The pool (R100, R102) -/

/-- The sum of units (R100). -/
def unitSum (l : License) : Nat := (l.table.map fun e => e.units.toNat).sum

/-- The pool total (R100). -/
def poolTotal (l : License) : Nat := min 768 (unitSum l)

/-- The class of a code 1, 2 or 3. -/
def classOfCode : Nat → Option PortClass
  | 1 => some .s
  | 2 => some .m
  | 3 => some .h
  | _ => none

/-- The code of the ceiling, 0 for NONE (R100). -/
def ceilingCode (l : License) : Nat := (l.table.map fun e => e.ceiling.toNat).foldl max 0

/-- The ceiling; none while NONE (R100). -/
def ceilingOf (l : License) : Option PortClass := classOfCode (ceilingCode l)

/-- The unit weight of a class (R100). -/
def PortClass.weight (c : PortClass) : Nat := c.code

/-- Granted units (R100). -/
def grantedUnits (l : License) : Nat := (l.grants.map fun g => g.cls.weight).sum

/-- Free units (R100). -/
def freeUnits (l : License) : Nat := poolTotal l - grantedUnits l

/-- The smaller of two classes, S below M below H. -/
def PortClass.smaller (x y : PortClass) : PortClass := if x.code ≤ y.code then x else y

/-- The effective class of a port; none while the ceiling is NONE (R102). -/
def effectiveClass (l : License) (p : Port) : Option PortClass :=
  (ceilingOf l).map (l.ports.get p).requested.smaller

/-- The effective weight of the port at the head; none with no head or no ceiling. -/
def headWeight (l : License) : Option Nat :=
  match l.waiting with
  | [] => none
  | p :: _ => (effectiveClass l p).map PortClass.weight

/-- The grant of a port. -/
def grantOf (l : License) (p : Port) : Option Grant := l.grants.find? fun g => g.port = p

/-- License states (R94). -/
inductive LicenseState where
  | none
  | waiting
  | granted (cls : PortClass)
  deriving DecidableEq, Repr

/-- The license state of a port, by its place on the two lists (R94). -/
def licenseState (l : License) (p : Port) : LicenseState :=
  match grantOf l p with
  | some g => .granted g.cls
  | Option.none => if l.waiting.contains p then .waiting else .none

/-! ### Changes of the two lists (R101, R104) -/

/-- The class field of a port joins class 1 (R95). -/
def joinClassField (p : Port) (s : State) : State := joinHeld (classFieldOf p) s

/-- A grant (R104). -/
def grantPort (p : Port) (c : PortClass) (s : State) : State :=
  joinClassField p (s.modLic fun l => { l with grants := l.grants ++ [⟨p, c⟩] })

/-- A release (R104). -/
def releasePort (p : Port) (s : State) : State :=
  joinClassField p (s.modLic fun l => { l with grants := l.grants.filter fun g => g.port ≠ p })

/-- A regrade in place (R104). -/
def regradePort (p : Port) (c : PortClass) (s : State) : State :=
  joinClassField p <| s.modLic fun l =>
    { l with grants := l.grants.map fun g => if g.port = p then ⟨p, c⟩ else g }

/-- A port is appended to the wait queue (R101). -/
def queuePort (p : Port) (s : State) : State :=
  s.modLic fun l => { l with waiting := l.waiting ++ [p] }

/-- A port leaves the wait queue from wherever it stands (R101). -/
def unqueuePort (p : Port) (s : State) : State :=
  s.modLic fun l => { l with waiting := l.waiting.filter fun q => q ≠ p }

/-- The settings of a port are changed (R94). -/
def modPort (p : Port) (f : PortConfig → PortConfig) (s : State) : State :=
  s.modLic fun l => { l with ports := updAt l.ports p f }

/-! ### Serving the queue (R103) -/

/-- Waiting ports are granted from the head while the head's weight fits the free units; `ps` is the
wait queue. Answers the grants made, in order. -/
def serve : List Port → State → State × List Grant
  | [], s => (s, [])
  | p :: ps, s =>
    match effectiveClass s.lic p with
    | none => (s, [])
    | some c =>
      if c.weight ≤ freeUnits s.lic then
        let r := serve ps (grantPort p c (s.modLic fun l => { l with waiting := ps }))
        (r.1, ⟨p, c⟩ :: r.2)
      else (s, [])

/-- Whether the queue is served at the end of a step, by the four changes of R103. -/
def mustServe (before after : License) : Bool :=
  freeUnits before < freeUnits after
    || ceilingCode before < ceilingCode after
    || (match before.waiting with
      | [] => false
      | p :: _ => !after.waiting.contains p)
    || (match headWeight before, headWeight after with
      | some w, some v => v < w
      | _, _ => false)

/-- The queue is served if R103 calls for it since `before`. -/
def serveAfter (before : License) (s : State) : State × List Grant :=
  if mustServe before s.lic then serve s.lic.waiting s else (s, [])

/-- The grant notices of grants. -/
def grantNotices (gs : List Grant) : List Notice := gs.map fun g => .grant g.port g.cls

/-- The end of a step of the License Unit: the queue is served if R103 calls for it, the notices go to
the Power Budget Unit, and a change of LICENSE_WAIT is handed (R103, R109, R115), behind what that unit raises
(log 17, the model's choice). Answers how many ports were served. -/
def endStep (before : License) (ns : List Notice) (s : State) : State × Nat :=
  let r := serveAfter before s
  let t := handNotices (ns ++ grantNotices r.2) r.1
  (handCondition .licenseWait 1 t, r.2.length)

/-! ### Entitlements (R97 to R99, R105 to R108) -/

/-- The check that decides the outcome of INSTALL ENTITLEMENT; none when all pass (R99). -/
def installCheck (serial : Option (BitVec 64)) (l : License) (e : Entitlement) :
    Option OutcomeCode :=
  if e.check ≠ crc32 e.head then some .checkFail
  else if serial ≠ some e.serial then some .checkFail
  else if e.flags ≠ 0 ∨ e.units = 0 ∨ 768 < e.units.toNat ∨ classOfCode e.ceiling.toNat = none
      ∨ e.id = 0 then some .badParam
  else if l.table.any fun x => x.id = e.id then some .duplicate
  else if 16 ≤ l.table.length then some .noSpace
  else none

/-- Pool total, ceiling, granted units and free units. -/
def encPool (l : License) : List Byte :=
  u16 (poolTotal l) ++ encClassOrNone (ceilingOf l) ++ u16 (grantedUnits l) ++ u16 (freeUnits l)

/-- INSTALL ENTITLEMENT (R99). -/
def installEntitlement (e : Entitlement) (s : State) : State × Took :=
  let results (t : State) (served : Nat) : List Byte :=
    u8 t.lic.table.length ++ encPool t.lic ++ u16 served
  match installCheck s.serial s.lic e with
  | some o => (s, .reply o (results s 0))
  | none =>
    let r := endStep s.lic [] (s.modLic fun l => { l with table := l.table ++ [e] })
    (r.1, .reply .done (results r.1 r.2))

/-- The GRANTED ports above a ceiling, in grant-list order (R106). -/
def aboveCeiling (l : License) (c : PortClass) : List Port :=
  (l.grants.filter fun g => c.code < g.cls.code).map Grant.port

/-- The regrade by the ceiling: the state, and the regrade notices (R106). -/
def regradeByCeiling (before : License) (s : State) : State × List Notice :=
  match ceilingOf s.lic with
  | none => (s, [])
  | some c =>
    if ceilingCode s.lic < ceilingCode before then
      let ps := aboveCeiling s.lic c
      (ps.foldl (fun t p => regradePort p c t) s, ps.map fun p => .regrade p c)
    else (s, [])

/-- The revocation, over the grant list from its tail: ports are revoked to the head of the queue
while the granted units exceed the total; answers them in order (R107). -/
def revoke : List Grant → State → State × List Port
  | [], s => (s, [])
  | g :: gs, s =>
    if grantedUnits s.lic ≤ poolTotal s.lic then (s, [])
    else
      let r := revoke gs
        ((releasePort g.port s).modLic fun l => { l with waiting := g.port :: l.waiting })
      (r.1, g.port :: r.2)

/-- A LICENSE_REVOKED occurrence for each port revoked (R115). -/
def raiseRevoked (ps : List Port) (s : State) : State :=
  ps.foldl (fun t p => occurEvent .licenseRevoked (p.val + 1) false t) s

/-- REMOVE ENTITLEMENT (R105 to R108). -/
def removeEntitlement (id : BitVec 32) (s : State) : State × Took :=
  let results (t : State) (regraded revoked served : Nat) : List Byte :=
    encPool t.lic ++ u16 regraded ++ u16 revoked ++ u16 served ++ u16 t.lic.waiting.length
  if s.lic.table.any fun e => e.id = id then
    let s1 := s.modLic fun l => { l with table := l.table.filter fun e => e.id ≠ id }
    let graded := regradeByCeiling s.lic s1
    let revoked := revoke graded.1.lic.grants.reverse graded.1
    let served := serveAfter s.lic revoked.1
    let s2 := handNotices
      (graded.2 ++ (revoked.2.map fun p => .release p) ++ grantNotices served.2) served.1
    let t := handCondition .licenseWait 1 (raiseRevoked revoked.2 s2)
    (t, .reply .done (results t graded.2.length revoked.2.length served.2.length))
  else (s, .reply .notFound (results s 0 0 0))

/-! ### Port administration (R109 to R113) -/

/-- Per-port results (R109), in the order of its table. -/
inductive PortResult where
  | untouched
  | granted
  | waiting
  | recorded
  | regraded
  | unchanged
  | noUnits
  | released
  | withdrawn
  deriving DecidableEq, Repr

/-- A per-port result as it travels (R192). -/
def PortResult.byte : PortResult → Nat
  | .untouched => 1
  | .granted => 2
  | .waiting => 3
  | .recorded => 4
  | .regraded => 5
  | .unchanged => 6
  | .noUnits => 7
  | .released => 8
  | .withdrawn => 9

/-- An existing port of license state NONE requests a license at its requested class (R110, R114). -/
def requestLicense (p : Port) (s : State) : State × List Notice × PortResult :=
  match effectiveClass s.lic p with
  | none => (queuePort p s, [], .waiting)
  | some c =>
    if s.lic.waiting.isEmpty && c.weight ≤ freeUnits s.lic then
      (grantPort p c s, [.grant p c], .granted)
    else (queuePort p s, [], .waiting)

/-- PORT ADMIN UP on a GRANTED port (R111). -/
def upGranted (p : Port) (old cls : PortClass) (s : State) : State × List Notice × PortResult :=
  let s1 := modPort p (fun r => { r with requested := cls }) s
  match effectiveClass s1.lic p with
  | none => (s, [], .noUnits)
  | some new =>
    if new = old then (s1, [], .unchanged)
    else if new.weight < old.weight then (regradePort p new s1, [.regrade p new], .regraded)
    else if s.lic.waiting.isEmpty && new.weight - old.weight ≤ freeUnits s.lic then
      (regradePort p new s1, [.regrade p new], .regraded)
    else (s, [], .noUnits)

/-- PORT ADMIN UP on a port (R110 to R112). -/
def portUp (p : Port) (cls : PortClass) (s : State) : State × List Notice × PortResult :=
  match licenseState s.lic p with
  | .none =>
    let s1 := modPort p (fun _ => ⟨true, cls⟩) s
    if s.portExists p then requestLicense p s1 else (s1, [], .recorded)
  | .waiting => (modPort p (fun r => { r with requested := cls }) s, [], .waiting)
  | .granted old => upGranted p old cls s

/-- PORT ADMIN DOWN on a port (R113). -/
def portDown (p : Port) (s : State) : State × List Notice × PortResult :=
  let s1 := modPort p (fun r => { r with up := false }) s
  match licenseState s.lic p with
  | .granted _ => (releasePort p s1, [.release p], .released)
  | .waiting => (unqueuePort p s1, [], .withdrawn)
  | .none => (s1, [], if s.portExists p then .unchanged else .recorded)

/-- One port of the mask: one step of the License Unit (R109). -/
def adminPort (up : Bool) (cls : PortClass) (p : Port) (s : State) : State × PortResult :=
  let r := if up then portUp p cls s else portDown p s
  ((endStep s.lic r.2.1 r.1).1, r.2.2)

/-- The ports of the mask in ascending index, each with its mask bit. -/
def adminPorts (up : Bool) (cls : PortClass) : List (Port × Bool) → State → State × List PortResult
  | [], s => (s, [])
  | (p, touched) :: ps, s =>
    let r := if touched then adminPort up cls p s else (s, .untouched)
    let q := adminPorts up cls ps r.1
    (q.1, r.2 :: q.2)

/-- The eight ports of a group. -/
def groupPorts (g : Fin 32) : List Port := (List.range 8).map fun k => Fin.ofNat 256 (8 * g.val + k)

/-- A group, 0 to 31 (R109). -/
def groupOf (b : Byte) : Option (Fin 32) := if h : b.toNat < 32 then some ⟨b.toNat, h⟩ else none

/-- A license state: NONE is 0, then WAITING, GRANTED (R94, R192). -/
def encLicense : LicenseState → List Byte
  | .none => u8 0
  | .waiting => u8 1
  | .granted _ => u8 2

/-- The granted class, only while GRANTED. -/
def grantedClass : LicenseState → Option PortClass
  | .granted c => some c
  | _ => Option.none

/-- Per-port result and the states after the whole request (R109). -/
def encPortResult (s : State) (p : Port) (r : PortResult) : List Byte :=
  u8 r.byte ++ encUp (s.lic.ports.get p).up ++ encLicense (licenseState s.lic p)
    ++ opt encClass (grantedClass (licenseState s.lic p))

/-- PORT ADMIN (R109). -/
def portAdmin (group mask action cls : Byte) (s : State) : State × Took :=
  match groupOf group with
  | none => (s, .reply .badParam [])
  | some g =>
    let ps := groupPorts g
    let results (t : State) (rs : List PortResult) : List Byte :=
      ((ps.zip rs).flatMap fun x => encPortResult t x.1 x.2)
        ++ u16 (grantedUnits t.lic) ++ u16 (freeUnits t.lic) ++ u16 t.lic.waiting.length
    match portActionOf action, classOf cls with
    | some up, some c =>
      let r := adminPorts up c (ps.zip ((List.range 8).map mask.getLsbD)) s
      (r.1, .reply .done (results r.1 r.2))
    | _, _ => (s, .reply .badParam (results s (List.replicate 8 .untouched)))

/-! ### Slot presence (R114) -/

/-- A port that comes into existence requests its license if it is admin UP, as a NONE port does: one
step (R114). -/
def riseStep (p : Port) (s : State) : State :=
  if (s.lic.ports.get p).up && s.portExists p && decide (licenseState s.lic p = .none) then
    let r := requestLicense p s
    (endStep s.lic r.2.1 r.1).1
  else s

/-- The ports of a slot request licenses at its presence rise (R114). -/
def licenseRise (i : Slot) (s : State) : State := (slotPorts i).foldl (fun t p => riseStep p t) s

/-- A port ends its existence: its grant is released or it leaves the queue. -/
def losePort (p : Port) (s : State) : State × List Notice :=
  match licenseState s.lic p with
  | .granted _ => (releasePort p s, [.release p])
  | .waiting => (unqueuePort p s, [])
  | .none => (s, [])

/-- Ports end their existence in order; answers the release notices. -/
def losePorts : List Port → State → State × List Notice
  | [], s => (s, [])
  | p :: ps, s =>
    let r := losePort p s
    let q := losePorts ps r.1
    (q.1, r.2 ++ q.2)

/-- The ports of a slot lose their licenses at its presence loss (R114). -/
def licenseLoss (i : Slot) (s : State) : State :=
  let r := losePorts (slotPorts i) s
  (endStep s.lic r.2 r.1).1

/-! ### Reads (R116 to R119) -/

/-- The place of a port on the list it is on, counted from 0 at the head (R116). -/
def positionOf (l : License) (p : Port) : Option Nat :=
  match licenseState l p with
  | .none => Option.none
  | .waiting => l.waiting.findIdx? fun q => q = p
  | .granted _ => l.grants.findIdx? fun g => g.port = p

/-- One port of READ PORT GROUP (R116). -/
def encPortRecord (s : State) (p : Port) : List Byte :=
  let st := licenseState s.lic p
  yes (s.portExists p) ++ encUp (s.lic.ports.get p).up ++ encClass (s.lic.ports.get p).requested
    ++ encLicense st ++ opt encClass (grantedClass st) ++ encClassOrNone (effectiveClass s.lic p)
    ++ opt u8 (positionOf s.lic p) ++ encPortPower (s.power.ports.get p)

/-- READ PORT GROUP (R116). -/
def readPortGroup (group : Byte) (s : State) : State × Took :=
  match groupOf group with
  | none => (s, .reply .badParam [])
  | some g => (s, .reply .done ((groupPorts g).flatMap (encPortRecord s)))

/-- The number of ports GRANTED at a class. -/
def grantedAt (l : License) (c : PortClass) : Nat := l.grants.countP fun g => g.cls = c

/-- READ POOL (R117). With ports waiting and no ceiling the head has no effective weight (R102), and the weight
travels as an absent field, the model's choice (log 43). -/
def readPool (s : State) : State × Took :=
  let l := s.lic
  (s, .reply .done
    (u8 l.table.length ++ u16 (unitSum l) ++ u16 (poolTotal l) ++ encClassOrNone (ceilingOf l)
      ++ u16 (grantedUnits l) ++ u16 (freeUnits l)
      ++ u16 (grantedAt l .s) ++ u16 (grantedAt l .m) ++ u16 (grantedAt l .h)
      ++ u16 l.grants.length ++ u16 l.waiting.length
      ++ opt encPort l.waiting.head?
      ++ opt (fun p : Port => encClass (l.ports.get p).requested) l.waiting.head?
      ++ opt u8 (headWeight l) ++ yes (!l.waiting.isEmpty)))

/-- READ GRANT LIST (R118), a data-transfer read (R188). The length comes with DONE alone. -/
def readGrantList (position : BitVec 16) (s : State) : State × Took :=
  match index256 position with
  | none => (s, .reply .badParam [])
  | some k =>
    (s, .transfer .done
      (encList (fun g : Grant => encPort g.port ++ encClass g.cls) ((s.lic.grants.drop k.val).take 32)
        ++ u16 s.lic.grants.length))

/-- READ WAIT QUEUE (R118), a data-transfer read (R188). The length comes with DONE alone. -/
def readWaitQueue (position : BitVec 16) (s : State) : State × Took :=
  match index256 position with
  | none => (s, .reply .badParam [])
  | some k =>
    let entry (p : Port) : List Byte :=
      encPort p ++ encClass (s.lic.ports.get p).requested ++ encClassOrNone (effectiveClass s.lic p)
        ++ opt (fun c : PortClass => u8 c.weight) (effectiveClass s.lic p)
    (s, .transfer .done
      (encList entry ((s.lic.waiting.drop k.val).take 32) ++ u16 s.lic.waiting.length))

/-- READ ENTITLEMENTS (R119), a data-transfer read (R188). R96 and R194 say that every field of the record is
reported, R119 that flags and check codes are not returned: the model follows R119 (log 39). -/
def readEntitlements (s : State) : State × Took :=
  let entry (x : Entitlement × Nat) : List Byte :=
    u8 x.2 ++ u32 x.1.id ++ u16 x.1.units.toNat ++ [x.1.ceiling] ++ be 8 x.1.serial.toNat
  (s, .transfer .done (encList entry s.lic.table.zipIdx))

end Sys2Proof.Machine
end

