-- ==== Sys2Proof/Machine/Slots.lean ====
section
/-! DEFINITION. Slot events at the Power Budget Unit: presence rise and loss, power-good values and the
power-good deadline (04_the_power_budget.md, R79 to R82). -/

namespace Sys2Proof.Machine

/-- A SLOT_CHANGE occurrence (R87). -/
def raiseSlotChange (i : Slot) (s : State) : State := eventSettled .slotChange (i.val + 1) s

/-- The card that a rise records: base draw clamped to 0 to 1000; a port count of 0 or more than 32 is
recorded as 32 (R79 steps 1 to 3). -/
def cardRead (kind : Byte) (base ports : Nat) : Card :=
  { kind := kind, base := min 1000 base, ports := if ports = 0 ∨ 32 < ports then 32 else ports }

/-- A slot's presence rise (R79). -/
def slotRise (i : Slot) (c : Card) (s : State) : State :=
  let s1 := modSlot i
    (fun r => { r with card := some c, power := if r.admin then .denied .waiting else .off }) s
  recompute (raiseSlotChange i (licenseRise i (evalTight s1)))

/-- The card of a slot is removed (R80 step 2). -/
def dropCard (i : Slot) (s : State) : State := modSlot i (fun r => { r with card := none }) s

/-- Steps 1 and 2 of R80: the slot leaves its power state for EMPTY and its card is removed. -/
def emptySlot (i : Slot) (s : State) : State :=
  match (s.slotRec i).power with
  | .powering _ | .powered => dropCard i (leavePower i .empty s)
  | .empty | .off | .denied _ | .faulted =>
    evalTight (handSlotFault i (dropCard i (setSlotPower i .empty s)))

/-- A slot's presence loss (R80). -/
def slotLoss (i : Slot) (s : State) : State :=
  recompute (raiseSlotChange i (licenseLoss i (emptySlot i s)))

/-- On entering POWERED each existing port of the slot that is GRANTED and admin UP is tested (R82). -/
def testSlotPort (p : Port) (s : State) : State :=
  match licenseState s.lic p with
  | .granted c => if s.portExists p && (s.lic.ports.get p).up then testPort p c s else s
  | _ => s

/-- A slot enters POWERED (R81, R82). -/
def enterPowered (i : Slot) (s : State) : State :=
  let s1 := evalTight (setSlotPower i .powered s)
  let s2 := (slotPorts i).foldl (fun t p => testSlotPort p t) s1
  recompute (raiseSlotChange i (slotEntered i s2))

/-- A slot in POWERING or POWERED becomes FAULTED (R81, R82). -/
def faultSlot (i : Slot) (s : State) : State :=
  recompute (handSlotFault i (leavePower i .faulted s))

/-- A power-good value handed over for a slot (R81, R82). -/
def powerGood (i : Slot) (value : Bool) (s : State) : State :=
  match (s.slotRec i).power with
  | .powering _ => if value then enterPowered i s else s
  | .powered => if value then s else faultSlot i s
  | .empty | .off | .denied _ | .faulted => s

/-- The power-good deadline of a slot is taken once it is reached (R81). -/
def powerGoodExpiry (i : Slot) (s : State) : State :=
  match (s.slotRec i).power with
  | .powering d => if reached s.time d then faultSlot i s else s
  | _ => s

end Sys2Proof.Machine
end

