-- ==== Sys2Proof/Machine/Supplies.lean ====
section
/-! DEFINITION. What the scan hands to the Cooling Controller: supply lines, inlet sensors, trays and
rotors, and the completion of a pass (03_supplies_fans_and_temperature.md). -/

namespace Sys2Proof.Machine

/-! ### Cooling notices (R61) -/

/-- The values that a cooling notice carries (R61). -/
def noticeOf (c : Cooling) : InputRecord :=
  { bays := c.supplies.map fun r => ⟨r.state, r.usable⟩, tIn := c.tIn, rotors := goodRotors c }

/-- A cooling notice is handed and taken: the input record is replaced whole, and a recompute is made
(R61, R69, R74). -/
def coolingNotice (s : State) : State :=
  recompute (s.modPower fun p => { p with input := noticeOf s.cool })

/-! ### Supplies (R49 to R53) -/

/-- Apply `f` to a supply record. -/
def modSupply (b : Bay) (f : Supply → Supply) (s : State) : State :=
  s.modCool fun c => { c with supplies := updAt c.supplies b f }

/-- The state that the lines of a bay give (R50). -/
def supplyStateOf (inputOk outputOk : Bool) : SupplyState :=
  if inputOk then if outputOk then .good else .failed else .off

/-- A supply record at a state and identity, with its usable output (R52). -/
def supplyAt (tIn : Int) (state : SupplyState) (identity : Option SupplyIdentity) : Supply :=
  ⟨state, identity, usableOf state identity tIn⟩

/-- The conditions of a bay are handed where they changed (R53). -/
def handSupply (b : Bay) (s : State) : State :=
  handSettled .psuInputLost (b.val + 1) (handSettled .psuFault (b.val + 1) s)

/-- A supply's presence rise, with the lines of its pass (R49). -/
def supplyRise (b : Bay) (rated : Nat) (input : InputKind) (inputOk outputOk : Bool) (s : State) :
    State :=
  coolingNotice <| handSupply b <|
    modSupply b
      (fun _ => supplyAt s.cool.tIn (supplyStateOf inputOk outputOk) (some ⟨min 6000 rated, input⟩)) s

/-- The lines of a bay in a later pass (R50). -/
def supplyLines (b : Bay) (inputOk outputOk : Bool) (s : State) : State :=
  let st := supplyStateOf inputOk outputOk
  if (s.cool.supplies.get b).state = st then s
  else
    coolingNotice <| handSupply b <| modSupply b (fun r => supplyAt s.cool.tIn st r.identity) s

/-- A supply's presence loss (R51). -/
def supplyLoss (b : Bay) (s : State) : State :=
  coolingNotice <| eventSettled .psuRemoved (b.val + 1) <| handSupply b <|
    modSupply b (fun _ => ⟨.absent, none, 0⟩) s

/-! ### Inlet sensors and T_in (R54 to R56) -/

/-- An inlet sensor reading: the value and the invalid flag; none for NOT_ANSWERED (R41). -/
abbrev SensorReading := Option (Int × Bool)

/-- A sensor record after a reading (R54). -/
def judgeSensor (reading : SensorReading) (r : Sensor) : Sensor :=
  match reading with
  | some (v, false) => ⟨v, true, 0⟩
  | _ => { r with valid := false, invalidPasses := min 4 (r.invalidPasses + 1) }

/-- A sensor reading is handed over (R54, R56). -/
def sensorReading (w : Fin 2) (reading : SensorReading) (s : State) : State :=
  handSettled .sensorLost (w.val + 1)
    (s.modCool fun c => { c with sensors := updAt c.sensors w (judgeSensor reading) })

/-- The larger last value among the VALID sensors; none when none is VALID. -/
def warmest (c : Cooling) : Option Int :=
  ((c.sensors.toList.filter Sensor.valid).map Sensor.last).max?

/-- T_in and the assumed flag of a pass (R55). -/
def formTIn (c : Cooling) : Int × Bool :=
  match warmest c with
  | some v => (v, false)
  | none =>
    if c.sensors.toList.all fun r => r.invalidPasses = 4 then (50, true) else (c.tIn, c.assumed)

/-- The usable output of every supply is formed anew (R52). -/
def reformUsable (c : Cooling) : Cooling :=
  { c with supplies := c.supplies.map fun r => supplyAt c.tIn r.state r.identity }

/-- T_in is formed when both sensor records have been updated; a change hands the temperature
conditions and one cooling notice, and the duty is recomputed at a change of T_in or of the assumed
flag (R55, R56, R63). -/
def updateTIn (s : State) : State :=
  let f := formTIn s.cool
  let s1 := s.modCool fun c => { c with tIn := f.1, assumed := f.2 }
  if f.1 ≠ s.cool.tIn then
    recomputeDuty <| coolingNotice <| handSettled .tempCrit 1 <| handSettled .tempWarn 1 <|
      s1.modCool reformUsable
  else if f.2 ≠ s.cool.assumed then recomputeDuty s1
  else s

/-! ### Trays and rotors (R57 to R60) -/

/-- Apply `f` to a tray record. -/
def modTray (t : Tray) (f : TrayRec → TrayRec) (s : State) : State :=
  s.modCool fun c => { c with trays := updAt c.trays t f }

/-- FAN_ROTOR_FAIL of the four rotors of a tray is handed where it changed (R60). -/
def handRotors (t : Tray) (s : State) : State :=
  (List.finRange 4).foldl (fun u r => handSettled .fanRotorFail (rotorNumber t r) u) s

/-- FAN_TRAY_ABSENT of a tray is handed if it changed (R60). -/
def handTray (t : Tray) (s : State) : State := handSettled .fanTrayAbsent (t.val + 1) s

/-- A tray's presence rise; its rotor positions are fixed by the speeds that follow (R57; log 21). -/
def trayRise (t : Tray) (maximum : Nat) (s : State) : State :=
  recomputeDuty <| handTray t <|
    modTray t
      (fun r =>
        { r with maximum := some (max 2000 (min 20000 maximum)), settle := timeAfter s.time 2000 }) s

/-- A tray's presence loss (R57, R60). -/
def trayLoss (t : Tray) (s : State) : State :=
  recomputeDuty <| coolingNotice <| handTray t <| handRotors t <|
    modTray t (fun r => { r with maximum := none, rotors := Vector.replicate 4 RotorRec.bare }) s

/-- Apply `f` to a rotor record. -/
def modRotor (t : Tray) (r : Rotor) (f : RotorRec → RotorRec) (s : State) : State :=
  modTray t (fun x => { x with rotors := updAt x.rotors r f }) s

/-- A rotor position fixed from the speed read in the pass of its tray's rise; none is UNREAD (R57). -/
def fixRotor (speed : Option Nat) : RotorRec :=
  match speed with
  | some v => ⟨if v = 65535 then .notFitted else .good, v, 0, 0⟩
  | none => ⟨.good, 0, 0, 0⟩

/-- A speed read in the pass of the tray's rise; after rotor 4 the notice is handed (R57, R61). -/
def rotorAtRise (t : Tray) (r : Rotor) (speed : Option Nat) (s : State) : State :=
  let s1 := modRotor t r (fun _ => fixRotor speed) s
  if r.val = 3 then recomputeDuty (coolingNotice (handRotors t s1)) else s1

/-- A rotor judged by a speed at or after the settle deadline (R58, R59). -/
def judgeRotor (maximum duty speed : Nat) (r : RotorRec) : RotorRec :=
  let low := 2 * speed < expectedSpeed maximum duty
  match r.fit with
  | .good =>
    if low then
      if r.low + 1 = 3 then ⟨.failed, speed, 0, 0⟩ else { r with measured := speed, low := r.low + 1 }
    else { r with measured := speed, low := 0 }
  | .failed =>
    if low then { r with measured := speed, goodRun := 0 }
    else if r.goodRun + 1 = 10 then ⟨.good, speed, 0, 0⟩
    else { r with measured := speed, goodRun := r.goodRun + 1 }
  | .notFitted | .none => { r with measured := speed }

/-- A rotor record after a speed handed over: before the settle deadline it is stored and not judged
(R58, R59). -/
def rotorAfter (c : Cooling) (now : Time) (t : Tray) (r : Rotor) (speed : Nat) : RotorRec :=
  let x := c.trays.get t
  let old := x.rotors.get r
  match x.maximum with
  | none => old
  | some m =>
    if reached now x.settle then judgeRotor m c.duty speed old else { old with measured := speed }

/-- A speed handed over for a rotor; none is UNREAD and changes nothing (R59). -/
def rotorSpeed (t : Tray) (r : Rotor) (speed : Option Nat) (s : State) : State :=
  match speed with
  | none => s
  | some v =>
    let old := (s.cool.trays.get t).rotors.get r
    let new := rotorAfter s.cool s.time t r v
    let s1 := modRotor t r (fun _ => new) s
    if new.fit = old.fit then s1
    else recomputeDuty (coolingNotice (handSettled .fanRotorFail (rotorNumber t r) s1))

/-! ### Completion of a pass (R62, R63) -/

/-- The rows of the classes whose occurrences are withheld until the Cooling Controller has settled:
classes 1, 2, 4 to 8, 10 and 11 (R62, R87, R88), ascending. -/
def withheldRows : List (AlarmClass × Nat) :=
  ([.psuFault, .psuInputLost, .fanRotorFail, .fanTrayAbsent, .tempWarn, .tempCrit, .sensorLost,
    .budgetTight, .slotFault] : List AlarmClass).flatMap fun c => (numbersTo c.count).map fun n => (c, n)

/-- The settled flag becomes YES, and every withheld condition that is true is raised (R62; log 29). -/
def settle (s : State) : State :=
  withheldRows.foldl (fun t x => handCondition x.1 x.2 t)
    (s.modCool fun c => { c with settled := true })

/-- The Cooling Controller's part of a pass completion (R62, R63). -/
def coolingPass (s : State) : State :=
  let s1 := s.modCool fun c => { c with passes := min 3 (c.passes + 1) }
  recomputeDuty (if s1.cool.passes = 3 ∧ s1.cool.settled = false then settle s1 else s1)

end Sys2Proof.Machine
end

