-- ==== Sys2Proof/Machine/Bus.lean ====
section
/-! DEFINITION. The Line Bus Controller: transactions and their outcomes, the arbiter, held fields and
maintenance access (02_the_chassis_line_bus.md; layouts of 09, R195). -/

namespace Sys2Proof.Machine

/-! ### Transactions on the wire (R29, R30, R195) -/

/-- The low `n` bits of a number, most significant first. -/
def bitsHigh (n v : Nat) : List Bool := (List.range n).map fun i => v.testBit (n - 1 - i)

/-- The low `n` bits of data, the bit of the lowest line first. -/
def bitsLow (n : Nat) (d : BitVec 16) : List Bool := (List.range n).map d.getLsbD

/-- The number of lines of a transaction. -/
def Txn.lines : Txn → Nat
  | .set _ | .clear _ | .test _ => 1
  | .read _ n => n
  | .write _ n _ => n

/-- The first line of a transaction. -/
def Txn.first : Txn → Nat
  | .set l | .clear l | .test l => l
  | .read l _ => l
  | .write l _ _ => l

/-- The bits of a FIELD that its parity covers before the data: address, count (0 for 16), direction. -/
def fieldHead (first count : Nat) (write : Bool) : List Bool :=
  bitsHigh 12 first ++ bitsHigh 4 (count % 16) ++ [write]

/-- The parity bit: with it the bits hold an odd number of 1s (R31, R195). -/
def oddParity (bs : List Bool) : Bool := bs.countP id % 2 = 0

/-- The bits that the part sends after the start condition, up to where the expander answers (R195). -/
def Txn.bits : Txn → List Bool
  | .set l => [false] ++ bitsHigh 12 l ++ [false, true]
  | .clear l => [false] ++ bitsHigh 12 l ++ [true, false]
  | .test l => [false] ++ bitsHigh 12 l ++ [true, true]
  | .read l n => [true] ++ fieldHead l n false
  | .write l n d =>
    [true] ++ fieldHead l n true ++ bitsLow n d ++ [oddParity (fieldHead l n true ++ bitsLow n d)]

/-- Whether the transaction addresses the lines that no expander presents, 2944 to 3071; every line of a
transaction lies in the range of its first (R27, R30, R32). -/
def Txn.unpopulated (t : Txn) : Bool := 2944 ≤ t.first && t.first < 3072

/-- Whether the transaction would drive a SENSE line of the line map (R28). -/
def Txn.drivesSense : Txn → Bool
  | .set l | .clear l => lineMark l = some .sense
  | .write l n _ => (List.range n).any fun k => lineMark (l + k) = some .sense
  | .test _ | .read _ _ => false

/-! ### Outcomes (R29, R31, R32) -/

/-- The bit of an answer at a place; the bus rests at 1 (log 8). -/
def answerBit (bs : List Bool) (k : Nat) : Bool := bs.getD k true

/-- How one transfer ends: not answered, a parity failure, or good with its data. -/
inductive Transfer where
  | unanswered
  | bad
  | good (data : BitVec 16)
  deriving DecidableEq, Repr

/-- One transfer that an expander answers with these bits: a NAK or a parity mismatch is a parity failure
(R31); a SINGLE carries no parity (R29). -/
def transferAnswered (t : Txn) (bs : List Bool) : Transfer :=
  match t with
  | .set _ | .clear _ => .good 0
  | .test _ => .good (packBits [answerBit bs 0])
  | .write _ _ _ => if answerBit bs 0 then .good 0 else .bad
  | .read l n =>
    let data := (List.range n).map (answerBit bs)
    if answerBit bs n = oddParity (fieldHead l n false ++ data) then .good (packBits data) else .bad

/-- One transfer with the answer that comes to it: nobody answers at an unpopulated line (R32). -/
def transfer (t : Txn) (a : Answer) : Transfer :=
  if t.unpopulated then .unanswered
  else
    match a with
    | .silent => .unanswered
    | .bits bs => transferAnswered t bs

/-- How a transaction ends: a first parity failure is repeated once within the same grant (R31); what
a repeat that nobody answers ends as is a free value (log 7). -/
def busEnd (t : Txn) (first again : Answer) : BusEnd :=
  match transfer t first with
  | .unanswered => .noResponse
  | .good d => .done d
  | .bad =>
    match transfer t again with
    | .good d => .done d
    | .bad => .parity
    | .unanswered => if Config.silentRepeatIsParity then .parity else .noResponse

/-! ### The lines that the part has driven (R29, R30; log 25) -/

/-- Insert a line in an ascending list. -/
def insertLine (l : Nat) : List Nat → List Nat
  | [] => [l]
  | m :: ms => if l < m then l :: m :: ms else if l = m then m :: ms else m :: insertLine l ms

/-- Drive one line to a level. -/
def driveLine (l : Nat) (level : Bool) (ms : List Nat) : List Nat :=
  if level then insertLine l ms else ms.filter fun m => m ≠ l

/-- The lines after a transaction that ended DONE. -/
def driveTxn (t : Txn) (ms : List Nat) : List Nat :=
  match t with
  | .set l => driveLine l true ms
  | .clear l => driveLine l false ms
  | .write l n d => (List.range n).foldl (fun xs k => driveLine (l + k) (d.getLsbD k) xs) ms
  | .test _ | .read _ _ => ms

/-- Whether the expander returns the line to 0 itself: the strobe and the slot activate lines (R149,
R155). -/
def Owner.returns : Owner → Bool
  | .strobe | .slotActivate _ _ => true
  | _ => false

/-! ### Held fields (R28, R34, R42, R95) -/

/-- Code of the alarm LED mode: 0 off, 1 steady, 2 blinking (R28). -/
def LedMode.code : LedMode → Nat
  | .off => 0
  | .steady => 1
  | .blinking => 2

/-- The indicator field: LED mode on its two lowest lines, then the authority LEDs (R28). -/
def indicatorValue (s : State) : BitVec 16 :=
  BitVec.ofNat 16
    (s.alarm.led.code + 4 * (s.isHolder .a).toNat + 8 * (s.isHolder .b).toNat)

/-- The code that the class field carries for a port: 0 while it is not GRANTED or does not exist
(R28, R95). -/
def classCode (s : State) (p : Port) : Nat :=
  if s.portExists p then
    match grantOf s.lic p with
    | some g => g.cls.code
    | none => 0
  else 0

/-- Two lines for each port, the lower line carrying the lower bit (R28). -/
def classValue (s : State) (i : Slot) (q : Fin 4) : BitVec 16 :=
  packBits ((List.range 8).flatMap fun m =>
    let c := classCode s (portOf i (Fin.ofNat 32 (8 * q.val + m)))
    [c.testBit 0, c.testBit 1])

/-- One line for each ENABLED local port (R28, R84). -/
def enableValue (s : State) (i : Slot) (h : Fin 2) : BitVec 16 :=
  packBits ((List.range 16).map fun m =>
    let p := portOf i (Fin.ofNat 32 (16 * h.val + m))
    s.portExists p && (s.power.ports.get p).isEnabled)

/-- The owner's value of a held field (R28, R65, R78, R84, R95). -/
def heldValue (s : State) : HeldField → BitVec 16
  | .indicator => indicatorValue s
  | .powerEnable i => if (s.slotRec i).power.drawing then 1 else 0
  | .portEnable i h => enableValue s i h
  | .portClass i q => classValue s i q
  | .duty _ => BitVec.ofNat 16 s.cool.duty

/-- The write of a held field with the owner's value now; the power enable is a SINGLE (R34, R42). -/
def heldTxn (s : State) (f : HeldField) : Txn :=
  match f with
  | .powerEnable _ => if heldValue s f = 0 then .clear f.first else .set f.first
  | _ => .write f.first f.width (heldValue s f)

/-- Whether the FRU of a held field is reported PRESENT; the midplane is taken as present (R34). -/
def fieldPresent (b : Bus) : HeldField → Bool
  | .indicator => true
  | .powerEnable i => (b.slotSeen.get i).present
  | .portEnable i _ => (b.slotSeen.get i).present
  | .portClass i _ => (b.slotSeen.get i).present
  | .duty t => (b.traySeen.get t).present

/-! ### The arbiter (R33 to R36) -/

/-- An entry of class 1 has a transaction unless its FRU is not PRESENT (R34). -/
def Class1.due (b : Bus) : Class1 → Bool
  | .held f => fieldPresent b f
  | _ => true

/-- The first entry of class 1 that has a transaction, and the entries after it; entries before it
leave the set at their turn (R34). -/
def nextClass1 (b : Bus) : List Class1 → Option (Class1 × List Class1)
  | [] => none
  | e :: es => if e.due b then some (e, es) else nextClass1 b es

/-- The transaction of a class 1 entry, formed at its grant (R34, R149, R155). -/
def class1Grant (s : State) : Class1 → OnBus
  | .held f => ⟨.held f, heldTxn s f⟩
  | .activateField => ⟨.activateField, .write 144 16 (pendingGeneration s.zone)⟩
  | .strobe => ⟨.strobe, .set 160⟩
  | .slotActivate i => ⟨.slotActivate i false, .set (slotLine i 209)⟩

/-- The rotor speed field of a rotor (R28). -/
def rotorLine (t : Tray) (r : Rotor) : Nat := trayLine t (16 + 16 * r.val)

/-- The identity reads of a slot, in order: card kind, base draw, port count (R28, R40). -/
def slotIdentityTxn (i : Slot) (k : Nat) : Txn :=
  match k with
  | 0 => .read (slotLine i 2) 8
  | 1 => .read (slotLine i 10) 10
  | _ => .read (slotLine i 20) 6

/-- The identity reads of a supply: rated output, input kind (R28, R40). -/
def bayIdentityTxn (b : Bay) (k : Nat) : Txn :=
  match k with
  | 0 => .read (bayLine b 16) 16
  | _ => .read (bayLine b 32) 1

/-- The transaction of an entry of the scan list; a rewrite takes its value at its grant (R38, R42). -/
def scanStepTxn (s : State) : ScanStep → Txn
  | .sensor w => .read (72 + 9 * w.val) 9
  | .slotLines i _ => .read (slotLine i 0) 2
  | .slotIdentity i _ got => slotIdentityTxn i got.length
  | .slotAck i => .read (slotLine i 32) 16
  | .bayLines b => .read (bayLine b 0) 3
  | .bayIdentity b _ _ got => bayIdentityTxn b got.length
  | .trayLine t => .test (trayLine t 0)
  | .trayIdentity t => .read (trayLine t 80) 16
  | .rotor t r _ => .read (rotorLine t r) 16
  | .rewrite f _ => heldTxn s f

/-- The transaction that the scan engine waits with (R38, R198). -/
def scanGrant (s : State) : Option OnBus :=
  match s.bus.scan with
  | .idle => none
  | .serial got _ => some ⟨.serial, .read (16 * got.length) 16⟩
  | .pass st => some ⟨.scan, scanStepTxn s st⟩

/-- The maintenance transaction that goes first: the holder's, otherwise the first that joined (R36). -/
def pickMaint (s : State) (ms : List (Cp × Txn)) : Option (Cp × Txn) :=
  match ms.find? fun m => s.isHolder m.1 with
  | some m => some m
  | none => ms.head?

/-- A transaction is put on the bus, with the distribution grant count after it (R35). -/
def putOnBus (t : OnBus) (grants : Nat) (s : State) : State :=
  s.modBus fun b => { b with current := some t, grants := grants }

/-- The grant of class 4. -/
def grantScan (s : State) : State :=
  match scanGrant s with
  | none => s.modBus fun b => { b with class4 := false }
  | some t => putOnBus t 0 (s.modBus fun b => { b with class4 := false })

/-- The grant of classes 3 and 4. -/
def grantLow (s : State) : State :=
  match pickMaint s s.bus.class3 with
  | some m =>
    putOnBus ⟨.maint m.1, m.2⟩ 0
      (s.modBus fun b => { b with class3 := b.class3.filter fun x => x ≠ m })
  | none => if s.bus.class4 then grantScan s else s

/-- The grant by class on a free bus (R33). -/
def grantByClass (s : State) : State :=
  match nextClass1 s.bus s.bus.class1 with
  | some (e, es) => putOnBus (class1Grant s e) 0 (s.modBus fun b => { b with class1 := es })
  | none =>
    let s1 := s.modBus fun b => { b with class1 := [] }
    match s1.bus.class2 with
    | some w =>
      putOnBus ⟨.loading w.slot false, w.txn⟩ (min 16 (s1.bus.grants + 1))
        (s1.modBus fun b => { b with class2 := none })
    | none => grantLow s1

/-- The arbiter: when the bus is free and a transaction waits, one is granted; with the count at 16 a
waiting scan transaction goes ahead of every class (R33, R35). -/
def arbitrate (s : State) : State :=
  if s.bus.current.isSome then s
  else if s.bus.grants = 16 ∧ s.bus.class4 = true ∧ (scanGrant s).isSome = true then grantScan s
  else grantByClass s

/-! ### The end of a transaction -/

/-- Whether LINE_BUS_ERROR is raised for a transaction that ends PARITY: for every requester but the
midplane activation write (R31). -/
def Owner.counted : Owner → Bool
  | .activateField => false
  | _ => true

/-- The transaction on the bus ends: the lines it drove, the free bus, and LINE_BUS_ERROR where it ends
PARITY (R31). -/
def freeBus (t : OnBus) (e : BusEnd) (s : State) : State :=
  let s1 := s.modBus fun b =>
    { b with
      current := none
      driven :=
        match e with
        | .done _ => if t.owner.returns then b.driven else driveTxn t.txn b.driven
        | _ => b.driven }
  if e = .parity ∧ t.owner.counted = true then occurEvent .lineBusError 1 false s1 else s1

/-! ### Maintenance requests (R43 to R47) -/

/-- The two maintenance fields. -/
def encMaint (b : Bus) : List Byte :=
  u16 b.maint.a.base ++ u16 b.maint.a.length ++ u16 b.maint.b.base ++ u16 b.maint.b.length

/-- SET MAINTENANCE FIELD (R44). -/
def setMaintenanceField (target : Byte) (base length : BitVec 16) (s : State) : State × Took :=
  match cpOf target with
  | none => (s, .reply .badParam (encMaint s.bus))
  | some c =>
    if base.toNat < 3072 ∨ 4095 < base.toNat ∨ 1024 < length.toNat
        ∨ 4096 < base.toNat + length.toNat then (s, .reply .badParam (encMaint s.bus))
    else
      let t := s.modBus fun b => { b with maint := b.maint.put c ⟨base.toNat, length.toNat⟩ }
      (t, .reply .done (encMaint t.bus))

/-- A maintenance transaction joins class 3 and its request waits for its end (R33, R188). -/
def joinMaint (c : Cp) (kind : MaintKind) (t : Txn) (s : State) : State × Took :=
  (s.modBus fun b => { b with class3 := b.class3 ++ [(c, t)] },
    .waits (.lineBus kind t.first t.lines))

/-- A line-bus request of one line, relative to the requester's field (R45). -/
def maintLine (c : Cp) (kind : MaintKind) (txn : Nat → Txn) (line : BitVec 16) (s : State) :
    State × Took :=
  let f := s.bus.maint.get c
  if f.length ≤ line.toNat then (s, .reply .bounds [])
  else joinMaint c kind (txn (f.base + line.toNat)) s

/-- A line-bus request of a field, relative to the requester's field (R46). -/
def maintRange (c : Cp) (kind : MaintKind) (txn : Nat → Nat → Txn) (first : BitVec 16)
    (count : Byte) (s : State) : State × Took :=
  let f := s.bus.maint.get c
  let n := linesOf count.toNat
  if 16 < count.toNat then (s, .reply .badParam [])
  else if f.length < first.toNat + n then (s, .reply .bounds [])
  else joinMaint c kind (txn (f.base + first.toNat) n) s

/-- SENSE READ (R47). -/
def senseRead (c : Cp) (first : BitVec 16) (count : Byte) (s : State) : State × Took :=
  let n := linesOf count.toNat
  if 3071 < first.toNat ∨ 16 < count.toNat then (s, .reply .badParam [])
  else if fieldFits first.toNat n then joinMaint c .senseRead (.read first.toNat n) s
  else (s, .reply .bounds [])

/-- The outcome code of a transaction. -/
def BusEnd.outcome : BusEnd → OutcomeCode
  | .done _ => .done
  | .noResponse => .noResponse
  | .parity => .parity

/-- The data that a transaction that ended DONE read. -/
def BusEnd.data : BusEnd → Option (BitVec 16)
  | .done d => some d
  | _ => none

/-- The results of a line-bus request: the lines, and with DONE the data read (R45 to R47, R192). -/
def lineBusResults (kind : MaintKind) (first count : Nat) (e : BusEnd) : List Byte :=
  let read (enc : BitVec 16 → List Byte) : List Byte :=
    match e.data with
    | some d => enc d
    | none => []
  match kind with
  | .test => u16 first ++ read fun d => u8 d.toNat
  | .set | .clear => u16 first
  | .fieldRead => u16 first ++ u8 count ++ read fun d => u16 d.toNat
  | .fieldWrite => u16 first ++ u8 count
  | .senseRead => read fun d => u16 d.toNat

end Sys2Proof.Machine
end

