-- ==== Sys2Proof/Machine/Scan.lean ====
section
/-! DEFINITION. The scan: marks, passes, debounce, identity reads, the rewrite, pass completion (02, R37
to R42), and the reading of the chassis serial (10, R198). -/

namespace Sys2Proof.Machine

/-! ### Debounce (R39) -/

/-- What a presence reading leads to: nothing, the FRU is PRESENT and read 1, a loss to report, or a
rise that is due (R39, R40). -/
inductive Verdict where
  | nothing
  | present
  | loss
  | riseDue
  deriving DecidableEq, Repr

/-- A presence reading applied to a debounce record; none is no reading. A rise that is due flips the
record only when every identity read ends DONE (R39, R40). -/
def Debounce.take (reading : Option Bool) (d : Debounce) : Debounce × Verdict :=
  match reading with
  | none => (d, .nothing)
  | some v =>
    if v = d.present then ({ d with differing := false }, if v then .present else .nothing)
    else if d.differing then if v then (d, .riseDue) else (⟨false, false⟩, .loss)
    else ({ d with differing := true }, .nothing)

/-- The presence reading that the end of a presence read gives, with the presence line lowest (R39). -/
def readingOf (e : BusEnd) : Option Bool :=
  match e with
  | .done d => some (d.getLsbD 0)
  | .noResponse => some false
  | .parity => none

/-- Line `k` of what a read returned; false when it returned nothing. -/
def lineOf (e : BusEnd) (k : Nat) : Bool :=
  match e with
  | .done d => d.getLsbD k
  | _ => false

/-- The debounce record after a rise is reported. -/
def risen : Debounce := ⟨true, false⟩

/-- Replace the debounce record of a slot. -/
def putSlotSeen (i : Slot) (d : Debounce) (s : State) : State :=
  s.modBus fun b => { b with slotSeen := updAt b.slotSeen i fun _ => d }

/-- Replace the debounce record of a supply bay. -/
def putBaySeen (i : Bay) (d : Debounce) (s : State) : State :=
  s.modBus fun b => { b with baySeen := updAt b.baySeen i fun _ => d }

/-- Replace the debounce record of a fan tray. -/
def putTraySeen (t : Tray) (d : Debounce) (s : State) : State :=
  s.modBus fun b => { b with traySeen := updAt b.traySeen t fun _ => d }

/-! ### Moving through the scan list (R38) -/

/-- The next entry of the pass is requested in class 4. -/
def scanTo (st : ScanStep) (s : State) : State :=
  s.modBus fun b => { b with scan := .pass st, class4 := true }

/-- A pass starts (R37, R38). -/
def startPass (s : State) : State := scanTo (.sensor 0) s

/-- An attempt to read the chassis serial begins; a pass follows it (R198). -/
def startAttempt (s : State) : State :=
  s.modBus fun b => { b with scan := .serial [] true, class4 := true }

/-- A pass is due: while the serial is UNREAD an attempt is made ahead of it (R37, R198). -/
def startScan (s : State) : State := if s.serial.isNone then startAttempt s else startPass s

/-- A pass or an attempt has ended with nothing owed: a set start-pending flag is cleared and a pass is
due, otherwise the engine is IDLE (R37); `go` is how the pass starts. -/
def endScan (go : State → State) (s : State) : State :=
  if s.bus.startPending then go (s.modBus fun b => { b with startPending := false })
  else s.modBus fun b => { b with scan := .idle }

/-- The held fields that the rewrite writes (R42): of each PRESENT slot, then of each PRESENT tray, then the
indicator field. R42 gives the order within a slot alone; the order among the FRUs is the model's choice
(log 36). -/
def rewriteList (b : Bus) : List HeldField :=
  (allSlots.filter fun i => (b.slotSeen.get i).present).flatMap
      (fun i =>
        [.powerEnable i, .portEnable i 0, .portEnable i 1, .portClass i 0, .portClass i 1,
          .portClass i 2, .portClass i 3])
    ++ ((List.finRange 3).filter fun t => (b.traySeen.get t).present).map HeldField.duty
    ++ [.indicator]

/-- A pass completes: it is reported to the Cooling Controller and to the Distribution Engine (R41,
R62, R63, R145), and the next pass starts if one is pending (R37). That the Cooling Controller takes it first is
the model's choice (log 17). -/
def completePass (s : State) : State := endScan startScan (judgeAckDeadlines (coolingPass s))

/-- The rewrite goes on with the fields that remain (R42). -/
def rewriteFrom (fs : List HeldField) (s : State) : State :=
  match fs with
  | [] => completePass s
  | f :: rest => scanTo (.rewrite f rest) s

/-- The entry after a tray. -/
def afterTray (t : Tray) (s : State) : State :=
  if h : t.val + 1 < 3 then scanTo (.trayLine ⟨t.val + 1, h⟩) s else rewriteFrom (rewriteList s.bus) s

/-- The entry after a supply bay. -/
def afterBay (b : Bay) (s : State) : State :=
  if h : b.val + 1 < 4 then scanTo (.bayLines ⟨b.val + 1, h⟩) s else scanTo (.trayLine 0) s

/-- Whether the Distribution Engine waits for a slot's acknowledgement (R142, R145, R155). -/
def awaits (s : State) (i : Slot) : Bool := (s.zone.slots.get i).ackDeadline.isSome

/-- The pass reaches a slot: with the request of its presence read it is fixed whether the pass reads its
ACK field (R38; log 19). -/
def reachSlot (i : Slot) (s : State) : State := scanTo (.slotLines i (awaits s i)) s

/-- The entry after a slot. -/
def afterSlot (i : Slot) (s : State) : State :=
  if h : i.val + 1 < 8 then reachSlot ⟨i.val + 1, h⟩ s else scanTo (.bayLines 0) s

/-- The entry after a slot's presence and identity reads: the ACK field, if it was awaited when the pass
reached the slot (R38). -/
def afterSlotReads (i : Slot) (awaited : Bool) (s : State) : State :=
  if awaited then scanTo (.slotAck i) s else afterSlot i s

/-! ### Readings (R38 to R41) -/

/-- The end of an inlet sensor read (R41, R54, R55). -/
def sensorEnded (w : Fin 2) (e : BusEnd) (s : State) : State :=
  let reading : SensorReading :=
    match e with
    | .done d => some ((d.setWidth 8).toInt, d.getLsbD 8)
    | _ => none
  let t := sensorReading w reading s
  if w = 0 then scanTo (.sensor 1) t else reachSlot 0 (updateTIn t)

/-- The end of a slot's presence and power-good read. -/
def slotLinesEnded (i : Slot) (awaited : Bool) (e : BusEnd) (s : State) : State :=
  let r := (s.bus.slotSeen.get i).take (readingOf e)
  let t := putSlotSeen i r.1 s
  match r.2 with
  | .nothing => afterSlotReads i awaited t
  | .present => afterSlotReads i awaited (powerGood i (lineOf e 1) t)
  | .loss => afterSlotReads i awaited (slotLoss i t)
  | .riseDue => scanTo (.slotIdentity i awaited []) t

/-- The end of an identity read of a slot; after the third the rise is reported if all ended DONE (R40).
The power-good value of the pass of a rise has no effect, even where the rise admits the slot (R79). -/
def slotIdentityEnded (i : Slot) (awaited : Bool) (got : List (Option (BitVec 16))) (e : BusEnd)
    (s : State) : State :=
  match got with
  | [kind, base] =>
    match kind, base, e.data with
    | some k, some b, some n =>
      afterSlotReads i awaited <|
        slotRise i (cardRead (k.setWidth 8) b.toNat n.toNat) (putSlotSeen i risen s)
    | _, _, _ => afterSlotReads i awaited s
  | _ => scanTo (.slotIdentity i awaited (got ++ [e.data])) s

/-- The end of an ACK field read; a failed one hands over no value (R41). -/
def slotAckEnded (i : Slot) (e : BusEnd) (s : State) : State :=
  match e with
  | .done d => afterSlot i (ackValue i d s)
  | _ => afterSlot i s

/-- The end of a bay's presence, input-ok and output-ok read. -/
def bayLinesEnded (b : Bay) (e : BusEnd) (s : State) : State :=
  let r := (s.bus.baySeen.get b).take (readingOf e)
  let t := putBaySeen b r.1 s
  match r.2 with
  | .nothing => afterBay b t
  | .present => afterBay b (supplyLines b (lineOf e 1) (lineOf e 2) t)
  | .loss => afterBay b (supplyLoss b t)
  | .riseDue => scanTo (.bayIdentity b (lineOf e 1) (lineOf e 2) []) t

/-- The end of an identity read of a supply (R40, R49). -/
def bayIdentityEnded (b : Bay) (inputOk outputOk : Bool) (got : List (Option (BitVec 16)))
    (e : BusEnd) (s : State) : State :=
  match got with
  | [rated] =>
    match rated, e.data with
    | some r, some k =>
      afterBay b <|
        supplyRise b r.toNat (if k.getLsbD 0 then .highLine else .lowLine) inputOk outputOk
          (putBaySeen b risen s)
    | _, _ => afterBay b s
  | _ => scanTo (.bayIdentity b inputOk outputOk (got ++ [e.data])) s

/-- The end of a tray's presence test; the rotor speeds are read when the tray is PRESENT and read 1
(R38). -/
def trayLineEnded (t : Tray) (e : BusEnd) (s : State) : State :=
  let r := (s.bus.traySeen.get t).take (readingOf e)
  let u := putTraySeen t r.1 s
  match r.2 with
  | .nothing => afterTray t u
  | .present => scanTo (.rotor t 0 false) u
  | .loss => afterTray t (trayLoss t u)
  | .riseDue => scanTo (.trayIdentity t) u

/-- The end of a tray's rotor maximum read (R40, R57). -/
def trayIdentityEnded (t : Tray) (e : BusEnd) (s : State) : State :=
  match e with
  | .done d => scanTo (.rotor t 0 true) (trayRise t d.toNat (putTraySeen t risen s))
  | _ => afterTray t s

/-- The end of a rotor speed read; a failed one is UNREAD (R41). -/
def rotorEnded (t : Tray) (r : Rotor) (rise : Bool) (e : BusEnd) (s : State) : State :=
  let speed := e.data.map BitVec.toNat
  let u := if rise then rotorAtRise t r speed s else rotorSpeed t r speed s
  if h : r.val + 1 < 4 then scanTo (.rotor t ⟨r.val + 1, h⟩ rise) u else afterTray t u

/-- A scan transaction of a pass has ended. -/
def scanStepEnded (st : ScanStep) (e : BusEnd) (s : State) : State :=
  match st with
  | .sensor w => sensorEnded w e s
  | .slotLines i awaited => slotLinesEnded i awaited e s
  | .slotIdentity i awaited got => slotIdentityEnded i awaited got e s
  | .slotAck i => slotAckEnded i e s
  | .bayLines b => bayLinesEnded b e s
  | .bayIdentity b inputOk outputOk got => bayIdentityEnded b inputOk outputOk got e s
  | .trayLine t => trayLineEnded t e s
  | .trayIdentity t => trayIdentityEnded t e s
  | .rotor t r rise => rotorEnded t r rise e s
  | .rewrite _ rest => rewriteFrom rest s

/-- A scan transaction has ended. -/
def scanEnded (e : BusEnd) (s : State) : State :=
  match s.bus.scan with
  | .pass st => scanStepEnded st e s
  | _ => s

/-! ### The chassis serial (R198) -/

/-- The serial of four pieces, least significant first. -/
def serialOf (ps : List (BitVec 16)) : BitVec 64 :=
  BitVec.ofNat 64 (ps.foldr (fun p n => n * 65536 + p.toNat) 0)

/-- An attempt has ended: the pass that it was made ahead of starts, or a pending one. A start-pending flag
that a mark set within an attempt made ahead of a pass stays set for the pass after that one (log 41). -/
def endAttempt (owed : Bool) (s : State) : State :=
  if owed then startPass s else endScan startPass s

/-- A read of the serial field has ended (R198). -/
def serialEnded (e : BusEnd) (s : State) : State :=
  match s.bus.scan with
  | .serial got owed =>
    match e with
    | .done d =>
      let ps := got ++ [d]
      if ps.length = 4 then endAttempt owed { s with serial := some (serialOf ps) }
      else s.modBus fun b => { b with scan := .serial ps owed, class4 := true }
    | _ => endAttempt owed s
  | _ => s

/-! ### Scan marks (R37) -/

/-- Whether the chassis time is a scan mark that has not been taken: a whole multiple of 20 ms, from 20
onward. After the wrap of the count the first mark is 20 (log 2). -/
def markDue (s : State) : Bool := s.time ≠ 0 && s.time.toNat % 20 = 0 && s.lastMark ≠ s.time

/-- A scan mark that is due is taken (R37). -/
def takeMark (s : State) : State :=
  if markDue s then
    let t : State := { s with lastMark := s.time }
    match s.bus.scan with
    | .idle => startScan t
    | _ => t.modBus fun b => { b with startPending := true }
  else s

end Sys2Proof.Machine
end

