-- ==== Sys2Proof/Machine/Link.lean ====
section
/-! DEFINITION. Supervisor link ports: frames, the request queue, taking and judging requests, responses
and link DOWN (09_supervisor_links.md). -/

namespace Sys2Proof.Machine

/-! ### Requests of the Supervisor Link Ports (R190, R191) -/

/-- READ TIME (R190). -/
def readTime (s : State) : State × Took := (s, .reply .done (encTime s.time))

/-- READ IDENTITY (R191). -/
def readIdentity (c : Cp) (s : State) : State × Took :=
  (s, .reply .done
    (u16 0x7140 ++ u8 0x01 ++ encCp c ++ opt (fun v : BitVec 64 => be 8 v.toNat) s.serial
      ++ u16 s.straps.period.ms ++ encTakeover s.straps.takeover ++ encPolicy s.straps.policy
      ++ encZoning s.straps.zoning))

/-- A request that passed the checks of the port passes to the block that owns it (R185 step 4). -/
def serveRequest (c : Cp) (r : Request) (s : State) : State × Took :=
  match r with
  | .claimAuthority epoch => claimAuthority c epoch s
  | .yieldAuthority => yieldAuthority c s
  | .takeOver epoch => takeOver c epoch s
  | .readAuthority => readAuthority s
  | .adoptDeparted => adoptDeparted c s
  | .discardDeparted => discardDeparted s
  | .writeHandover first count words => writeHandover c first count words s
  | .readHandover target first count => readHandover target first count s
  | .setMaintenanceField target base length => setMaintenanceField target base length s
  | .maintTest line => maintLine c .test .test line s
  | .maintSet line => maintLine c .set .set line s
  | .maintClear line => maintLine c .clear .clear line s
  | .maintFieldRead first count => maintRange c .fieldRead .read first count s
  | .maintFieldWrite first count data =>
    maintRange c .fieldWrite (fun l n => .write l n data) first count s
  | .senseRead first count => senseRead c first count s
  | .readSupply => readSupply s
  | .readTray tray => readTray tray s
  | .readTemperature => readTemperature s
  | .setReservePolicy policy => setReservePolicy policy s
  | .slotPower slot action => slotPower slot action s
  | .setShedPriority slot priority => setShedPriority slot priority s
  | .readBudget => readBudget s
  | .readSlot slot => readSlot slot s
  | .installEntitlement e => installEntitlement e s
  | .removeEntitlement id => removeEntitlement id s
  | .portAdmin group mask action cls => portAdmin group mask action cls s
  | .readPortGroup group => readPortGroup group s
  | .readPool => readPool s
  | .readGrantList position => readGrantList position s
  | .readWaitQueue position => readWaitQueue position s
  | .readEntitlements => readEntitlements s
  | .beginZoneEdit mode => beginZoneEdit c mode s
  | .cancelZoneEdit => cancelZoneEdit s
  | .createZone zone kind => createZone zone kind s
  | .deleteZone zone => deleteZone zone s
  | .addMember zone port principal => addMember zone port principal s
  | .removeMember zone port => removeMember zone port s
  | .readZone level zone position => readZone level zone position s
  | .commitZones hold => commitZones hold s
  | .activateZones => activateZones s
  | .retryDistribution => retryDistribution s
  | .abortDistribution => abortDistribution s
  | .queryReach p q => queryReach p q s
  | .readZoneStatus => readZoneStatus s
  | .fetchNotice => fetchNotice c s
  | .retireNotice => retireNotice c s
  | .setAlarmMask flags => setAlarmMask c flags s
  | .setAlarmLevel cls level => setAlarmLevel cls level s
  | .setAlarmRoute cls route => setAlarmRoute cls route s
  | .injectAlarm cls number => injectAlarm cls number s
  | .withdrawInjection cls number => withdrawInjection cls number s
  | .readAlarm cls number => readAlarm cls number s
  | .releaseHistoryHalf half => releaseHistoryHalf half s
  | .readHistory half first count => readHistory half first count s
  | .readTime => readTime s
  | .readIdentity => readIdentity c s

/-! ### Taking requests (R16, R185, R187) -/

/-- A request taken from the queue is judged, in the order of R185: SILENT, unknown code or wrong
parameter length, not the holder, and then by its block. -/
def judgeRequest (c : Cp) (f : Frame) (s : State) : State × Took :=
  if s.auth.presence.get c = .silent then (s, .reply .silent [])
  else
    match Request.parse f.code f.params with
    | none => (s, .reply .badParam [])
    | some r =>
      if r.holderOnly && !s.isHolder c then (s, .reply .notHolder []) else serveRequest c r s

/-- A response to a frame. -/
def responseTo (f : Frame) (outcome : OutcomeCode) (results : List Byte) : Response :=
  ⟨f.tag, f.code, outcome, results⟩

/-- A response is placed last in the port's response order (R187). -/
def placeResponse (c : Cp) (r : Response) (s : State) : State :=
  s.modLink c fun p => { p with waiting := p.waiting ++ [r] }

/-- A response that leaves ahead of the response order (R187). -/
def placeImmediate (c : Cp) (r : Response) (s : State) : State :=
  s.modLink c fun p => { p with immediate := p.immediate ++ [r] }

/-- A request is in execution until it completes (R187, R188). -/
def hold (c : Cp) (f : Frame) (phase : Phase) (s : State) : State :=
  s.modLink c fun p => { p with current := some ⟨f.tag, f.code, phase, false⟩ }

/-- What becomes of a request that has been judged: it completes, its response is leaving, or it takes
time (R187, R188). -/
def settleRequest (c : Cp) (f : Frame) (r : State × Took) : State :=
  match r.2 with
  | .reply o bs => placeResponse c (responseTo f o bs) r.1
  | .transfer o bs => hold c f .transfer (placeResponse c (responseTo f o bs) r.1)
  | .waits phase => hold c f phase r.1

/-- The head of the queue is taken while no request is in execution (R187), over at most `n` requests. -/
def takeRequests (c : Cp) : Nat → State → State
  | 0, s => s
  | n + 1, s =>
    if (s.link.get c).current.isSome then s
    else
      match (s.link.get c).queue with
      | [] => s
      | f :: rest =>
        let s1 := s.modLink c fun p => { p with queue := rest }
        takeRequests c n (settleRequest c f (judgeRequest c f s1))

/-- The port takes requests from its queue (R187). -/
def serveQueue (c : Cp) (s : State) : State := takeRequests c (s.link.get c).queue.length s

/-- The request in execution completes: its response is placed unless it is to be dropped, and the next
request is taken (R187, R189). -/
def completeRequest (c : Cp) (outcome : OutcomeCode) (results : List Byte) (s : State) : State :=
  match (s.link.get c).current with
  | none => s
  | some e =>
    let s1 := s.modLink c fun p => { p with current := none }
    serveQueue c (if e.dropped then s1 else placeResponse c ⟨e.tag, e.code, outcome, results⟩ s1)

/-! ### Frames (R184 to R186) -/

/-- The link comes UP at a good frame if it is DOWN, before the frame is handled (R2, R184); a good
frame sets the bad-frame count to 0. -/
def linkUp (c : Cp) (s : State) : State :=
  if (s.link.get c).up then s.modLink c fun p => { p with badFrames := 0 }
  else presenceUp c (s.modLink c fun p => { p with up := true, badFrames := 0 })

/-- A HEARTBEAT frame (R3, R185). -/
def heartbeatFrame (c : Cp) (f : Frame) (s : State) : State :=
  if f.params.isEmpty then
    let t := takeHeartbeat c s
    placeImmediate c (responseTo f .done (heartbeatResults c (s.auth.presence.get c) t)) t
  else placeImmediate c (responseTo f .badParam []) s

/-- Any other frame: it is queued and requests are taken, or it is answered QUEUE_FULL at once (R185,
R186). -/
def requestFrame (c : Cp) (f : Frame) (s : State) : State :=
  if 4 ≤ (s.link.get c).queue.length then placeImmediate c (responseTo f .queueFull []) s
  else serveQueue c (s.modLink c fun p => { p with queue := p.queue ++ [f] })

/-- A good frame on a link; while the reset line is asserted it is ignored (R184, R185). -/
def handleFrame (c : Cp) (f : Frame) (s : State) : State :=
  if (s.link.get c).resetHeld then s
  else if f.code = heartbeatCode then heartbeatFrame c f (linkUp c s)
  else requestFrame c f (linkUp c s)

/-- The port's part of a link DOWN (R189 step 1; log 22). -/
def LinkPort.down (p : LinkPort) : LinkPort :=
  { p with
    up := false
    badFrames := 0
    queue := []
    current := p.current.map fun e => { e with dropped := true }
    leaving := none
    immediate := []
    waiting := [] }

/-- A link goes DOWN (R184, R189). -/
def linkDown (c : Cp) (s : State) : State := presenceDown c (s.modLink c LinkPort.down)

/-- A bad frame (R184). -/
def handleBadFrame (c : Cp) (s : State) : State :=
  let p := s.link.get c
  if p.resetHeld || !p.up then s
  else if p.badFrames + 1 = 8 then linkDown c s
  else s.modLink c fun q => { q with badFrames := q.badFrames + 1 }

/-- One frame arrives, good or bad (R184). -/
def frameArrived (c : Cp) (frame : Option Frame) (s : State) : State :=
  match frame with
  | some f => handleFrame c f s
  | none => handleBadFrame c s

/-- Bytes arrive: each frame they bring is handled before the next, the arbiter after each as after a
command (R184, R193; logs 1, 5). -/
def handleBytes (c : Cp) (bytes : List Byte) (s : State) : State :=
  (received bytes).foldl (fun t frame => arbitrate (frameArrived c frame t)) s

/-- A request arrives under a tag (log 1). -/
def sendRequest (c : Cp) (tag : BitVec 4) (r : Request) (s : State) : State :=
  handleFrame c (r.frame tag) s

/-! ### Link reset lines (R184) -/

/-- The card asserts its link reset line. -/
def assertReset (c : Cp) (s : State) : State :=
  let s1 := s.modLink c fun p => { p with resetHeld := true }
  if (s.link.get c).up then linkDown c s1 else s1

/-- The card releases its link reset line. -/
def releaseReset (c : Cp) (s : State) : State :=
  s.modLink c fun p => { p with resetHeld := false }

/-! ### Responses leave (R187, R188; log 23) -/

/-- The last byte of the response of a data-transfer read has left: with it, the responses that leave
ahead of it. -/
def LinkPort.transferred (p : LinkPort) : LinkPort :=
  if p.waiting.isEmpty then { p with leaving := none }
  else { p with leaving := none, immediate := [], waiting := [] }

/-- A data-transfer read completes (R188). -/
def completeTransfer (c : Cp) (s : State) : State :=
  match (s.link.get c).current with
  | some ⟨_, _, .transfer, dropped⟩ =>
    serveQueue c
      (s.modLink c fun p => { (if dropped then p else p.transferred) with current := none })
  | _ => s

/-- Whether the frame that is leaving is the response of a data-transfer read, which ends by its own
command. -/
def LinkPort.transferLeaving (p : LinkPort) : Bool :=
  match p.current with
  | some ⟨_, _, .transfer, false⟩ => p.waiting.isEmpty
  | _ => false

/-- The frame that is leaving has left, and the next begins: an immediate one first (R187). -/
def LinkPort.advance (p : LinkPort) : LinkPort :=
  if !p.up || p.transferLeaving then p
  else
    match p.immediate, p.waiting with
    | r :: rs, _ => { p with leaving := some r, immediate := rs }
    | [], r :: rs => { p with leaving := some r, waiting := rs }
    | [], [] => { p with leaving := none }

/-- The bytes that the port sends: the frame that is leaving, or idle bytes of 0x00 with nothing to send
(R193). -/
def LinkPort.sends (p : LinkPort) : List Byte :=
  match p.leaving with
  | some r => r.bytes
  | none => [0x00]

end Sys2Proof.Machine
end

