-- ==== Sys2Proof/Machine/Commands.lean ====
section
/-! DEFINITION. The answer of every command, and the commands of start-up, the links, authority and the
bus: one definition for each row of the table. -/

namespace Sys2Proof.Machine

/-- A command ends: the arbiter grants the bus if it is free (R33; log 5), and the next state is
answered. -/
def finish (s : State) : Result := .next (arbitrate s)

/-- A request row: the good frame of the request arrives on the CP's link (log 1). -/
def request (c : Cp) (tag : BitVec 4) (r : Request) (s : State) : Result :=
  finish (sendRequest c tag r s)

/-- A transaction of an owner on the bus ends with an expander's answers: the bus is freed, and then
`act` takes its outcome; nothing happens while no such transaction is on the bus (log 3). That LINE_BUS_ERROR
of a PARITY outcome is taken ahead of an occurrence that `act` gives, such as ZONE_DIST_FAIL or SENSOR_LOST,
is the model's choice (log 17). -/
def endOf (mine : Owner → Bool) (first again : Answer) (act : OnBus → BusEnd → State → State)
    (s : State) : Result :=
  match s.bus.current with
  | none => .next s
  | some t =>
    if mine t.owner then
      let e := busEnd t.txn first again
      finish (act t e (freeBus t e s))
    else .next s

/-! ### Start-up (R197, R198) -/

/-- POWER_ON_RESET (R197): every record takes its power-on value; the queue of commands and the levels
of the link reset lines come from outside (log 26). -/
def execPowerOnReset (lines : BitVec 6) (s : State) : Result :=
  .next ((State.powerOn lines ⟨s.link.a.resetHeld, s.link.b.resetHeld⟩).setPending s.pending)

/-- SERIAL_READ_END (R198). -/
def execSerialReadEnd (first again : Answer) (s : State) : Result :=
  endOf (fun o => o = .serial) first again (fun _ e t => serialEnded e t) s

/-! ### Links (R184 to R189) -/

/-- GOOD_FRAME (R185): the bytes that the link carries; idle bytes are no frame, and what is not a good
frame is a bad one (R184, R193). -/
def execGoodFrame (c : Cp) (bytes : List Byte) (s : State) : Result := finish (handleBytes c bytes s)

/-- BAD_FRAME (R184). -/
def execBadFrame (c : Cp) (s : State) : Result := finish (handleBadFrame c s)

/-- LINK_RESET_ASSERT (R184). -/
def execLinkResetAssert (c : Cp) (s : State) : Result := finish (assertReset c s)

/-- LINK_RESET_RELEASE (R184). -/
def execLinkResetRelease (c : Cp) (s : State) : Result := finish (releaseReset c s)

/-- DATA_TRANSFER_READ_COMPLETE (R188). -/
def execDataTransferReadComplete (c : Cp) (s : State) : Result := finish (completeTransfer c s)

/-- HEARTBEAT (R3). -/
def execHeartbeat (c : Cp) (tag : BitVec 4) (s : State) : Result :=
  finish (handleFrame c ⟨tag, heartbeatCode, []⟩ s)

/-- READ_TIME (R190). -/
def execReadTime (c : Cp) (tag : BitVec 4) (s : State) : Result := request c tag .readTime s

/-- READ_IDENTITY (R191). -/
def execReadIdentity (c : Cp) (tag : BitVec 4) (s : State) : Result := request c tag .readIdentity s

/-! ### Authority (01) -/

/-- PEER_DEADLINE_EXPIRY (R4). -/
def execPeerDeadlineExpiry (c : Cp) (s : State) : Result := finish (peerExpiry c s)

/-- HEARTBEAT_EXPIRY (R10). -/
def execHeartbeatExpiry (s : State) : Result := finish (holderExpiry s)

/-- CLAIM_AUTHORITY (R12). -/
def execClaimAuthority (c : Cp) (tag : BitVec 4) (epoch : BitVec 32) (s : State) : Result :=
  request c tag (.claimAuthority epoch) s

/-- YIELD_AUTHORITY (R13). -/
def execYieldAuthority (c : Cp) (tag : BitVec 4) (s : State) : Result := request c tag .yieldAuthority s

/-- TAKE_OVER (R14). -/
def execTakeOver (c : Cp) (tag : BitVec 4) (epoch : BitVec 32) (s : State) : Result :=
  request c tag (.takeOver epoch) s

/-- READ_AUTHORITY (R15). -/
def execReadAuthority (c : Cp) (tag : BitVec 4) (s : State) : Result := request c tag .readAuthority s

/-- ADOPT_DEPARTED (R20). -/
def execAdoptDeparted (c : Cp) (tag : BitVec 4) (s : State) : Result := request c tag .adoptDeparted s

/-- DISCARD_DEPARTED (R21). -/
def execDiscardDeparted (c : Cp) (tag : BitVec 4) (s : State) : Result :=
  request c tag .discardDeparted s

/-- WRITE_HANDOVER (R24). -/
def execWriteHandover (c : Cp) (tag : BitVec 4) (first count : Byte) (words : List (BitVec 32))
    (s : State) : Result :=
  request c tag (.writeHandover first count words) s

/-- READ_HANDOVER (R25). -/
def execReadHandover (c : Cp) (tag : BitVec 4) (target first count : Byte) (s : State) : Result :=
  request c tag (.readHandover target first count) s

/-! ### Line bus (02) -/

/-- SET_MAINTENANCE_FIELD (R44). -/
def execSetMaintenanceField (c : Cp) (tag : BitVec 4) (target : Byte) (base length : BitVec 16)
    (s : State) : Result :=
  request c tag (.setMaintenanceField target base length) s

/-- MAINT_TEST (R45). -/
def execMaintTest (c : Cp) (tag : BitVec 4) (line : BitVec 16) (s : State) : Result :=
  request c tag (.maintTest line) s

/-- MAINT_SET (R45). -/
def execMaintSet (c : Cp) (tag : BitVec 4) (line : BitVec 16) (s : State) : Result :=
  request c tag (.maintSet line) s

/-- MAINT_CLEAR (R45). -/
def execMaintClear (c : Cp) (tag : BitVec 4) (line : BitVec 16) (s : State) : Result :=
  request c tag (.maintClear line) s

/-- MAINT_FIELD_READ (R46). -/
def execMaintFieldRead (c : Cp) (tag : BitVec 4) (first : BitVec 16) (count : Byte) (s : State) :
    Result :=
  request c tag (.maintFieldRead first count) s

/-- MAINT_FIELD_WRITE (R46). -/
def execMaintFieldWrite (c : Cp) (tag : BitVec 4) (first : BitVec 16) (count : Byte)
    (data : BitVec 16) (s : State) : Result :=
  request c tag (.maintFieldWrite first count data) s

/-- SENSE_READ (R47). -/
def execSenseRead (c : Cp) (tag : BitVec 4) (first : BitVec 16) (count : Byte) (s : State) : Result :=
  request c tag (.senseRead first count) s

/-- Whether an owner is a maintenance request. -/
def Owner.isMaint : Owner → Bool
  | .maint _ => true
  | _ => false

/-- The request of a maintenance transaction completes with its outcome (R45 to R47, R188). -/
def maintEnded (t : OnBus) (e : BusEnd) (s : State) : State :=
  match t.owner with
  | .maint c =>
    match (s.link.get c).current with
    | some ⟨_, _, .lineBus kind first count, _⟩ =>
      completeRequest c e.outcome (lineBusResults kind first count e) s
    | _ => s
  | _ => s

/-- MAINT_TRANSACTION_END (R45). -/
def execMaintTransactionEnd (first again : Answer) (s : State) : Result :=
  endOf Owner.isMaint first again maintEnded s

/-- SCAN_MARK (R37). -/
def execScanMark (s : State) : Result := finish (takeMark s)

/-- SCAN_TRANSACTION_END (R38). -/
def execScanTransactionEnd (first again : Answer) (s : State) : Result :=
  endOf (fun o => o = .scan) first again (fun _ e t => scanEnded e t) s

/-- Whether an owner is a held-field write. -/
def Owner.isHeld : Owner → Bool
  | .held _ => true
  | _ => false

/-- HELD_FIELD_WRITE_END (R34): the outcome changes nothing in the owner's records. -/
def execHeldFieldWriteEnd (first again : Answer) (s : State) : Result :=
  endOf Owner.isHeld first again (fun _ _ t => t) s

/-! ### Distribution on the bus (07) -/

/-- Whether an owner is a loading write. -/
def Owner.isLoading : Owner → Bool
  | .loading _ _ => true
  | _ => false

/-- Whether an owner is a slot activate pulse. -/
def Owner.isPulse : Owner → Bool
  | .slotActivate _ _ => true
  | _ => false

/-- Whether the outcome of an owner's transaction is ignored. -/
def Owner.isIgnored : Owner → Bool
  | .loading _ ignored => ignored
  | .slotActivate _ ignored => ignored
  | _ => false

/-- LOADING_WRITE_END (R144, R155). -/
def execLoadingWriteEnd (first again : Answer) (s : State) : Result :=
  endOf Owner.isLoading first again (fun t e u => loadingEnded t.owner.isIgnored e u) s

/-- ACTIVATE_FIELD_WRITE_END (R149). -/
def execActivateFieldWriteEnd (first again : Answer) (s : State) : Result :=
  endOf (fun o => o = .activateField) first again (fun _ e u => activateFieldEnded e u) s

/-- ACTIVATION_STROBE_END (R149, R150); a SINGLE is not repeated. -/
def execActivationStrobeEnd (answer : Answer) (s : State) : Result :=
  endOf (fun o => o = .strobe) answer answer (fun _ e u => strobeEnded e u) s

/-- The slot of a pulse has its outcome. -/
def pulseOf (t : OnBus) (e : BusEnd) (s : State) : State :=
  match t.owner with
  | .slotActivate i ignored => pulseEnded i ignored e s
  | _ => s

/-- SLOT_ACTIVATE_PULSE_END (R155); a SINGLE is not repeated. -/
def execSlotActivatePulseEnd (answer : Answer) (s : State) : Result :=
  endOf Owner.isPulse answer answer pulseOf s

/-- ACK_TIMEOUT (R145, R155; log 31). -/
def execAckTimeout (i : Slot) (s : State) : Result := finish (judgeAckDeadline i s)

/-! ### The Reach Engine (R141) -/

/-- COMMIT_COMPUTATION_COMPLETE (R141): the response is sent on the owner's link. -/
def execCommitComputationComplete (s : State) : Result :=
  let r := completeCommit s
  match r.2 with
  | none => .next s
  | some (c, results) => finish (completeRequest c .done results r.1)

end Sys2Proof.Machine
end

