-- ==== Sys2Proof/Machine/ChassisCommands.lean ====
section
/-! DEFINITION. The commands of supplies, fans, temperature, the power budget and port licensing: one
definition for each row of the table. -/

namespace Sys2Proof.Machine

/-- READ_SUPPLY (R66). -/
def execReadSupply (c : Cp) (tag : BitVec 4) (s : State) : Result := request c tag .readSupply s

/-- READ_TRAY (R67). -/
def execReadTray (c : Cp) (tag : BitVec 4) (tray : Byte) (s : State) : Result :=
  request c tag (.readTray tray) s

/-- READ_TEMPERATURE (R68). -/
def execReadTemperature (c : Cp) (tag : BitVec 4) (s : State) : Result :=
  request c tag .readTemperature s

/-- SET_RESERVE_POLICY (R89). -/
def execSetReservePolicy (c : Cp) (tag : BitVec 4) (policy : Byte) (s : State) : Result :=
  request c tag (.setReservePolicy policy) s

/-- SLOT_POWER (R90). -/
def execSlotPower (c : Cp) (tag : BitVec 4) (slot action : Byte) (s : State) : Result :=
  request c tag (.slotPower slot action) s

/-- SET_SHED_PRIORITY (R91). -/
def execSetShedPriority (c : Cp) (tag : BitVec 4) (slot priority : Byte) (s : State) : Result :=
  request c tag (.setShedPriority slot priority) s

/-- READ_BUDGET (R92). -/
def execReadBudget (c : Cp) (tag : BitVec 4) (s : State) : Result := request c tag .readBudget s

/-- READ_SLOT (R93). -/
def execReadSlot (c : Cp) (tag : BitVec 4) (slot : Byte) (s : State) : Result :=
  request c tag (.readSlot slot) s

/-- POWER_GOOD_DEADLINE_EXPIRY (R81). -/
def execPowerGoodDeadlineExpiry (i : Slot) (s : State) : Result := finish (powerGoodExpiry i s)

/-- INSTALL_ENTITLEMENT (R99). -/
def execInstallEntitlement (c : Cp) (tag : BitVec 4) (id : BitVec 32) (units : BitVec 16)
    (ceiling flags : Byte) (serial : BitVec 64) (check : BitVec 32) (s : State) : Result :=
  request c tag (.installEntitlement ⟨id, units, ceiling, flags, serial, check⟩) s

/-- REMOVE_ENTITLEMENT (R105). -/
def execRemoveEntitlement (c : Cp) (tag : BitVec 4) (id : BitVec 32) (s : State) : Result :=
  request c tag (.removeEntitlement id) s

/-- PORT_ADMIN (R109). -/
def execPortAdmin (c : Cp) (tag : BitVec 4) (group mask action cls : Byte) (s : State) : Result :=
  request c tag (.portAdmin group mask action cls) s

/-- READ_PORT_GROUP (R116). -/
def execReadPortGroup (c : Cp) (tag : BitVec 4) (group : Byte) (s : State) : Result :=
  request c tag (.readPortGroup group) s

/-- READ_POOL (R117). -/
def execReadPool (c : Cp) (tag : BitVec 4) (s : State) : Result := request c tag .readPool s

/-- READ_GRANT_LIST (R118). -/
def execReadGrantList (c : Cp) (tag : BitVec 4) (position : BitVec 16) (s : State) : Result :=
  request c tag (.readGrantList position) s

/-- READ_WAIT_QUEUE (R118). -/
def execReadWaitQueue (c : Cp) (tag : BitVec 4) (position : BitVec 16) (s : State) : Result :=
  request c tag (.readWaitQueue position) s

/-- READ_ENTITLEMENTS (R119). -/
def execReadEntitlements (c : Cp) (tag : BitVec 4) (s : State) : Result :=
  request c tag .readEntitlements s

end Sys2Proof.Machine
end

