-- ==== Sys2Proof/Machine/ZoneCommands.lean ====
section
/-! DEFINITION. The commands of zones, distribution, alarms and the history ring: one definition for
each row of the table. -/

namespace Sys2Proof.Machine

/-- BEGIN_ZONE_EDIT (R126). -/
def execBeginZoneEdit (c : Cp) (tag : BitVec 4) (mode : Byte) (s : State) : Result :=
  request c tag (.beginZoneEdit mode) s

/-- CANCEL_ZONE_EDIT (R127). -/
def execCancelZoneEdit (c : Cp) (tag : BitVec 4) (s : State) : Result := request c tag .cancelZoneEdit s

/-- CREATE_ZONE (R128). -/
def execCreateZone (c : Cp) (tag : BitVec 4) (zone : BitVec 16) (kind : Byte) (s : State) : Result :=
  request c tag (.createZone zone kind) s

/-- DELETE_ZONE (R129). -/
def execDeleteZone (c : Cp) (tag : BitVec 4) (zone : BitVec 16) (s : State) : Result :=
  request c tag (.deleteZone zone) s

/-- ADD_MEMBER (R130). -/
def execAddMember (c : Cp) (tag : BitVec 4) (zone port : BitVec 16) (principal : Byte) (s : State) :
    Result :=
  request c tag (.addMember zone port principal) s

/-- REMOVE_MEMBER (R131). -/
def execRemoveMember (c : Cp) (tag : BitVec 4) (zone port : BitVec 16) (s : State) : Result :=
  request c tag (.removeMember zone port) s

/-- READ_ZONE (R136). -/
def execReadZone (c : Cp) (tag : BitVec 4) (level : Byte) (zone : BitVec 16) (position : Byte)
    (s : State) : Result :=
  request c tag (.readZone level zone position) s

/-- COMMIT_ZONES (R139). -/
def execCommitZones (c : Cp) (tag : BitVec 4) (hold : Byte) (s : State) : Result :=
  request c tag (.commitZones hold) s

/-- ACTIVATE_ZONES (R148). -/
def execActivateZones (c : Cp) (tag : BitVec 4) (s : State) : Result := request c tag .activateZones s

/-- RETRY_DISTRIBUTION (R151). -/
def execRetryDistribution (c : Cp) (tag : BitVec 4) (s : State) : Result :=
  request c tag .retryDistribution s

/-- ABORT_DISTRIBUTION (R152). -/
def execAbortDistribution (c : Cp) (tag : BitVec 4) (s : State) : Result :=
  request c tag .abortDistribution s

/-- QUERY_REACH (R157). -/
def execQueryReach (c : Cp) (tag : BitVec 4) (p q : BitVec 16) (s : State) : Result :=
  request c tag (.queryReach p q) s

/-- READ_ZONE_STATUS (R158). -/
def execReadZoneStatus (c : Cp) (tag : BitVec 4) (s : State) : Result :=
  request c tag .readZoneStatus s

/-- FETCH_NOTICE (R169). -/
def execFetchNotice (c : Cp) (tag : BitVec 4) (s : State) : Result := request c tag .fetchNotice s

/-- RETIRE_NOTICE (R170). -/
def execRetireNotice (c : Cp) (tag : BitVec 4) (s : State) : Result := request c tag .retireNotice s

/-- SET_ALARM_MASK (R171). -/
def execSetAlarmMask (c : Cp) (tag : BitVec 4) (flags : Vector Byte 20) (s : State) : Result :=
  request c tag (.setAlarmMask flags) s

/-- SET_ALARM_LEVEL (R172). -/
def execSetAlarmLevel (c : Cp) (tag : BitVec 4) (cls level : Byte) (s : State) : Result :=
  request c tag (.setAlarmLevel cls level) s

/-- SET_ALARM_ROUTE (R173). -/
def execSetAlarmRoute (c : Cp) (tag : BitVec 4) (cls route : Byte) (s : State) : Result :=
  request c tag (.setAlarmRoute cls route) s

/-- INJECT_ALARM (R174). -/
def execInjectAlarm (c : Cp) (tag : BitVec 4) (cls : Byte) (number : BitVec 16) (s : State) : Result :=
  request c tag (.injectAlarm cls number) s

/-- WITHDRAW_INJECTION (R175). -/
def execWithdrawInjection (c : Cp) (tag : BitVec 4) (cls : Byte) (number : BitVec 16) (s : State) :
    Result :=
  request c tag (.withdrawInjection cls number) s

/-- READ_ALARM (R181). -/
def execReadAlarm (c : Cp) (tag : BitVec 4) (cls : Byte) (number : BitVec 16) (s : State) : Result :=
  request c tag (.readAlarm cls number) s

/-- RELEASE_HISTORY_HALF (R179). -/
def execReleaseHistoryHalf (c : Cp) (tag : BitVec 4) (half : Byte) (s : State) : Result :=
  request c tag (.releaseHistoryHalf half) s

/-- READ_HISTORY (R180). -/
def execReadHistory (c : Cp) (tag : BitVec 4) (half first count : Byte) (s : State) : Result :=
  request c tag (.readHistory half first count) s

end Sys2Proof.Machine
end

