-- ==== Sys2Proof/Machine/Dispatch.lean ====
section
/-! DEFINITION. The meaning of every command: one arm for each constructor of `Instr`. -/

namespace Sys2Proof.Machine

/-- The effect of a command on everything but the queue. -/
def exec (i : Instr) (s : State) : Host.Outcome State Fault Refusal :=
  match i with
  | .powerOnReset lines => Sys2Proof.Machine.execPowerOnReset lines s
  | .goodFrame cp bytes => Sys2Proof.Machine.execGoodFrame cp bytes s
  | .badFrame cp => Sys2Proof.Machine.execBadFrame cp s
  | .linkResetAssert cp => Sys2Proof.Machine.execLinkResetAssert cp s
  | .heartbeat cp tag => Sys2Proof.Machine.execHeartbeat cp tag s
  | .peerDeadlineExpiry cp => Sys2Proof.Machine.execPeerDeadlineExpiry cp s
  | .heartbeatExpiry => Sys2Proof.Machine.execHeartbeatExpiry s
  | .claimAuthority cp tag epoch => Sys2Proof.Machine.execClaimAuthority cp tag epoch s
  | .yieldAuthority cp tag => Sys2Proof.Machine.execYieldAuthority cp tag s
  | .takeOver cp tag epoch => Sys2Proof.Machine.execTakeOver cp tag epoch s
  | .readAuthority cp tag => Sys2Proof.Machine.execReadAuthority cp tag s
  | .adoptDeparted cp tag => Sys2Proof.Machine.execAdoptDeparted cp tag s
  | .discardDeparted cp tag => Sys2Proof.Machine.execDiscardDeparted cp tag s
  | .writeHandover cp tag first count words => Sys2Proof.Machine.execWriteHandover cp tag first count words s
  | .readHandover cp tag target first count => Sys2Proof.Machine.execReadHandover cp tag target first count s
  | .setMaintenanceField cp tag target base length => Sys2Proof.Machine.execSetMaintenanceField cp tag target base length s
  | .maintTest cp tag line => Sys2Proof.Machine.execMaintTest cp tag line s
  | .maintSet cp tag line => Sys2Proof.Machine.execMaintSet cp tag line s
  | .maintClear cp tag line => Sys2Proof.Machine.execMaintClear cp tag line s
  | .maintFieldRead cp tag first count => Sys2Proof.Machine.execMaintFieldRead cp tag first count s
  | .maintFieldWrite cp tag first count data => Sys2Proof.Machine.execMaintFieldWrite cp tag first count data s
  | .senseRead cp tag first count => Sys2Proof.Machine.execSenseRead cp tag first count s
  | .maintTransactionEnd first again => Sys2Proof.Machine.execMaintTransactionEnd first again s
  | .readSupply cp tag => Sys2Proof.Machine.execReadSupply cp tag s
  | .readTray cp tag tray => Sys2Proof.Machine.execReadTray cp tag tray s
  | .readTemperature cp tag => Sys2Proof.Machine.execReadTemperature cp tag s
  | .setReservePolicy cp tag policy => Sys2Proof.Machine.execSetReservePolicy cp tag policy s
  | .slotPower cp tag slot action => Sys2Proof.Machine.execSlotPower cp tag slot action s
  | .setShedPriority cp tag slot priority => Sys2Proof.Machine.execSetShedPriority cp tag slot priority s
  | .readBudget cp tag => Sys2Proof.Machine.execReadBudget cp tag s
  | .readSlot cp tag slot => Sys2Proof.Machine.execReadSlot cp tag slot s
  | .installEntitlement cp tag id units ceiling flags serial check => Sys2Proof.Machine.execInstallEntitlement cp tag id units ceiling flags serial check s
  | .removeEntitlement cp tag id => Sys2Proof.Machine.execRemoveEntitlement cp tag id s
  | .portAdmin cp tag group mask action cls => Sys2Proof.Machine.execPortAdmin cp tag group mask action cls s
  | .readPortGroup cp tag group => Sys2Proof.Machine.execReadPortGroup cp tag group s
  | .readPool cp tag => Sys2Proof.Machine.execReadPool cp tag s
  | .readGrantList cp tag position => Sys2Proof.Machine.execReadGrantList cp tag position s
  | .readWaitQueue cp tag position => Sys2Proof.Machine.execReadWaitQueue cp tag position s
  | .readEntitlements cp tag => Sys2Proof.Machine.execReadEntitlements cp tag s
  | .dataTransferReadComplete cp => Sys2Proof.Machine.execDataTransferReadComplete cp s
  | .beginZoneEdit cp tag mode => Sys2Proof.Machine.execBeginZoneEdit cp tag mode s
  | .cancelZoneEdit cp tag => Sys2Proof.Machine.execCancelZoneEdit cp tag s
  | .createZone cp tag zone kind => Sys2Proof.Machine.execCreateZone cp tag zone kind s
  | .deleteZone cp tag zone => Sys2Proof.Machine.execDeleteZone cp tag zone s
  | .addMember cp tag zone port principal => Sys2Proof.Machine.execAddMember cp tag zone port principal s
  | .removeMember cp tag zone port => Sys2Proof.Machine.execRemoveMember cp tag zone port s
  | .readZone cp tag level zone position => Sys2Proof.Machine.execReadZone cp tag level zone position s
  | .commitZones cp tag hold => Sys2Proof.Machine.execCommitZones cp tag hold s
  | .commitComputationComplete => Sys2Proof.Machine.execCommitComputationComplete s
  | .loadingWriteEnd first again => Sys2Proof.Machine.execLoadingWriteEnd first again s
  | .ackTimeout slot => Sys2Proof.Machine.execAckTimeout slot s
  | .activateFieldWriteEnd first again => Sys2Proof.Machine.execActivateFieldWriteEnd first again s
  | .activationStrobeEnd answer => Sys2Proof.Machine.execActivationStrobeEnd answer s
  | .activateZones cp tag => Sys2Proof.Machine.execActivateZones cp tag s
  | .retryDistribution cp tag => Sys2Proof.Machine.execRetryDistribution cp tag s
  | .abortDistribution cp tag => Sys2Proof.Machine.execAbortDistribution cp tag s
  | .slotActivatePulseEnd answer => Sys2Proof.Machine.execSlotActivatePulseEnd answer s
  | .queryReach cp tag p q => Sys2Proof.Machine.execQueryReach cp tag p q s
  | .readZoneStatus cp tag => Sys2Proof.Machine.execReadZoneStatus cp tag s
  | .fetchNotice cp tag => Sys2Proof.Machine.execFetchNotice cp tag s
  | .retireNotice cp tag => Sys2Proof.Machine.execRetireNotice cp tag s
  | .setAlarmMask cp tag flags => Sys2Proof.Machine.execSetAlarmMask cp tag flags s
  | .setAlarmLevel cp tag cls level => Sys2Proof.Machine.execSetAlarmLevel cp tag cls level s
  | .setAlarmRoute cp tag cls route => Sys2Proof.Machine.execSetAlarmRoute cp tag cls route s
  | .injectAlarm cp tag cls number => Sys2Proof.Machine.execInjectAlarm cp tag cls number s
  | .withdrawInjection cp tag cls number => Sys2Proof.Machine.execWithdrawInjection cp tag cls number s
  | .readAlarm cp tag cls number => Sys2Proof.Machine.execReadAlarm cp tag cls number s
  | .releaseHistoryHalf cp tag half => Sys2Proof.Machine.execReleaseHistoryHalf cp tag half s
  | .readHistory cp tag half first count => Sys2Proof.Machine.execReadHistory cp tag half first count s
  | .readTime cp tag => Sys2Proof.Machine.execReadTime cp tag s
  | .readIdentity cp tag => Sys2Proof.Machine.execReadIdentity cp tag s
  | .scanMark => Sys2Proof.Machine.execScanMark s
  | .scanTransactionEnd first again => Sys2Proof.Machine.execScanTransactionEnd first again s
  | .heldFieldWriteEnd first again => Sys2Proof.Machine.execHeldFieldWriteEnd first again s
  | .powerGoodDeadlineExpiry slot => Sys2Proof.Machine.execPowerGoodDeadlineExpiry slot s
  | .linkResetRelease cp => Sys2Proof.Machine.execLinkResetRelease cp s
  | .serialReadEnd first again => Sys2Proof.Machine.execSerialReadEnd first again s

end Sys2Proof.Machine
end

