-- ==== Sys2Proof/Machine/Tick.lean ====
section
/-! DEFINITION. What an idle queue brings: the events that are due at the chassis time, and then the next
millisecond, with a response frame that leaves each UP link (10, R199; logs 2, 23). -/

namespace Sys2Proof.Machine

/-- The expiry of a CP's deadline, if it is reached (R4, R10). -/
def duePresence (s : State) (c : Cp) : List Instr :=
  if deadlineReached c s then if s.isHolder c then [.heartbeatExpiry] else [.peerDeadlineExpiry c] else []

/-- The expiry of a slot's power-good deadline, if it is reached (R81). -/
def duePowerGood (s : State) (i : Slot) : List Instr :=
  match (s.slotRec i).power with
  | .powering d => if reached s.time d then [.powerGoodDeadlineExpiry i] else []
  | _ => []

/-- The events that are due at the chassis time, in a fixed order (log 2). -/
def due (s : State) : List Instr :=
  (if markDue s then [.scanMark] else []) ++ duePresence s .a ++ duePresence s .b
    ++ allSlots.flatMap (duePowerGood s)

/-- A response frame leaves each UP link (log 23). -/
def advanceLinks (s : State) : State :=
  (s.modLink .a LinkPort.advance).modLink .b LinkPort.advance

/-- An empty queue: the events that are due are put in it; with none due the time base rises by 1 (R199;
log 2). -/
def tick (s : State) : State :=
  match due s with
  | [] => (advanceLinks s).setTime (s.time + 1)
  | is => s.setPending is

end Sys2Proof.Machine
end

