-- ==== Sys2Proof/Machine/Step.lean ====
section
/-! DEFINITION. A step takes the command at the front of the queue; on an empty queue the
events that are due are put in it, or else one millisecond passes. -/

namespace Sys2Proof.Machine

/-- One step: the command at the front of the queue is executed with the queue's rest; on an empty queue
what is due is put in it, or the time base goes on (log 2). -/
def step (s : State) : Host.Outcome State Fault Refusal :=
  match s.pending with
  | [] => .next (tick s)
  | i :: is => exec i (s.setPending is)

/-- The command that a word of the table spells, put at the front of the queue; no word spells one
(log 30). -/
def State.withFetchWord (s : State) (nbits w : Nat) : State :=
  match decodeTableWord nbits w with
  | none => s
  | some i => s.setPending (i :: s.pending)

end Sys2Proof.Machine
end

