-- ==== Sys2Proof/WellFormed.lean ====
section
/-! DEFINITION. Which commands the outside can give: GOOD_FRAME brings one frame, good by R184, with idle
bytes around it or none (R193), the words of WRITE HANDOVER are as many as its count and fit in a frame
(R185, R193), and an expander's answer has at most its 16 data bits and the parity bit (R195). -/

namespace Sys2Proof

/-- An answer has at most 17 bits after the answer bit (R195). -/
def Answer.wellFormed : Answer → Bool
  | .silent => true
  | .bits bs => bs.length ≤ 17

/-- The words of WRITE HANDOVER are as many as the count (R185), and the frame's length byte, 2 more
than the parameters, is at most 255 (R193). -/
def handoverFits (count : Byte) (words : List (BitVec 32)) : Bool :=
  words.length = count.toNat && 2 + (2 + 4 * words.length) ≤ 255

/-- The bytes bring one frame and it is good (R184, R193). -/
def bringsGoodFrame (bytes : List Byte) : Bool :=
  match Machine.received bytes with
  | [some _] => true
  | _ => false

/-- Whether the outside can give the command. -/
def Instr.wellFormed : Instr → Bool
  | .goodFrame _ bytes => bringsGoodFrame bytes
  | .writeHandover _ _ _ count words => handoverFits count words
  | .maintTransactionEnd first again => first.wellFormed && again.wellFormed
  | .loadingWriteEnd first again => first.wellFormed && again.wellFormed
  | .activateFieldWriteEnd first again => first.wellFormed && again.wellFormed
  | .activationStrobeEnd answer => answer.wellFormed
  | .slotActivatePulseEnd answer => answer.wellFormed
  | .scanTransactionEnd first again => first.wellFormed && again.wellFormed
  | .heldFieldWriteEnd first again => first.wellFormed && again.wellFormed
  | .serialReadEnd first again => first.wellFormed && again.wellFormed
  | _ => true

end Sys2Proof
end

