-- ==== Sys2Proof/Safety.lean ====
section
/-! DEFINITION. The relations that every record of the part keeps: what the chapters say is always so. And
what the statements speak of: a CP whose request is taken at once, and what a port holds after one. -/

namespace Sys2Proof.Machine

/-! ### What is always so -/

/-- The two attention lines agree with the eligibility of the rows (R166). -/
def State.attentionAgrees (s : State) : Prop :=
  s.alarm.attn = ⟨attentionOf s .a, attentionOf s .b⟩

/-- No port holds more requests than its queue takes (R186). -/
def State.queuesBounded (s : State) : Prop :=
  s.link.a.queue.length ≤ 4 ∧ s.link.b.queue.length ≤ 4

/-- The distribution grant count stays in 0 to 16 (R35). -/
def State.grantsBounded (s : State) : Prop := s.bus.grants ≤ 16

/-- The commanded duty is 35 to 100, and not below 60 while authority is NONE (R64). -/
def State.fansKept (s : State) : Prop :=
  35 ≤ s.cool.duty ∧ s.cool.duty ≤ 100 ∧ (s.auth.holder = none → 60 ≤ s.cool.duty)

/-- No port stands twice across the grant list and the wait queue (R101), and the granted units do not
exceed the pool total (R100). -/
def License.consistent (l : License) : Prop :=
  (l.grants.map Grant.port ++ l.waiting).Nodup ∧ grantedUnits l ≤ poolTotal l

/-- A slot is reported PRESENT exactly while its card is recorded, and is EMPTY exactly while none is
(R78); a slot whose identity is being read is not yet reported PRESENT (R40). -/
def State.slotsAgree (s : State) : Prop :=
  ∀ i : Slot,
    (s.bus.slotSeen.get i).present = (s.slotRec i).card.isSome
    ∧ ((s.slotRec i).power = .empty ↔ (s.slotRec i).card = none)
    ∧ ∀ awaited got, s.bus.scan = .pass (.slotIdentity i awaited got) → (s.bus.slotSeen.get i).present = false

/-- A port that is ENABLED or HELD lies on a POWERED slot (R84). -/
def State.portsPowered (s : State) : Prop :=
  ∀ p : Port, s.power.ports.get p ≠ .off → s.isPowered (portSlot p) = true

/-- The slot and port records agree, shed priorities are 0 to 3 (R78), and the demand does not exceed
the available budget (R74). -/
def State.budgetKept (s : State) : Prop :=
  s.slotsAgree ∧ s.portsPowered ∧ (∀ i, (s.slotRec i).priority ≤ 3)
    ∧ demand s.power ≤ s.power.avail

/-- What R122 says of a zone: members in ascending order, at most 64, and the principals among them. -/
def Zone.inOrder (z : Zone) : Prop :=
  z.members.Pairwise (· < ·) ∧ z.members.length ≤ 64 ∧ z.principals.Pairwise (· < ·)
    ∧ ∀ p ∈ z.principals, p ∈ z.members

/-- What R122 says of a zone table: zones in ascending number, and at most 4096 member entries. -/
def ZoneTable.inOrder (t : ZoneTable) : Prop :=
  (t.map Zone.number).Pairwise (· < ·) ∧ (∀ z ∈ t, z.inOrder) ∧ entryCount t ≤ 4096

/-- The three levels keep R122; the pending and active levels hold no empty zone, and staging is empty
while the transaction is CLOSED (R120). -/
def State.zonesInOrder (s : State) : Prop :=
  ZoneTable.inOrder s.zone.staging ∧ (s.zone.txn = .closed → s.zone.staging = [])
    ∧ (∀ l, s.zone.pending = some l →
        ZoneTable.inOrder l.table ∧ ∀ z ∈ l.table, z.members ≠ [])
    ∧ ZoneTable.inOrder s.zone.active.table ∧ ∀ z ∈ s.zone.active.table, z.members ≠ []

/-! ### A request and its answer -/

/-- The CP's link is UP with its reset line released, no request is queued or in execution on it, and
the CP is not SILENT: a request that arrives is taken at once and passes the first check of R185. -/
structure Ready (c : Cp) (s : State) : Prop where
  up : (s.link.get c).up = true
  released : (s.link.get c).resetHeld = false
  idle : (s.link.get c).current = none
  empty : (s.link.get c).queue = []
  audible : s.auth.presence.get c ≠ .silent

/-- A good frame on an UP link: the bad-frame count is 0 (R184). -/
def State.heard (c : Cp) (s : State) : State := s.modLink c fun p => { p with badFrames := 0 }

/-- A response is placed last in the CP's response order (R187). -/
def State.answered (c : Cp) (tag : BitVec 4) (code : Byte) (outcome : OutcomeCode)
    (results : List Byte) (s : State) : State :=
  s.modLink c fun p => { p with waiting := p.waiting ++ [⟨tag, code, outcome, results⟩] }

/-- A response that leaves ahead of the response order (R187). -/
def State.answeredAtOnce (c : Cp) (tag : BitVec 4) (code : Byte) (outcome : OutcomeCode)
    (results : List Byte) (s : State) : State :=
  s.modLink c fun p => { p with immediate := p.immediate ++ [⟨tag, code, outcome, results⟩] }

/-- A request is in execution on the CP's link (R187, R188). -/
def State.inExecution (c : Cp) (tag : BitVec 4) (code : Byte) (phase : Phase) (s : State) : State :=
  s.modLink c fun p => { p with current := some ⟨tag, code, phase, false⟩ }

/-- The command by which a request arrives on a CP's link under a tag (log 1). -/
def Request.command (c : Cp) (tag : BitVec 4) : Request → Instr
  | .claimAuthority epoch => .claimAuthority c tag epoch
  | .yieldAuthority => .yieldAuthority c tag
  | .takeOver epoch => .takeOver c tag epoch
  | .readAuthority => .readAuthority c tag
  | .adoptDeparted => .adoptDeparted c tag
  | .discardDeparted => .discardDeparted c tag
  | .writeHandover first count words => .writeHandover c tag first count words
  | .readHandover target first count => .readHandover c tag target first count
  | .setMaintenanceField target base length => .setMaintenanceField c tag target base length
  | .maintTest line => .maintTest c tag line
  | .maintSet line => .maintSet c tag line
  | .maintClear line => .maintClear c tag line
  | .maintFieldRead first count => .maintFieldRead c tag first count
  | .maintFieldWrite first count data => .maintFieldWrite c tag first count data
  | .senseRead first count => .senseRead c tag first count
  | .readSupply => .readSupply c tag
  | .readTray tray => .readTray c tag tray
  | .readTemperature => .readTemperature c tag
  | .setReservePolicy policy => .setReservePolicy c tag policy
  | .slotPower slot action => .slotPower c tag slot action
  | .setShedPriority slot priority => .setShedPriority c tag slot priority
  | .readBudget => .readBudget c tag
  | .readSlot slot => .readSlot c tag slot
  | .installEntitlement e =>
    .installEntitlement c tag e.id e.units e.ceiling e.flags e.serial e.check
  | .removeEntitlement id => .removeEntitlement c tag id
  | .portAdmin group mask action cls => .portAdmin c tag group mask action cls
  | .readPortGroup group => .readPortGroup c tag group
  | .readPool => .readPool c tag
  | .readGrantList position => .readGrantList c tag position
  | .readWaitQueue position => .readWaitQueue c tag position
  | .readEntitlements => .readEntitlements c tag
  | .beginZoneEdit mode => .beginZoneEdit c tag mode
  | .cancelZoneEdit => .cancelZoneEdit c tag
  | .createZone zone kind => .createZone c tag zone kind
  | .deleteZone zone => .deleteZone c tag zone
  | .addMember zone port principal => .addMember c tag zone port principal
  | .removeMember zone port => .removeMember c tag zone port
  | .readZone level zone position => .readZone c tag level zone position
  | .commitZones hold => .commitZones c tag hold
  | .activateZones => .activateZones c tag
  | .retryDistribution => .retryDistribution c tag
  | .abortDistribution => .abortDistribution c tag
  | .queryReach p q => .queryReach c tag p q
  | .readZoneStatus => .readZoneStatus c tag
  | .fetchNotice => .fetchNotice c tag
  | .retireNotice => .retireNotice c tag
  | .setAlarmMask flags => .setAlarmMask c tag flags
  | .setAlarmLevel cls level => .setAlarmLevel c tag cls level
  | .setAlarmRoute cls route => .setAlarmRoute c tag cls route
  | .injectAlarm cls number => .injectAlarm c tag cls number
  | .withdrawInjection cls number => .withdrawInjection c tag cls number
  | .readAlarm cls number => .readAlarm c tag cls number
  | .releaseHistoryHalf half => .releaseHistoryHalf c tag half
  | .readHistory half first count => .readHistory c tag half first count
  | .readTime => .readTime c tag
  | .readIdentity => .readIdentity c tag

/-- The parameters of the request fit a frame: only WRITE HANDOVER has a length of its own (R185,
R193). -/
def Request.fits : Request → Bool
  | .writeHandover _ count words => handoverFits count words
  | _ => true

end Sys2Proof.Machine
end

