-- ==== Sys2Proof/Certificates/Slice0/Obligations.lean ====
section
/-! DEFINITION. Statements about the part, for the provers. A request row is stated on a port that takes it
at once (`Ready`); what the port does otherwise is stated by itself. The arbiter at the end of each
command (log 5) is `arbitrate`, stated by itself too. -/

section
open Sys2Proof Sys2Proof.Machine

/-! ### Steps and reset -/

/-- A step takes the command at the front of the queue and executes it with the queue's rest. -/
def Obligations.StepRunsTheFrontCommand : Prop :=
  ∀ (i : Instr) (q : List Instr) (s : State),
    step (s.setPending (i :: q)) = exec i (s.setPending q)

/-- No command but POWER_ON_RESET moves the time base (R199). The model's choice (logs 2, 23): on an empty
queue the events that are due are put in it, and exactly these are: a scan mark that has not been taken, at a
multiple of 20 ms, the expiry of a reached presence deadline, and of a reached power-good deadline. With none
due one millisecond passes. When a chassis time counts as reached, on a count that wraps, is log 13
(DEDUCED). -/
def Obligations.IdleStepPassesAMillisecond : Prop :=
  (∀ (now d : Time) (n : Nat),
    (reached now d = true ↔ (now - d).toNat < 2 ^ 47)
    ∧ (timeAfter d n).toNat = (d.toNat + n) % 2 ^ 48
    ∧ (n < 2 ^ 47 → reached (timeAfter d n) d = true)
    ∧ (0 < n → n ≤ 2 ^ 47 → reached d (timeAfter d n) = false))
  ∧ (∀ (i : Instr) (s t : State), (∀ lines, i ≠ .powerOnReset lines) → exec i s = .next t →
    t.time = s.time)
  ∧ ∀ s : State, s.pending = [] →
    (due s = [] → step s = .next ((advanceLinks s).setTime (s.time + 1)))
    ∧ (due s ≠ [] → step s = .next (s.setPending (due s)))
    ∧ (Instr.scanMark ∈ due s ↔ s.time ≠ 0 ∧ s.time.toNat % 20 = 0 ∧ s.lastMark ≠ s.time)
    ∧ (Instr.heartbeatExpiry ∈ due s ↔
        ∃ c d, s.auth.holder = some c ∧ s.auth.presence.get c = .live d ∧ reached s.time d = true)
    ∧ (∀ c, Instr.peerDeadlineExpiry c ∈ due s ↔
        ∃ d, s.auth.holder ≠ some c ∧ s.auth.presence.get c = .live d ∧ reached s.time d = true)
    ∧ (∀ i, Instr.powerGoodDeadlineExpiry i ∈ due s ↔
        ∃ d, (s.slotRec i).power = .powering d ∧ reached s.time d = true)
    ∧ ∀ i ∈ due s, i = .scanMark ∨ i = .heartbeatExpiry ∨ (∃ c, i = .peerDeadlineExpiry c)
        ∨ ∃ j, i = .powerGoodDeadlineExpiry j

/-- Every command answers a next state, and leaves the queue of commands as it was. -/
def Obligations.EveryCommandAnswersNext : Prop :=
  ∀ (i : Instr) (s : State), ∃ t, exec i s = .next t ∧ t.pending = s.pending

/-- Power-on reset: the straps are latched from the six lines (R197), chassis time is 0 (R199), and every
record of every block takes its power-on value, the alarm table its default levels and routes (R159); the
first read of the serial field is on the bus (R198). That the queue of commands and the levels of the reset
lines are kept is log 26, that the list of driven lines is empty log 25, that no mark has been taken log 2
(the model's choices), that the duty terms are absent log 32 (DEDUCED). -/
def Obligations.PowerOnResetValues : Prop :=
  ∀ (lines : BitVec 6) (s : State), ∃ t, exec (.powerOnReset lines) s = .next t
    ∧ t.straps.period =
        (match lines.getLsbD 1, lines.getLsbD 0 with
          | false, false => .ms250
          | false, true => .ms500
          | true, false => .ms1000
          | true, true => .ms2000)
    ∧ t.straps.takeover = lines.getLsbD 2
    ∧ t.straps.policy =
        (match lines.getLsbD 4, lines.getLsbD 3 with
          | false, false => .n
          | true, false => .grid
          | _, true => .nPlus1)
    ∧ t.straps.zoning = (if lines.getLsbD 5 then .none else .all)
    ∧ t.pending = s.pending ∧ t.time = 0 ∧ t.lastMark = 0 ∧ t.serial = none
    ∧ (∀ c, (t.link.get c).up = false ∧ (t.link.get c).badFrames = 0 ∧ (t.link.get c).queue = []
        ∧ (t.link.get c).current = none ∧ (t.link.get c).resetHeld = (s.link.get c).resetHeld
        ∧ (t.link.get c).leaving = none ∧ (t.link.get c).immediate = [] ∧ (t.link.get c).waiting = []
        ∧ t.auth.presence.get c = .absent ∧ t.auth.handover.get c = Vector.replicate 16 0
        ∧ t.bus.maint.get c = ⟨3072, 0⟩ ∧ t.alarm.stack.get c = []
        ∧ t.alarm.mask.get c = Vector.replicate 20 true ∧ t.alarm.attn.get c = false)
    ∧ t.auth.holder = none ∧ t.auth.epoch = 0 ∧ t.auth.since = 0 ∧ t.auth.cause = .powerOn
    ∧ t.auth.claimed = false ∧ t.auth.departed = none
    ∧ t.bus.current = some ⟨.serial, .read 0 16⟩ ∧ t.bus.class1 = [] ∧ t.bus.class2 = none
    ∧ t.bus.class3 = [] ∧ t.bus.class4 = false ∧ t.bus.grants = 0 ∧ t.bus.startPending = false
    ∧ t.bus.scan = .serial [] false ∧ t.bus.driven = []
    ∧ (∀ i, t.bus.slotSeen.get i = ⟨false, false⟩) ∧ (∀ b, t.bus.baySeen.get b = ⟨false, false⟩)
    ∧ (∀ y, t.bus.traySeen.get y = ⟨false, false⟩)
    ∧ t.cool.tIn = 50 ∧ t.cool.assumed = true ∧ t.cool.duty = 100 ∧ t.cool.demand = 0
    ∧ t.cool.reason = .start ∧ t.cool.tempTerm = none ∧ t.cool.loadTerm = none
    ∧ t.cool.settled = false ∧ t.cool.passes = 0 ∧ (∀ w, t.cool.sensors.get w = ⟨0, false, 0⟩)
    ∧ (∀ b, t.cool.supplies.get b = ⟨.absent, none, 0⟩)
    ∧ (∀ y, (t.cool.trays.get y).maximum = none ∧ (t.cool.trays.get y).settle = 0
        ∧ ∀ r, (t.cool.trays.get y).rotors.get r = ⟨.none, 0, 0, 0⟩)
    ∧ t.power.policy = t.straps.policy ∧ (∀ p, t.power.ports.get p = .off)
    ∧ t.power.input.tIn = 50 ∧ t.power.input.rotors = 0
    ∧ (∀ b, t.power.input.bays.get b = ⟨.absent, 0⟩)
    ∧ t.power.supply = 0 ∧ t.power.gridLost = false ∧ t.power.coolFull = 0 ∧ t.power.coolCap = 0
    ∧ t.power.avail = 0 ∧ t.power.lastKind = .admission ∧ t.power.lastTime = 0
    ∧ (∀ i, t.slotRec i = ⟨none, .empty, true, 2⟩)
    ∧ t.lic.table = [] ∧ t.lic.grants = [] ∧ t.lic.waiting = [] ∧ (∀ p, t.lic.ports.get p = ⟨false, .s⟩)
    ∧ t.zone.txn = .closed ∧ t.zone.staging = [] ∧ t.zone.pending = none ∧ t.zone.active = ⟨[], 0⟩
    ∧ t.zone.main = .idle ∧ t.zone.hold = none ∧ t.zone.job = none ∧ t.zone.catchUpSlot = none
    ∧ distributionSet t = [] ∧ catchUpSet t = []
    ∧ (∀ i, t.zone.slots.get i = ⟨0, none, none, .none, false⟩)
    ∧ t.alarm.led = .off ∧ t.alarm.overrun = false ∧ t.alarm.half0 = ⟨.filling, []⟩
    ∧ t.alarm.half1 = ⟨.free, []⟩
    ∧ (∀ x ∈ ([(.psuFault, .condition, 4, 6, .active), (.psuInputLost, .condition, 4, 5, .active),
          (.psuRemoved, .event, 4, 3, .active), (.fanRotorFail, .condition, 12, 5, .active),
          (.fanTrayAbsent, .condition, 3, 6, .active), (.tempWarn, .condition, 1, 4, .active),
          (.tempCrit, .condition, 1, 7, .both), (.sensorLost, .condition, 2, 3, .active),
          (.budgetShed, .event, 8, 6, .active), (.budgetTight, .condition, 1, 3, .active),
          (.slotFault, .condition, 8, 5, .active), (.slotChange, .event, 8, 2, .active),
          (.licenseWait, .condition, 1, 2, .active), (.licenseRevoked, .event, 256, 4, .active),
          (.zoneDone, .event, 1, 1, .active), (.zoneDistFail, .event, 1, 4, .active),
          (.authorityChange, .event, 1, 5, .both), (.peerSilent, .condition, 2, 4, .both),
          (.lineBusError, .event, 1, 3, .active), (.historyHalf, .event, 2, 1, .active)] :
          List (AlarmClass × AlarmKind × Nat × Nat × Route)),
        classEntry t.alarm x.1 = ⟨x.2.2.2.1, x.2.2.2.2⟩
        ∧ ∀ n, ((∃ r ∈ t.alarm.conds, r.cls = x.1 ∧ r.number = n) ↔
            x.2.1 = .condition ∧ 1 ≤ n ∧ n ≤ x.2.2.1)
          ∧ ((∃ r ∈ t.alarm.events, r.cls = x.1 ∧ r.number = n) ↔
            x.2.1 = .event ∧ 1 ≤ n ∧ n ≤ x.2.2.1))
    ∧ (∀ r ∈ t.alarm.conds, r.condition = false ∧ r.forced = false ∧ r.seen = ⟨false, false⟩
        ∧ r.changed = 0)
    ∧ ∀ r ∈ t.alarm.events, r.latch = ⟨false, false⟩ ∧ r.latchH = false ∧ r.last = 0
        ∧ r.injected = false

/-- The model's choice (log 4): the reset state is what POWER_ON_RESET gives with every strap line
unfitted, both reset lines released and no command waiting. Every relation that is stated below to be
kept by each step holds in it. -/
def Obligations.ResetStateIsSound : Prop :=
  (∀ s : State, s.pending = [] → s.link.a.resetHeld = false → s.link.b.resetHeld = false →
    exec (.powerOnReset 0x3F) s = .next State.reset)
  ∧ State.reset.attentionAgrees ∧ State.reset.fansKept ∧ State.reset.queuesBounded
  ∧ State.reset.grantsBounded ∧ State.reset.lic.consistent ∧ State.reset.budgetKept
  ∧ State.reset.zonesInOrder

/-! ### Supervisor links -/

/-- R2: the first good frame brings the link UP before it is handled, and the CP is SILENT. A HEARTBEAT
then makes it LIVE, whatever the port holds. Any other request is queued; it is taken and refused SILENT,
unless a request that a link DOWN dropped is still in execution (log 22, DEDUCED): then it waits. -/
def Obligations.FirstGoodFrameBringsLinkUp : Prop :=
  ∀ (c : Cp) (tag : BitVec 4) (s : State), (s.link.get c).up = false →
    (s.link.get c).resetHeld = false → s.auth.presence.get c = .absent →
    let silent := handCondition .peerSilent (cpNumber c) (setPresence c .silent
      (s.modLink c fun p => { p with up := true, badFrames := 0 }))
    (∃ t, exec (.heartbeat c tag) s = .next t ∧ (t.link.get c).up = true
      ∧ (t.link.get c).badFrames = 0
      ∧ t.auth.presence.get c = .live (timeAfter s.time s.straps.period.ms)
      ∧ t.auth.holder = s.auth.holder ∧ t.auth.epoch = s.auth.epoch)
    ∧ ∀ r : Request, r.fits = true → (s.link.get c).queue = [] →
      ((s.link.get c).current = none →
        exec (r.command c tag) s = .next (arbitrate (silent.answered c tag r.code .silent [])))
      ∧ ∀ e, (s.link.get c).current = some e →
        exec (r.command c tag) s = .next (arbitrate
          (silent.modLink c fun p => { p with queue := [r.frame tag] }))

/-- R3: a HEARTBEAT from a SILENT or LIVE CP sets its deadline H after the arrival and makes it LIVE; the
response leaves at once, and nothing else of the authority record changes. -/
def Obligations.HeartbeatRenewsPresence : Prop :=
  ∀ (c : Cp) (tag : BitVec 4) (s : State), (s.link.get c).up = true →
    (s.link.get c).resetHeld = false → s.auth.presence.get c ≠ .absent →
    ∃ t, t = handCondition .peerSilent (cpNumber c)
        (reevaluate ((s.heard c).modAuth fun a =>
          { a with presence := a.presence.put c (.live (timeAfter s.time s.straps.period.ms)) }))
      ∧ t.auth = { s.auth with
          presence := s.auth.presence.put c (.live (timeAfter s.time s.straps.period.ms)) }
      ∧ exec (.heartbeat c tag) s = .next (arbitrate (t.answeredAtOnce c tag 0x01 .done
          (encHolder s.auth.holder ++ u32 s.auth.epoch ++ encPresence (s.auth.presence.get c)
            ++ yes s.auth.departed.isSome ++ yes (t.alarm.attn.get c))))

/-- R184: BAD_FRAME, LINK_RESET_ASSERT and LINK_RESET_RELEASE. On an UP link a bad frame is counted, and
the eighth takes the link DOWN with the port emptied; on a DOWN or held link it changes nothing, and on
a held link no frame does.
Asserting the line on an UP link takes it DOWN; asserting it on a DOWN link, or releasing it, changes
the line alone. At a link DOWN the frame that is leaving stops, and a request in execution stays, with its
response to be dropped, a data-transfer read too: log 22 (DEDUCED). -/
def Obligations.LinksGoDown : Prop :=
  ∀ (c : Cp) (s : State),
    (((s.link.get c).resetHeld = true ∨ (s.link.get c).up = false) →
      exec (.badFrame c) s = .next (arbitrate s))
    ∧ (∀ bytes, (s.link.get c).resetHeld = true →
      exec (.goodFrame c bytes) s = .next (arbitrate s))
    ∧ ((s.link.get c).resetHeld = false → (s.link.get c).up = true → (s.link.get c).badFrames < 7 →
      exec (.badFrame c) s = .next (arbitrate
        (s.modLink c fun p => { p with badFrames := p.badFrames + 1 })))
    ∧ ((s.link.get c).resetHeld = false → (s.link.get c).up = true → (s.link.get c).badFrames = 7 →
      exec (.badFrame c) s = .next (arbitrate (presenceDown c (s.modLink c fun p =>
        { p with
          up := false, badFrames := 0, queue := []
          current := p.current.map fun e => { e with dropped := true }
          leaving := none, immediate := [], waiting := [] }))))
    ∧ ((s.link.get c).up = true →
      exec (.linkResetAssert c) s = .next (arbitrate (presenceDown c (s.modLink c fun p =>
        { p with
          resetHeld := true, up := false, badFrames := 0, queue := []
          current := p.current.map fun e => { e with dropped := true }
          leaving := none, immediate := [], waiting := [] }))))
    ∧ ((s.link.get c).up = false →
      exec (.linkResetAssert c) s = .next (arbitrate
        (s.modLink c fun p => { p with resetHeld := true })))
    ∧ exec (.linkResetRelease c) s = .next (arbitrate
        (s.modLink c fun p => { p with resetHeld := false }))

/-- R189 and R183, what a link DOWN does beyond the port: the CP is ABSENT, its stack, seen marks, latches
and mask are cleared, authority moves only if it held it, and everything else is kept. R11, R18 and R22: the
move from a holder leaves a frozen departed record, with its OPEN transaction HELD; an earlier record is
resolved before it; AUTHORITY_CHANGE occurs last. -/
def Obligations.LinkDownClearsTheCp : Prop :=
  ∀ (c : Cp) (s t : State), t = presenceDown c s →
    t.auth.presence.get c = .absent ∧ t.auth.presence.get c.peer = s.auth.presence.get c.peer
    ∧ t.alarm.stack.get c = [] ∧ t.alarm.mask.get c = Vector.replicate 20 true
    ∧ t.alarm.stack.get c.peer = s.alarm.stack.get c.peer
    ∧ t.alarm.mask.get c.peer = s.alarm.mask.get c.peer
    ∧ (∀ r ∈ t.alarm.conds, r.seen.get c = false) ∧ (∀ r ∈ t.alarm.events, r.latch.get c = false)
    ∧ (s.auth.holder ≠ some c →
        t.auth = { s.auth with presence := s.auth.presence.put c .absent } ∧ t.zone = s.zone)
    ∧ (s.auth.holder = some c →
        t.auth.holder = (if (s.auth.presence.get c.peer).isLive then some c.peer else none)
        ∧ t.auth.epoch = s.auth.epoch + 1 ∧ t.auth.cause = .linkLost
        ∧ t.auth.since = s.time ∧ t.auth.claimed = true
        ∧ (∃ u, t = occurEvent .authorityChange 1 false u ∧ u.auth = t.auth)
        ∧ ((∀ d, s.auth.departed = some d → d.transaction = none) →
          (ownsOpenTxn s.zone.txn c = false →
            t.auth.departed = some ⟨c, s.auth.epoch, .linkLost, s.time, none, true⟩
            ∧ t.zone = s.zone)
          ∧ ∀ i, s.zone.txn = .opened i → i.owner = c →
            t.auth.departed = some ⟨c, s.auth.epoch, .linkLost, s.time,
              some (s.zone.staging.length, entryCount s.zone.staging), true⟩
            ∧ t.zone = { s.zone with txn := .held i })
        ∧ ∀ d x i, s.auth.departed = some d → d.transaction = some x → s.zone.txn = .held i →
          d.prior = c.peer →
          t.auth.departed = some ⟨c, s.auth.epoch, .linkLost, s.time, none, true⟩
          ∧ ((s.auth.presence.get c.peer).isLive = true → t.zone = { s.zone with
              txn := .opened ⟨c.peer, s.auth.epoch + 1, i.base, s.time⟩ })
          ∧ ((s.auth.presence.get c.peer).isLive = false →
            t.zone = { s.zone with staging := [], txn := .closed }))
    ∧ t.auth.handover = s.auth.handover ∧ t.bus.maint = s.bus.maint ∧ t.link = s.link
    ∧ t.power = s.power ∧ t.lic = s.lic ∧ t.straps = s.straps ∧ t.time = s.time
    ∧ t.serial = s.serial

/-- GOOD_FRAME: where a request's frame reaches its block (R185, R193), and how a run of bytes is read. Idle
bytes are skipped; a length byte below 2, a CRC-16 that differs, and a frame that the run cuts short make a
bad frame; the frames of a run are handled in order. That the bytes of a frame do what the request's row
or HEARTBEAT does, and that a frame cut short is bad, is the model's choice (log 1). -/
def Obligations.GoodFrameCarriesTheRequest : Prop :=
  (∀ (c : Cp) (tag : BitVec 4) (r : Request) (s : State), r.fits = true →
    exec (.goodFrame c (r.frame tag).bytes) s = exec (r.command c tag) s
    ∧ (Ready c s → (r.holderOnly = true → s.auth.holder = some c) →
      exec (.goodFrame c (r.frame tag).bytes) s
        = .next (arbitrate (settleRequest c (r.frame tag) (serveRequest c r (s.heard c))))))
  ∧ (∀ (c : Cp) (tag : BitVec 4) (s : State),
    exec (.goodFrame c (Frame.bytes ⟨tag, 0x01, []⟩)) s = exec (.heartbeat c tag) s)
  ∧ (∀ (c : Cp) (b : Byte) (bytes : List Byte) (s : State),
    exec (.goodFrame c []) s = .next (arbitrate s)
    ∧ (b ≠ 0xA5 → exec (.goodFrame c (b :: bytes)) s = exec (.goodFrame c bytes) s))
  ∧ (∀ (c : Cp) (f : Frame) (bytes : List Byte) (s : State), f.params.length ≤ 253 →
    ∃ t, exec (.goodFrame c f.bytes) s = .next t
      ∧ exec (.goodFrame c (f.bytes ++ bytes)) s = exec (.goodFrame c bytes) t)
  ∧ ∀ (c : Cp) (len : Byte) (body crc bytes : List Byte) (s : State),
    exec (.goodFrame c [0xA5]) s = exec (.badFrame c) s
    ∧ (2 ≤ len.toNat → body.length < len.toNat + 2 →
      exec (.goodFrame c (0xA5 :: len :: body)) s = exec (.badFrame c) s)
    ∧ ∃ t, exec (.badFrame c) s = .next t
      ∧ (len.toNat < 2 →
        exec (.goodFrame c (0xA5 :: len :: bytes)) s = exec (.goodFrame c bytes) t)
      ∧ (2 ≤ len.toNat → body.length = len.toNat → crc.length = 2 →
        beNum crc ≠ (crc16 (len :: body)).toNat →
        exec (.goodFrame c (0xA5 :: len :: (body ++ crc ++ bytes))) s
          = exec (.goodFrame c bytes) t)

/-- Encoding (R193): the bytes of every request frame whose parameters fit read back as that frame. -/
def Obligations.FramesReadBack : Prop :=
  ∀ f : Frame, f.params.length ≤ 253 → parseFrame f.bytes = some f

/-- R186: while a request is in execution, a frame other than HEARTBEAT that arrives is appended to the
queue, whatever its code and parameters; to a queue of 4 it is answered QUEUE_FULL at once, and nothing
else changes. -/
def Obligations.QueueTakesFourRequests : Prop :=
  ∀ (c : Cp) (tag : BitVec 4) (r : Request) (f : Frame) (s : State), (s.link.get c).up = true →
    (s.link.get c).resetHeld = false → (s.link.get c).current.isSome = true →
    f.code ≠ 0x01 → f.params.length ≤ 253 →
    let queues (i : Instr) (f : Frame) : Prop :=
      ((s.link.get c).queue.length < 4 →
        exec i s = .next (arbitrate
          (s.modLink c fun p => { p with badFrames := 0, queue := p.queue ++ [f] })))
      ∧ (4 ≤ (s.link.get c).queue.length →
        exec i s = .next (arbitrate ((s.heard c).answeredAtOnce c f.tag f.code .queueFull [])))
    queues (r.command c tag) (r.frame tag) ∧ queues (.goodFrame c f.bytes) f

/-- R16 and R185: a request that is taken is refused SILENT from a SILENT CP, whatever it is, then NOT_HOLDER
where it is holder-only and the CP is not the holder, with no record changed; otherwise its block serves
it. A code outside the request table, or a wrong number of parameter bytes, is refused when it is taken:
SILENT from a SILENT CP, else BAD_PARAM. A HEARTBEAT with parameter bytes is answered BAD_PARAM at once from
any CP and renews nothing. -/
def Obligations.RequestsAreFenced : Prop :=
  (∀ (c : Cp) (tag : BitVec 4) (r : Request) (s : State), r.fits = true →
    (s.link.get c).up = true → (s.link.get c).resetHeld = false →
    (s.link.get c).current = none → (s.link.get c).queue = [] →
    (s.auth.presence.get c = .silent →
      exec (r.command c tag) s
        = .next (arbitrate ((s.heard c).answered c tag r.code .silent [])))
    ∧ (s.auth.presence.get c ≠ .silent → r.holderOnly = true → s.auth.holder ≠ some c →
      exec (r.command c tag) s
        = .next (arbitrate ((s.heard c).answered c tag r.code .notHolder [])))
    ∧ (s.auth.presence.get c ≠ .silent → (r.holderOnly = true → s.auth.holder = some c) →
      exec (r.command c tag) s
        = .next (arbitrate (settleRequest c (r.frame tag) (serveRequest c r (s.heard c))))))
  ∧ ∀ (c : Cp) (f : Frame) (s : State), f.params.length ≤ 253 →
    (s.link.get c).up = true → (s.link.get c).resetHeld = false →
    (f.code ≠ 0x01 → (s.link.get c).current = none → (s.link.get c).queue = [] →
      (s.auth.presence.get c = .silent →
        exec (.goodFrame c f.bytes) s
          = .next (arbitrate ((s.heard c).answered c f.tag f.code .silent [])))
      ∧ (s.auth.presence.get c ≠ .silent → Request.parse f.code f.params = none →
        exec (.goodFrame c f.bytes) s
          = .next (arbitrate ((s.heard c).answered c f.tag f.code .badParam []))))
    ∧ (f.code = 0x01 → f.params ≠ [] →
      exec (.goodFrame c f.bytes) s
        = .next (arbitrate ((s.heard c).answeredAtOnce c f.tag f.code .badParam [])))

/-- R188: a data-transfer read completes when the last byte of its response has left. That the responses
ahead of it, the immediate ones too, leave with it is the model's choice (log 23), and that a dropped read
ends by its row is log 22 (DEDUCED). R187: at a completion the port takes the head of its queue, which is
judged as R185 says, and goes on while none is in execution. The order in which responses leave, an immediate
one first, and what the port sends (R193): the frame that is leaving, or 0x00. That one frame boundary passes
at a time is log 23. -/
def Obligations.TransferReadCompletes : Prop :=
  (∀ (c : Cp) (s : State) (tag : BitVec 4) (code : Byte),
    let ends (f : LinkPort → LinkPort) : Prop :=
      exec (.dataTransferReadComplete c) s = .next (arbitrate (serveQueue c (s.modLink c f)))
    ((s.link.get c).current = some ⟨tag, code, .transfer, false⟩ → (s.link.get c).waiting ≠ [] →
      ends fun p => { p with current := none, leaving := none, immediate := [], waiting := [] })
    ∧ ((s.link.get c).current = some ⟨tag, code, .transfer, false⟩ → (s.link.get c).waiting = [] →
      ends fun p => { p with current := none, leaving := none })
    ∧ ((s.link.get c).current = some ⟨tag, code, .transfer, true⟩ →
      ends fun p => { p with current := none }))
  ∧ (∀ (c : Cp) (s : State),
    ((s.link.get c).current.isSome = true ∨ (s.link.get c).queue = []) → serveQueue c s = s)
  ∧ (∀ (c : Cp) (f : Frame) (rest : List Frame) (s u : State), (s.link.get c).current = none →
    (s.link.get c).queue = f :: rest → u = s.modLink c (fun p => { p with queue := rest }) →
    let goesOn (t : State) : Prop := serveQueue c s = serveQueue c t
    (s.auth.presence.get c = .silent → goesOn (u.answered c f.tag f.code .silent []))
    ∧ (s.auth.presence.get c ≠ .silent → Request.parse f.code f.params = none →
      goesOn (u.answered c f.tag f.code .badParam []))
    ∧ ∀ r, s.auth.presence.get c ≠ .silent → Request.parse f.code f.params = some r →
      (r.holderOnly = true → s.auth.holder ≠ some c →
        goesOn (u.answered c f.tag f.code .notHolder []))
      ∧ ((r.holderOnly = true → s.auth.holder = some c) →
        goesOn (settleRequest c f (serveRequest c r u))))
  ∧ (∀ (c : Cp) (f : Frame) (o : OutcomeCode) (bs : List Byte) (phase : Phase) (t : State),
    settleRequest c f (t, .reply o bs) = t.answered c f.tag f.code o bs
    ∧ settleRequest c f (t, .transfer o bs)
      = (t.answered c f.tag f.code o bs).inExecution c f.tag f.code .transfer
    ∧ settleRequest c f (t, .waits phase) = t.inExecution c f.tag f.code phase)
  ∧ (∀ (p : LinkPort) (tag : BitVec 4) (code : Byte) (r : Response) (rest : List Response),
    let free : Prop := p.waiting ≠ [] ∨ ∀ tag code, p.current ≠ some ⟨tag, code, .transfer, false⟩
    (p.up = false → p.advance = p)
    ∧ (p.current = some ⟨tag, code, .transfer, false⟩ → p.waiting = [] → p.advance = p)
    ∧ (p.up = true → free → p.immediate = r :: rest →
      p.advance = { p with leaving := some r, immediate := rest })
    ∧ (p.up = true → free → p.immediate = [] → p.waiting = r :: rest →
      p.advance = { p with leaving := some r, waiting := rest })
    ∧ (p.up = true → free → p.immediate = [] → p.waiting = [] →
      p.advance = { p with leaving := none })
    ∧ (p.leaving = none → p.sends = [0x00])
    ∧ (p.leaving = some r →
      let body := be 2 (r.results.length + 3)
        ++ (r.tag.setWidth 8 :: r.code :: r.outcome.byte :: r.results)
      p.sends = 0x5A :: body ++ be 2 (crc16 body).toNat))
  ∧ ∀ (c : Cp) (s : State), (advanceLinks s).link.get c = (s.link.get c).advance

/-! ### Authority -/

/-- R9 with R8, R18, R22 and R132, R133: what a change of holder leaves, by what stood before it: no departed
record, one without a transaction, or one with a HELD transaction, which is resolved first. The indicator
field, which carries the authority LEDs, joins class 1 (R28, R34); that it stands ahead of the duty fields is
log 6, the model's choice. -/
def Obligations.ChangeOfHolder : Prop :=
  ∀ (h : Option Cp) (k : Cause) (s t : State), t = changeHolder h k s →
    t.auth.holder = h ∧ t.auth.epoch = s.auth.epoch + 1 ∧ t.auth.since = s.time
    ∧ t.auth.cause = k ∧ t.auth.claimed = true ∧ t.auth.presence = s.auth.presence
    ∧ t.auth.handover = s.auth.handover
    ∧ (s.auth.holder = none → t.auth.departed = none)
    ∧ (∀ c, (∀ d, s.auth.departed = some d → d.transaction = none) → s.auth.holder = some c →
        (k.involuntary = false → ownsOpenTxn s.zone.txn c = false →
          t.auth.departed = none ∧ t.zone = s.zone)
        ∧ (k.involuntary = true → ownsOpenTxn s.zone.txn c = false →
          t.auth.departed = some ⟨c, s.auth.epoch, k, s.time, none, true⟩ ∧ t.zone = s.zone)
        ∧ (∀ i, s.zone.txn = .opened i → i.owner = c →
          t.auth.departed = some ⟨c, s.auth.epoch, k, s.time,
            some (s.zone.staging.length, entryCount s.zone.staging), k.involuntary⟩
          ∧ t.zone = { s.zone with txn := .held i }))
    ∧ (∀ d x i, s.auth.departed = some d → d.transaction = some x → s.zone.txn = .held i →
        s.auth.holder ≠ some d.prior →
        (h = some d.prior →
          t.zone = { s.zone with
            txn := .opened ⟨d.prior, s.auth.epoch + 1, i.base, s.time⟩ })
        ∧ (h ≠ some d.prior → t.zone = { s.zone with staging := [], txn := .closed })
        ∧ ∀ c, s.auth.holder = some c → t.auth.departed =
            if k.involuntary then some ⟨c, s.auth.epoch, k, s.time, none, true⟩ else none)
    ∧ Class1.held .indicator ∈ t.bus.class1
    ∧ (joinHeld .indicator s).bus.class1 <+: t.bus.class1
    ∧ (∃ u, t = occurEvent .authorityChange 1 false u ∧ u.auth = t.auth
        ∧ u.cool.duty = (dutyOf t.auth { s.cool with duty := u.cool.duty }).value)
    ∧ t.time = s.time ∧ t.straps = s.straps ∧ t.serial = s.serial ∧ t.link = s.link
    ∧ t.power = s.power ∧ t.lic = s.lic

/-- R12, R13 and R14: CLAIM AUTHORITY and TAKE OVER in the order each is judged, and YIELD AUTHORITY of the
holder. The results of the refusals STALE, HELD_BY_PEER and STATE are log 10 (DEDUCED). -/
def Obligations.AuthorityRequestsAreJudged : Prop :=
  ∀ (c : Cp) (tag : BitVec 4) (epoch : BitVec 32) (d : Time) (s : State), Ready c s →
    let h := s.heard c
    let claim := exec (.claimAuthority c tag epoch) s
    let takes := exec (.takeOver c tag epoch) s
    let holds (u : State) : List Byte := encHolder u.auth.holder ++ u32 u.auth.epoch
    let claimed (u : State) (o : OutcomeCode) : Host.Outcome State Fault Refusal :=
      .next (arbitrate (u.answered c tag 0x02 o
        (holds u ++ encCause u.auth.cause ++ yes u.auth.departed.isSome)))
    let taken (u : State) (o : OutcomeCode) : Host.Outcome State Fault Refusal :=
      .next (arbitrate (u.answered c tag 0x04 o (holds u ++ yes u.auth.departed.isSome)))
    (epoch ≠ s.auth.epoch → claim = claimed h .stale ∧ takes = taken h .stale)
    ∧ (epoch = s.auth.epoch → s.auth.holder = none →
      claim = claimed (changeHolder (some c) .claimed h) .done ∧ takes = taken h .state)
    ∧ (epoch = s.auth.epoch → s.auth.holder = some c →
      claim = claimed h .done ∧ takes = taken h .done)
    ∧ (epoch = s.auth.epoch → s.auth.holder = some c.peer → s.auth.presence.get c.peer = .live d →
      claim = claimed h .heldByPeer ∧ takes = taken (changeHolder (some c) .forced h) .done)
    ∧ (epoch = s.auth.epoch → s.auth.holder = some c.peer → s.auth.presence.get c.peer = .silent →
      claim = claimed (changeHolder (some c) .claimOverSilent h) .done ∧ takes = taken h .state)
    ∧ ∀ t, s.auth.holder = some c →
      t = changeHolder (if (s.auth.presence.get c.peer).isLive then some c.peer else none) .yielded
        h →
      exec (.yieldAuthority c tag) s = .next (arbitrate (t.answered c tag 0x03 .done
        (holds t ++ yes t.auth.departed.isSome)))

/-- R4 and R10: the expiry of a deadline that is reached. The CP is SILENT with no deadline and PEER_SILENT is
handed; authority moves only from the holder, and only with the strap on. At a deadline that is not reached
the command does nothing (log 3, the model's choice). R5: after a HEARTBEAT no expiry follows, and after the
expiry the HEARTBEAT makes the CP LIVE again, with the rest of the authority record as the expiry left it. -/
def Obligations.DeadlinesExpire : Prop :=
  ∀ (c : Cp) (d : Time) (s v : State), s.auth.presence.get c = .live d →
    v = handCondition .peerSilent (cpNumber c)
      (reevaluate (s.modAuth fun a => { a with presence := a.presence.put c .silent })) →
    let expiry : Instr := if s.auth.holder = some c then .heartbeatExpiry else .peerDeadlineExpiry c
    let renewed : Presence := .live (timeAfter s.time s.straps.period.ms)
    (reached s.time d = true → s.auth.holder ≠ some c →
      exec (.peerDeadlineExpiry c) s = .next (arbitrate v))
    ∧ (reached s.time d = true → s.auth.holder = some c → s.straps.takeover = false →
      exec .heartbeatExpiry s = .next (arbitrate v))
    ∧ (reached s.time d = true → s.auth.holder = some c → s.straps.takeover = true →
      exec .heartbeatExpiry s = .next (arbitrate
        (changeHolder (if (s.auth.presence.get c.peer).isLive then some c.peer else none)
          .heartbeatExpiry v)))
    ∧ (reached s.time d = false → exec expiry s = .next (arbitrate s))
    ∧ ∀ tag, (s.link.get c).up = true → (s.link.get c).resetHeld = false →
      (∃ u, exec (.heartbeat c tag) s = .next u ∧ u.auth.presence.get c = renewed
        ∧ exec expiry u = .next u)
      ∧ (reached s.time d = true → ∃ u w, exec expiry s = .next u
        ∧ u.auth.presence.get c = .silent ∧ exec (.heartbeat c tag) u = .next w
        ∧ w.auth = { u.auth with presence := u.auth.presence.put c renewed })

/-- R20, R21 and R133: ADOPT DEPARTED and DISCARD DEPARTED of the holder. That STATE carries nothing is
log 10, and that each count has a marker of its own log 11 (both DEDUCED). -/
def Obligations.DepartedRecordIsResolved : Prop :=
  ∀ (c : Cp) (tag : BitVec 4) (s : State), Ready c s → s.auth.holder = some c →
    (s.auth.departed = none →
      exec (.adoptDeparted c tag) s = .next (arbitrate ((s.heard c).answered c tag 0x06 .state []))
      ∧ exec (.discardDeparted c tag) s
        = .next (arbitrate ((s.heard c).answered c tag 0x07 .state [])))
    ∧ (∀ d, s.auth.departed = some d → d.transaction = none →
      exec (.adoptDeparted c tag) s
        = .next (arbitrate (((s.heard c).modAuth fun a => { a with departed := none }).answered
            c tag 0x06 .done
            (encCp d.prior ++ u32 d.priorEpoch ++ encCause d.cause ++ u8 0 ++ u8 0 ++ u8 0)))
      ∧ exec (.discardDeparted c tag) s
        = .next (arbitrate (((s.heard c).modAuth fun a => { a with departed := none }).answered
            c tag 0x07 .done (encCp d.prior ++ u32 d.priorEpoch ++ encCause d.cause ++ u8 0))))
    ∧ (∀ d zones entries i, s.auth.departed = some d → d.transaction = some (zones, entries) →
      s.zone.txn = .held i →
      exec (.adoptDeparted c tag) s
        = .next (arbitrate ((((s.heard c).modZone fun z =>
            { z with txn := .opened ⟨c, s.auth.epoch, i.base, s.time⟩ }).modAuth fun a =>
              { a with departed := none }).answered c tag 0x06 .done
            (encCp d.prior ++ u32 d.priorEpoch ++ encCause d.cause ++ u8 1
              ++ (u8 1 ++ u16 zones) ++ (u8 1 ++ u16 entries))))
      ∧ exec (.discardDeparted c tag) s
        = .next (arbitrate ((((s.heard c).modZone fun z =>
            { z with staging := [], txn := .closed }).modAuth fun a =>
              { a with departed := none }).answered c tag 0x07 .done
            (encCp d.prior ++ u32 d.priorEpoch ++ encCause d.cause ++ u8 1))))

/-- R24 and R25: the handover words. The frozen byte of a BAD_PARAM is log 10, and the count byte in front
of the words read is log 11 (both DEDUCED). A write holds its words in one frame; a read has no words. -/
def Obligations.HandoverWordsAreKept : Prop :=
  ∀ (c x : Cp) (tag : BitVec 4) (target first count : Byte) (words : List (BitVec 32)) (s : State),
    Ready c s →
    let frozen (y : Cp) : Bool :=
      match s.auth.departed with
      | some d => decide (d.prior = y) && d.frozen
      | none => false
    let bad : Prop := count.toNat = 0 ∨ 16 < first.toNat + count.toNat
    let fits : Prop := handoverFits count words = true
    (fits → bad → exec (.writeHandover c tag first count words) s
      = .next (arbitrate ((s.heard c).answered c tag 0x08 .badParam (yes (frozen c)))))
    ∧ (fits → ¬ bad → frozen c = true → exec (.writeHandover c tag first count words) s
      = .next (arbitrate ((s.heard c).answered c tag 0x08 .frozen (yes true))))
    ∧ (fits → ¬ bad → frozen c = false →
      ∃ v : Vector (BitVec 32) 16,
        exec (.writeHandover c tag first count words) s
          = .next (arbitrate (((s.heard c).modAuth fun a =>
              { a with handover := a.handover.put c v }).answered c tag 0x08 .done (yes false)))
        ∧ ∀ k : Fin 16, v.get k =
            if first.toNat ≤ k.val ∧ k.val < first.toNat + count.toNat then
              words.getD (k.val - first.toNat) 0
            else (s.auth.handover.get c).get k)
    ∧ (cpOf target = none → exec (.readHandover c tag target first count) s
      = .next (arbitrate ((s.heard c).answered c tag 0x09 .badParam [])))
    ∧ (cpOf target = some x → bad → exec (.readHandover c tag target first count) s
      = .next (arbitrate ((s.heard c).answered c tag 0x09 .badParam (yes (frozen x)))))
    ∧ (cpOf target = some x → ¬ bad → exec (.readHandover c tag target first count) s
      = .next (arbitrate ((s.heard c).answered c tag 0x09 .done
          (u8 count.toNat
            ++ (((s.auth.handover.get x).toList.drop first.toNat).take count.toNat).flatMap u32
            ++ yes (frozen x)))))

/-! ### Requests that only read -/

/-- The reads that complete when they are taken leave every record as it was, and their results, field by
field: READ AUTHORITY (R15), READ SUPPLY (R66), READ TRAY (R67), READ TEMPERATURE (R68), READ BUDGET (R92),
READ SLOT (R93), READ PORT GROUP (R116), READ POOL (R117), READ ALARM (R181). Out of its range the parameter
is refused BAD_PARAM, with no results (R192; log 10, DEDUCED). The bytes of the results are R192's and log 11
(DEDUCED), 37, 38 and, for the weight of READ POOL without a ceiling, 43 (the model's choices). -/
def Obligations.ReadsLeaveTheRecords : Prop :=
  ∀ (c : Cp) (tag : BitVec 4) (b : Byte) (n : BitVec 16) (s : State), Ready c s →
    let answers (i : Instr) (code : Byte) (o : OutcomeCode) (bs : List Byte) : Prop :=
      exec i s = .next (arbitrate ((s.heard c).answered c tag code o bs))
    let k := s.cool
    let p := s.power
    let l := s.lic
    let a := s.alarm
    let deadline (x : Presence) : List Byte :=
      match x with
      | .live d => encTime d
      | _ => encTime 0
    let departed : List Byte :=
      match s.auth.departed with
      | none => yes false ++ List.replicate 8 0
      | some d =>
        yes true ++ (u8 1 ++ encCp d.prior) ++ (u8 1 ++ u32 d.priorEpoch) ++ (u8 1 ++ encCause d.cause)
          ++ (u8 1 ++ encTime d.time) ++ (u8 1 ++ encPresent d.transaction.isSome)
          ++ opt u16 (d.transaction.map Prod.fst) ++ opt u16 (d.transaction.map Prod.snd)
          ++ (u8 1 ++ yes d.frozen)
    let supply (y : Bay) : List Byte :=
      let r := k.supplies.get y
      u8 (if y.val < 2 then 1 else 2) ++ encSupplyState r.state
        ++ opt u16 (r.identity.map SupplyIdentity.rated)
        ++ opt encInput (r.identity.map SupplyIdentity.input) ++ u16 r.usable
        ++ yes (r.state = .failed) ++ yes (r.state = .off)
    let rotor (x : TrayRec) (r : RotorRec) : List Byte :=
      (match r.fit with
        | .none => u8 0 ++ u8 0
        | .notFitted => u8 1 ++ yes false ++ u8 0
        | .good => u8 1 ++ yes true ++ (u8 1 ++ u8 1)
        | .failed => u8 1 ++ yes true ++ (u8 1 ++ u8 2))
        ++ u16 r.measured ++ opt (fun m => u16 (m * k.duty / 100)) x.maximum ++ u8 r.low ++ u8 r.goodRun
    let count (f : SlotPower → Bool) : List Byte := u8 (p.slots.toList.countP fun r => f r.power)
    let draw (r : SlotRec) (i : Slot) : Nat :=
      if r.power.drawing then
        (match r.card with
          | none => 0
          | some x => x.base) + ((slotPart p.ports i).map PortPower.draw).sum
      else 0
    let port (q : Port) : List Byte :=
      let granted : Option PortClass := (grantOf l q).map Grant.cls
      yes (s.portExists q) ++ encUp (l.ports.get q).up ++ encClass (l.ports.get q).requested
        ++ u8 (if granted.isSome then 2 else if q ∈ l.waiting then 1 else 0) ++ opt encClass granted
        ++ encClassOrNone ((ceilingOf l).map (l.ports.get q).requested.smaller)
        ++ opt u8 (if granted.isSome then l.grants.findIdx? fun g => g.port = q
            else if q ∈ l.waiting then l.waiting.findIdx? fun x => x = q else none)
        ++ encPortPower (p.ports.get q)
    let granted (x : PortClass) : Nat := (l.grants.filter fun g => g.cls = x).length
    let service (x : Cp) : List Byte :=
      (a.mask.get x).toList.flatMap yes ++ yes (a.attn.get x) ++ u8 (a.stack.get x).length
        ++ (a.stack.get x).reverse.flatMap fun e => u8 e.level ++ u8 e.cls.number ++ u16 e.number
    let levels : List Byte := [1, 2, 3, 4, 5, 6, 7].flatMap fun v =>
      u8 (a.conds.filter fun r => r.active && (classEntry a r.cls).level = v).length
        ++ u16 (a.events.filter fun r => r.latched && (classEntry a r.cls).level = v).length
    let ofClass (x : AlarmClass) (row : List Byte) (standing : Nat) : List Byte :=
      encAlarmKind x.kind ++ u16 x.count ++ u8 (classEntry a x).level ++ encRoute (classEntry a x).route
        ++ yes ((a.mask.get .a).get x.index) ++ yes ((a.mask.get .b).get x.index) ++ row ++ u16 standing
    answers (.readAuthority c tag) 0x05 .done
      (encHolder s.auth.holder ++ u32 s.auth.epoch ++ encTime s.auth.since ++ encCause s.auth.cause
        ++ yes s.auth.claimed ++ encPresence (s.auth.presence.get .a)
        ++ encPresence (s.auth.presence.get .b) ++ deadline (s.auth.presence.get .a)
        ++ deadline (s.auth.presence.get .b) ++ u16 s.straps.period.ms ++ encTakeover s.straps.takeover
        ++ departed)
    ∧ answers (.readSupply c tag) 0x20 .done (supply 0 ++ supply 1 ++ supply 2 ++ supply 3)
    ∧ (∀ y : Tray, b.toNat = y.val + 1 →
      let x := k.trays.get y
      answers (.readTray c tag b) 0x21 .done
        (encPresent x.maximum.isSome ++ opt u16 x.maximum ++ encTime x.settle
          ++ yes (!reached s.time x.settle) ++ x.rotors.toList.flatMap (rotor x) ++ u8 k.duty))
    ∧ ((b.toNat = 0 ∨ 3 < b.toNat) → answers (.readTray c tag b) 0x21 .badParam [])
    ∧ answers (.readTemperature c tag) 0x22 .done
      (temp k.tIn ++ yes k.assumed
        ++ (k.sensors.toList.flatMap fun r => temp r.last ++ encValid r.valid ++ u8 r.invalidPasses)
        ++ yes (45 ≤ k.tIn) ++ yes (55 ≤ k.tIn)
        ++ (k.sensors.toList.flatMap fun r => yes (r.invalidPasses = 4))
        ++ u8 k.duty ++ encReason k.reason ++ opt u8 k.tempTerm ++ opt u16 k.loadTerm ++ yes k.settled)
    ∧ answers (.readBudget c tag) 0x33 .done
      (encPolicy p.policy ++ temp p.input.tIn ++ u8 p.input.rotors
        ++ (p.input.bays.toList.flatMap fun x => encSupplyState x.state ++ u16 x.usable)
        ++ u8 (min 100 (3 * (p.input.tIn - 40).toNat)) ++ u8 (min 100 (2 * (p.input.tIn - 35).toNat))
        ++ u16 p.supply ++ yes p.gridLost ++ u16 p.coolFull ++ u16 p.coolCap ++ u16 p.avail
        ++ u16 (demand p) ++ u16 (p.avail - demand p)
        ++ count (fun x => x = .empty) ++ count (fun x => x = .off) ++ count SlotPower.isDenied
        ++ count SlotPower.isPowering ++ count (fun x => x = .powered) ++ count (fun x => x = .faulted)
        ++ u16 (p.ports.toList.countP PortPower.isEnabled)
        ++ u16 (p.ports.toList.countP PortPower.isHeld)
        ++ yes (p.slots.toList.any (fun r => r.power.isDenied) || p.ports.toList.any PortPower.isHeld
            || p.gridLost)
        ++ encKind p.lastKind ++ encTime p.lastTime)
    ∧ (∀ i : Slot, b.toNat = i.val + 1 →
      let r := s.slotRec i
      let z := s.zone.slots.get i
      answers (.readSlot c tag b) 0x34 .done
        ((match r.card with
            | none => u8 2 ++ u8 0 ++ u8 0 ++ u8 0
            | some x => u8 1 ++ (u8 1 ++ [x.kind]) ++ (u8 1 ++ u16 x.base) ++ (u8 1 ++ u8 x.ports))
          ++ encSlotPower r.power
          ++ opt encDenial (match r.power with
            | .denied x => some x
            | _ => none)
          ++ opt encTime (match r.power with
            | .powering d => some d
            | _ => none)
          ++ encAdmin r.admin ++ u8 r.priority ++ u16 (draw r i)
          ++ (slotPart p.ports i).flatMap encPortPower
          ++ u16 z.loaded.toNat ++ yes z.catchUp ++ yes (r.power = .faulted)))
    ∧ ((b.toNat = 0 ∨ 8 < b.toNat) → answers (.readSlot c tag b) 0x34 .badParam [])
    ∧ (∀ g : Fin 32, b.toNat = g.val →
      answers (.readPortGroup c tag b) 0x43 .done
        ((List.range 8).flatMap fun m => port (Fin.ofNat 256 (8 * g.val + m))))
    ∧ (31 < b.toNat → answers (.readPortGroup c tag b) 0x43 .badParam [])
    ∧ answers (.readPool c tag) 0x44 .done
      (u8 l.table.length ++ u16 (l.table.map fun e => e.units.toNat).sum ++ u16 (poolTotal l)
        ++ encClassOrNone (ceilingOf l) ++ u16 (grantedUnits l) ++ u16 (poolTotal l - grantedUnits l)
        ++ u16 (granted .s) ++ u16 (granted .m) ++ u16 (granted .h)
        ++ u16 l.grants.length ++ u16 l.waiting.length
        ++ (match l.waiting with
          | [] => u8 0 ++ u8 0 ++ u8 0 ++ yes false
          | q :: _ =>
            (u8 1 ++ u8 q.val) ++ (u8 1 ++ encClass (l.ports.get q).requested)
              ++ opt (fun x : PortClass => u8 x.code)
                  ((ceilingOf l).map (l.ports.get q).requested.smaller) ++ yes true))
    ∧ (b.toNat = 0 →
      answers (.readAlarm c tag b n) 0x67 .done (service .a ++ service .b ++ encLed a.led ++ levels))
    ∧ (∀ x : AlarmClass, b.toNat = x.number →
      ((n.toNat = 0 ∨ x.count < n.toNat) → answers (.readAlarm c tag b n) 0x67 .badParam [])
      ∧ (1 ≤ n.toNat → n.toNat ≤ x.count →
        (∃ bs, answers (.readAlarm c tag b n) 0x67 .done bs)
        ∧ (∀ r, x.kind = .condition → condRow? a x n.toNat = some r →
          answers (.readAlarm c tag b n) 0x67 .done (ofClass x
            (yes r.condition ++ yes r.forced ++ yes (r.condition || r.forced) ++ yes r.seen.a
              ++ yes r.seen.b ++ encTime r.changed ++ yes (condEligible s .a r)
              ++ yes (condEligible s .b r))
            (a.conds.filter fun r => r.cls = x && (r.condition || r.forced)).length))
        ∧ ∀ r, x.kind = .event → eventRow? a x n.toNat = some r →
          answers (.readAlarm c tag b n) 0x67 .done (ofClass x
            (yes r.latch.a ++ yes r.latch.b ++ yes r.latchH ++ encTime r.last ++ yes r.injected
              ++ yes (eventEligible s .a r) ++ yes (eventEligible s .b r))
            (a.events.filter fun r => r.cls = x && (r.latch.a || r.latch.b || r.latchH)).length)))
    ∧ (20 < b.toNat → answers (.readAlarm c tag b n) 0x67 .badParam [])

/-- The data-transfer reads (R188) form their response when they are taken, leave every record as it was,
and stay in execution: READ GRANT LIST and READ WAIT QUEUE (R118), READ ENTITLEMENTS (R119), READ ZONE
(R136), READ ZONE STATUS (R158), READ HISTORY (R180); and their results, field by field. A refused one
completes at once. That READ HISTORY stays in execution is the model's choice between R180 and R188 (log
12), that READ ENTITLEMENTS leaves out flags and check codes its choice between R119 and R194 (log 39). The
results of a refusal are log 10, the bytes R192's and log 11 (both DEDUCED); that the summary of READ ZONE has
no byte for the fields of another level is log 37, the model's choice. -/
def Obligations.TransferReadsStayInExecution : Prop :=
  ∀ (c : Cp) (tag : BitVec 4) (level position half first count : Byte) (n : BitVec 16) (s : State),
    Ready c s →
    let forms (i : Instr) (code : Byte) (o : OutcomeCode) (bs : List Byte) : Prop :=
      exec i s = .next (arbitrate
        (((s.heard c).answered c tag code o bs).inExecution c tag code .transfer))
    let refuses (i : Instr) (code : Byte) (bs : List Byte) : Prop :=
      exec i s = .next (arbitrate ((s.heard c).answered c tag code .badParam bs))
    let l := s.lic
    let z := s.zone
    let a := s.alarm
    let counts (tbl : ZoneTable) : List Byte :=
      u16 tbl.length ++ u16 (tbl.map fun x => x.members.length).sum
    let info (i : TxnInfo) : List Byte :=
      (u8 1 ++ encCp i.owner) ++ (u8 1 ++ u32 i.epoch) ++ (u8 1 ++ opt (fun g => u16 g.toNat) i.base)
        ++ (u8 1 ++ encTime i.opened)
    let txn : List Byte :=
      match z.txn with
      | .closed => u8 1 ++ [0, 0, 0, 0]
      | .opened i => u8 2 ++ info i
      | .computing i _ => u8 3 ++ info i
      | .held i => u8 4 ++ info i
    let pending : List Byte :=
      match z.pending with
      | none => u8 2 ++ u16 0
      | some x => u8 1 ++ u16 x.generation.toNat
    let table (x : ZoneLevel) : ZoneTable :=
      match x, z.pending with
      | .staging, _ => z.staging
      | .pending, some y => y.table
      | .pending, none => []
      | .active, _ => z.active.table
    let summary (x : ZoneLevel) : List Byte :=
      counts (table x) ++
        (match x with
        | .staging => txn
        | .pending => pending
        | .active =>
          u16 z.active.generation.toNat
            ++ (if z.active.generation = 0 then u8 1 ++ encZoning s.straps.zoning else u8 0))
    let zone (x : Zone) : List Byte :=
      let page := (x.members.drop position.toNat).take 32
      match x.kind with
      | .standard =>
        u8 x.number.val ++ u8 1 ++ u8 x.members.length ++ u8 0
          ++ u8 page.length ++ page.flatMap (fun q => u8 q.val ++ u8 0)
      | .peer ps =>
        u8 x.number.val ++ u8 2 ++ u8 x.members.length ++ (u8 1 ++ u8 ps.length)
          ++ u8 page.length ++ page.flatMap (fun q => u8 q.val ++ (u8 1 ++ yes (ps.contains q)))
    let slots (f : Slot → Bool) : List Byte :=
      u8 (allSlots.filter f).length ++ (allSlots.filter f).flatMap fun i => u8 (i.val + 1)
    let slot (i : Slot) : List Byte :=
      let r := z.slots.get i
      u16 r.loaded.toNat ++ encCatchUp r.result ++ yes r.catchUp ++ opt encStatus r.status
        ++ opt encTime r.ackDeadline ++ encSlotPower (s.slotRec i).power
    let entry (g : Nat) (e : HistoryEntry) : List Byte :=
      u8 g ++ u32 e.time ++ u8 e.cls.number ++ u16 e.number ++ encTransition e.transition
        ++ yes e.injected ++ u8 e.level ++ u32 e.epoch
    let ring : List Byte :=
      encHalfState a.half0.state ++ u8 a.half0.entries.length ++ encHalfState a.half1.state
        ++ u8 a.half1.entries.length ++
        (match fillingHalf a with
        | none => u8 0 ++ u8 0
        | some h =>
          (u8 1 ++ u8 h.val) ++ (u8 1 ++ u8 (32 * h.val + (halfAt a h).entries.length)))
        ++ yes a.overrun
    forms (.readEntitlements c tag) 0x47 .done
      (u8 l.table.length ++ l.table.zipIdx.flatMap fun x =>
        u8 x.2 ++ u32 x.1.id ++ u16 x.1.units.toNat ++ [x.1.ceiling] ++ be 8 x.1.serial.toNat)
    ∧ forms (.readZoneStatus c tag) 0x5D .done
      (txn
        ++ (match z.txn with
          | .computing _ hold => u8 1 ++ yes hold
          | _ => u8 0)
        ++ u16 z.active.generation.toNat ++ counts z.active.table ++ encZoning s.straps.zoning
        ++ pending ++ counts (table .pending) ++ encEngine z.main ++ opt yes z.hold
        ++ slots (fun i => (z.slots.get i).status.isSome) ++ slots (fun i => (z.slots.get i).catchUp)
        ++ opt (fun i : Slot => u8 (i.val + 1)) z.catchUpSlot ++ allSlots.flatMap slot)
    ∧ (n.toNat ≤ 255 →
      forms (.readGrantList c tag n) 0x45 .done
        (u8 ((l.grants.drop n.toNat).take 32).length
          ++ ((l.grants.drop n.toNat).take 32).flatMap (fun g => u8 g.port.val ++ encClass g.cls)
          ++ u16 l.grants.length)
      ∧ forms (.readWaitQueue c tag n) 0x46 .done
        (u8 ((l.waiting.drop n.toNat).take 32).length
          ++ ((l.waiting.drop n.toNat).take 32).flatMap (fun q =>
            let k := (ceilingOf l).map (l.ports.get q).requested.smaller
            u8 q.val ++ encClass (l.ports.get q).requested ++ encClassOrNone k
              ++ opt (fun x : PortClass => u8 x.code) k)
          ++ u16 l.waiting.length))
    ∧ (255 < n.toNat → refuses (.readGrantList c tag n) 0x45 []
      ∧ refuses (.readWaitQueue c tag n) 0x46 [])
    ∧ (∀ x, levelOf level = some x → n.toNat ≤ 255 → position.toNat ≤ 63 →
      (∀ y, ((table x).find? fun y => n.toNat ≤ y.number.val) = some y →
        forms (.readZone c tag level n position) 0x56 .done (summary x ++ zone y))
      ∧ ((∀ y ∈ table x, y.number.val < n.toNat) →
        forms (.readZone c tag level n position) 0x56 .notFound (summary x)))
    ∧ (levelOf level = none → refuses (.readZone c tag level n position) 0x56 [])
    ∧ (∀ x, levelOf level = some x → (255 < n.toNat ∨ 63 < position.toNat) →
      refuses (.readZone c tag level n position) 0x56 (summary x))
    ∧ (∀ h : Fin 2, half.toNat = h.val → count.toNat ≠ 0 → first.toNat + count.toNat ≤ 32 →
      let es := ((halfAt a h).entries.drop first.toNat).take count.toNat
      forms (.readHistory c tag half first count) 0x69 .done
        (u8 es.length
          ++ es.zipIdx.flatMap (fun x => entry (32 * h.val + first.toNat + x.2) x.1) ++ ring))
    ∧ ((1 < half.toNat ∨ count.toNat = 0 ∨ 32 < first.toNat + count.toNat) →
      refuses (.readHistory c tag half first count) 0x69 ring)

/-- R190 and R191: READ TIME answers the count of the time base, and READ IDENTITY the device code, the
revision, the link, the chassis serial (absent while UNREAD, R198) and the latched straps. The bytes of the
straps are log 11 (DEDUCED). -/
def Obligations.TimeAndIdentityAreRead : Prop :=
  ∀ (c : Cp) (tag : BitVec 4) (s : State), Ready c s →
    exec (.readTime c tag) s
      = .next (arbitrate ((s.heard c).answered c tag 0x70 .done (encTime s.time)))
    ∧ exec (.readIdentity c tag) s
      = .next (arbitrate ((s.heard c).answered c tag 0x71 .done
          (u16 0x7140 ++ u8 1 ++ encCp c
            ++ (match s.serial with
              | none => u8 0
              | some v => u8 1 ++ be 8 v.toNat)
            ++ u16 s.straps.period.ms ++ encTakeover s.straps.takeover
            ++ encPolicy s.straps.policy ++ encZoning s.straps.zoning)))

/-! ### The line bus -/

/-- R44: SET MAINTENANCE FIELD, from a SILENT CP (R16), from a non-holder (R185), and from the holder in the
order it is judged. Transactions that wait or are on the bus keep their lines. That BAD_PARAM carries both
fields is log 10 (DEDUCED). -/
def Obligations.MaintenanceFieldIsSet : Prop :=
  ∀ (c : Cp) (tag : BitVec 4) (target : Byte) (base length : BitVec 16) (s : State),
    (s.link.get c).up = true → (s.link.get c).resetHeld = false →
    (s.link.get c).current = none → (s.link.get c).queue = [] →
    let row := exec (.setMaintenanceField c tag target base length) s
    let fields (t : State) : List Byte :=
      u16 (t.bus.maint.get .a).base ++ u16 (t.bus.maint.get .a).length
        ++ u16 (t.bus.maint.get .b).base ++ u16 (t.bus.maint.get .b).length
    let fits : Prop := 3072 ≤ base.toNat ∧ base.toNat ≤ 4095 ∧ length.toNat ≤ 1024
      ∧ base.toNat + length.toNat ≤ 4096
    (s.auth.presence.get c = .silent →
      row = .next (arbitrate ((s.heard c).answered c tag 0x10 .silent [])))
    ∧ (s.auth.presence.get c ≠ .silent → s.auth.holder ≠ some c →
      row = .next (arbitrate ((s.heard c).answered c tag 0x10 .notHolder [])))
    ∧ (s.auth.presence.get c ≠ .silent → s.auth.holder = some c →
      ((target.toNat ≠ 1 ∧ target.toNat ≠ 2) ∨ ¬ fits) →
      row = .next (arbitrate ((s.heard c).answered c tag 0x10 .badParam (fields s))))
    ∧ (∀ x : Cp, s.auth.presence.get c ≠ .silent → s.auth.holder = some c →
      target.toNat = cpNumber x → fits →
      ∃ t, t = (s.heard c).modBus (fun b =>
          { b with maint := b.maint.put x ⟨base.toNat, length.toNat⟩ })
        ∧ row = .next (arbitrate (t.answered c tag 0x10 .done (fields t))))

/-- R45, R46 and R47: the line-bus requests are checked when they are taken; one that passes joins class 3
with its absolute lines, and stays in execution. The ranges are those of R27. The end of its transaction
frees the bus and completes it, with the outcome, the lines, and what was read; after a link DOWN the
response is dropped (R189). The port then takes its next request (R187), as TransferReadCompletes says.
That BOUNDS and BAD_PARAM carry no results is log 10, the two bytes of the data log 11 (both DEDUCED). -/
def Obligations.LineBusRequestsGoThroughTheArbiter : Prop :=
  (∀ (c : Cp) (tag : BitVec 4) (line first : BitVec 16) (count : Byte) (data : BitVec 16)
      (s : State), Ready c s →
    let f := s.bus.maint.get c
    let n := if count.toNat = 0 then 16 else count.toNat
    let joins (i : Instr) (code : Byte) (kind : MaintKind) (t : Txn) (l k : Nat) : Prop :=
      exec i s = .next (arbitrate (((s.heard c).modBus fun b =>
        { b with class3 := b.class3 ++ [(c, t)] }).inExecution c tag code (.lineBus kind l k)))
    let refused (i : Instr) (code : Byte) (o : OutcomeCode) : Prop :=
      exec i s = .next (arbitrate ((s.heard c).answered c tag code o []))
    (line.toNat < f.length →
      joins (.maintTest c tag line) 0x11 .test (.test (f.base + line.toNat)) (f.base + line.toNat) 1
      ∧ joins (.maintSet c tag line) 0x12 .set (.set (f.base + line.toNat)) (f.base + line.toNat) 1
      ∧ joins (.maintClear c tag line) 0x13 .clear (.clear (f.base + line.toNat))
          (f.base + line.toNat) 1)
    ∧ (f.length ≤ line.toNat →
      refused (.maintTest c tag line) 0x11 .bounds ∧ refused (.maintSet c tag line) 0x12 .bounds
      ∧ refused (.maintClear c tag line) 0x13 .bounds)
    ∧ (count.toNat ≤ 16 → first.toNat + n ≤ f.length →
      joins (.maintFieldRead c tag first count) 0x14 .fieldRead (.read (f.base + first.toNat) n)
          (f.base + first.toNat) n
      ∧ joins (.maintFieldWrite c tag first count data) 0x15 .fieldWrite
          (.write (f.base + first.toNat) n data) (f.base + first.toNat) n)
    ∧ (count.toNat ≤ 16 → f.length < first.toNat + n →
      refused (.maintFieldRead c tag first count) 0x14 .bounds
      ∧ refused (.maintFieldWrite c tag first count data) 0x15 .bounds)
    ∧ (16 < count.toNat →
      refused (.maintFieldRead c tag first count) 0x14 .badParam
      ∧ refused (.maintFieldWrite c tag first count data) 0x15 .badParam)
    ∧ (first.toNat ≤ 3071 → count.toNat ≤ 16 → fieldFits first.toNat n = true →
      joins (.senseRead c tag first count) 0x16 .senseRead (.read first.toNat n) first.toNat n)
    ∧ (first.toNat ≤ 3071 → count.toNat ≤ 16 → fieldFits first.toNat n = false →
      refused (.senseRead c tag first count) 0x16 .bounds)
    ∧ ((3071 < first.toNat ∨ 16 < count.toNat) →
      refused (.senseRead c tag first count) 0x16 .badParam))
  ∧ (∀ l n : Nat, l < 4096 →
    (fieldFits l n = true ↔
      ∃ r ∈ (List.range 9).map (fun i => (256 * i, 256))
          ++ (List.range 4).map (fun i => (2304 + 64 * i, 64))
          ++ (List.range 3).map (fun i => (2560 + 128 * i, 128)) ++ [(2944, 128), (3072, 1024)],
        r.1 ≤ l ∧ l < r.1 + r.2 ∧ l + n ≤ r.1 + r.2))
  ∧ ∀ (c : Cp) (first again : Answer) (x : Txn) (tag : BitVec 4) (code : Byte) (kind : MaintKind)
    (l n : Nat) (dropped : Bool) (s u : State),
    s.bus.current = some ⟨.maint c, x⟩ →
    (s.link.get c).current = some ⟨tag, code, .lineBus kind l n, dropped⟩ →
    let e := busEnd x first again
    u = (freeBus ⟨.maint c, x⟩ e s).modLink c (fun p => { p with current := none }) →
    let outcome : OutcomeCode :=
      match e with
      | .done _ => .done
      | .noResponse => .noResponse
      | .parity => .parity
    let results : List Byte :=
      match kind, e with
      | .test, .done d => u16 l ++ u8 d.toNat
      | .fieldRead, .done d => u16 l ++ u8 n ++ u16 d.toNat
      | .senseRead, .done d => u16 d.toNat
      | .senseRead, _ => []
      | .fieldRead, _ | .fieldWrite, _ => u16 l ++ u8 n
      | .test, _ | .set, _ | .clear, _ => u16 l
    exec (.maintTransactionEnd first again) s
      = .next (arbitrate
          (serveQueue c (if dropped then u else u.answered c tag code outcome results)))

/-- R29, R31 and R32: how a transaction ends by the answers to it, and what its end leaves. The lines that the
part has driven (log 25, the model's list) follow a SET, CLEAR or FIELD write that ends DONE, but for the
lines that the expander returns to 0 (R149, R155). One to the
unpopulated lines 2944 to 3071 ends NO_RESPONSE whatever answers it. That LINE_BUS_ERROR is taken with the end
itself, ahead of what the outcome leads to, is log 17, the model's choice. The end of a transaction whose
repeat nobody answers is not stated (log 7). -/
def Obligations.TransactionsEnd : Prop :=
  (∀ (t : Txn) (first again : Answer), busEnd t .silent again = .noResponse
    ∧ (2944 ≤ t.first → t.first ≤ 3071 → busEnd t first again = .noResponse))
  ∧ (∀ (l n : Nat) (d : BitVec 16), (Txn.set l).first = l ∧ (Txn.clear l).first = l
    ∧ (Txn.test l).first = l ∧ (Txn.read l n).first = l ∧ (Txn.write l n d).first = l)
  ∧ (∀ (l n : Nat) (d : BitVec 16) (v p q : Bool) (bs cs ds : List Bool) (again : Answer),
    (l < 2944 ∨ 3071 < l) →
    let odd (xs : List Bool) : Prop := (fieldHead l n false ++ xs).countP id % 2 = 1
    busEnd (.set l) (.bits ds) again = .done 0
    ∧ busEnd (.clear l) (.bits ds) again = .done 0
    ∧ busEnd (.test l) (.bits (v :: ds)) again = .done (if v then 1 else 0)
    ∧ busEnd (.write l n d) (.bits (true :: ds)) again = .done 0
    ∧ busEnd (.write l n d) (.bits (false :: ds)) (.bits (true :: ds)) = .done 0
    ∧ busEnd (.write l n d) (.bits (false :: ds)) (.bits (false :: ds)) = .parity
    ∧ (bs.length = n → odd (bs ++ [p]) →
        busEnd (.read l n) (.bits (bs ++ [p])) again = .done (packBits bs))
    ∧ (bs.length = n → cs.length = n → ¬ odd (bs ++ [p]) → odd (cs ++ [q]) →
        busEnd (.read l n) (.bits (bs ++ [p])) (.bits (cs ++ [q])) = .done (packBits cs))
    ∧ (bs.length = n → cs.length = n → ¬ odd (bs ++ [p]) → ¬ odd (cs ++ [q]) →
        busEnd (.read l n) (.bits (bs ++ [p])) (.bits (cs ++ [q])) = .parity))
  ∧ (∀ (bs : List Bool) (k : Nat), k < 16 → (packBits bs).getLsbD k = bs.getD k false)
  ∧ (∀ (l n m : Nat) (d : BitVec 16) (ms : List Nat),
    (m ∈ driveTxn (.set l) ms ↔ m = l ∨ m ∈ ms)
    ∧ (m ∈ driveTxn (.clear l) ms ↔ m ≠ l ∧ m ∈ ms)
    ∧ (m ∈ driveTxn (.write l n d) ms ↔
      if l ≤ m ∧ m < l + n then d.getLsbD (m - l) = true else m ∈ ms)
    ∧ driveTxn (.test l) ms = ms ∧ driveTxn (.read l n) ms = ms)
  ∧ ∀ (t : OnBus) (e : BusEnd) (d : BitVec 16) (s : State),
    let frees (ms : List Nat) : State := s.modBus fun b => { b with current := none, driven := ms }
    let returns : Prop := t.owner = .strobe ∨ ∃ i ignored, t.owner = .slotActivate i ignored
    (e = .done d → ¬ returns → freeBus t e s = frees (driveTxn t.txn s.bus.driven))
    ∧ (((e = .done d ∧ returns) ∨ e = .noResponse) → freeBus t e s = frees s.bus.driven)
    ∧ (e = .parity → freeBus t e s =
        (if t.owner = .activateField then id else occurEvent .lineBusError 1 false)
          (frees s.bus.driven))

/-- R33, R35 and R36: what the arbiter grants. R34: an entry for a slot or tray that is not reported PRESENT
leaves class 1 without a transaction; those of the midplane and the activation writes are always granted. -/
def Obligations.ArbiterGrants : Prop :=
  ∀ s : State,
    let onto (t : OnBus) (n : Nat) (f : Bus → Bus) : State :=
      s.modBus fun b => { f b with current := some t, grants := n }
    (s.bus.current.isSome = true → arbitrate s = s)
    ∧ (∀ t, s.bus.current = none → s.bus.grants = 16 → s.bus.class4 = true → scanGrant s = some t →
        arbitrate s = onto t 0 fun b => { b with class4 := false })
    ∧ (s.bus.current = none → (s.bus.grants ≠ 16 ∨ s.bus.class4 = false) →
      (∀ e es, s.bus.class1 = e :: es →
        (e.due s.bus = true →
          arbitrate s = onto (class1Grant s e) 0 fun b => { b with class1 := es })
        ∧ (e.due s.bus = false → arbitrate s = arbitrate (s.modBus fun b => { b with class1 := es })))
      ∧ (∀ w, s.bus.class1 = [] → s.bus.class2 = some w →
        arbitrate s = onto ⟨.loading w.slot false, w.txn⟩ (min 16 (s.bus.grants + 1))
          fun b => { b with class2 := none })
      ∧ (∀ m, s.bus.class1 = [] → s.bus.class2 = none → s.bus.class3 = [m] →
        arbitrate s = onto ⟨.maint m.1, m.2⟩ 0 fun b => { b with class3 := [] })
      ∧ (∀ m k, s.bus.class1 = [] → s.bus.class2 = none → s.bus.class3 = [m, k] → m.1 ≠ k.1 →
        (s.auth.holder = some k.1 →
          arbitrate s = onto ⟨.maint k.1, k.2⟩ 0 fun b => { b with class3 := [m] })
        ∧ (s.auth.holder ≠ some k.1 →
          arbitrate s = onto ⟨.maint m.1, m.2⟩ 0 fun b => { b with class3 := [k] }))
      ∧ (∀ t, s.bus.class1 = [] → s.bus.class2 = none → s.bus.class3 = [] → s.bus.class4 = true →
        scanGrant s = some t → arbitrate s = onto t 0 fun b => { b with class4 := false })
      ∧ (s.bus.class1 = [] → s.bus.class2 = none → s.bus.class3 = [] → s.bus.class4 = false →
        arbitrate s = s))
    ∧ (∀ (i : Slot) (h : Fin 2) (q : Fin 4) (y : Tray),
      (Class1.held .indicator).due s.bus = true
      ∧ (Class1.held (.powerEnable i)).due s.bus = (s.bus.slotSeen.get i).present
      ∧ (Class1.held (.portEnable i h)).due s.bus = (s.bus.slotSeen.get i).present
      ∧ (Class1.held (.portClass i q)).due s.bus = (s.bus.slotSeen.get i).present
      ∧ (Class1.held (.duty y)).due s.bus = (s.bus.traySeen.get y).present
      ∧ Class1.activateField.due s.bus = true ∧ Class1.strobe.due s.bus = true
      ∧ (Class1.slotActivate i).due s.bus = true)

/-- R34, R28 and R95: a changed held field joins once, at the tail; its write is formed at the grant from
the owner's records; HELD_FIELD_WRITE_END changes no record of the owner. R149 and R155: the lines and the
value of the activation writes. No write of the part drives a SENSE line. -/
def Obligations.HeldFieldsAreWritten : Prop :=
  (∀ (f : HeldField) (s : State),
    (Class1.held f ∈ s.bus.class1 → joinHeld f s = s)
    ∧ (Class1.held f ∉ s.bus.class1 →
      joinHeld f s = s.modBus fun b => { b with class1 := b.class1 ++ [.held f] })
    ∧ class1Grant s (.held f) = ⟨.held f, heldTxn s f⟩)
  ∧ (∀ (i : Slot) (s : State),
    class1Grant s .activateField = ⟨.activateField, .write 144 16 (pendingGeneration s.zone)⟩
    ∧ class1Grant s .strobe = ⟨.strobe, .set 160⟩
    ∧ class1Grant s (.slotActivate i) = ⟨.slotActivate i false, .set (256 * (i.val + 1) + 209)⟩)
  ∧ (∀ (i : Slot) (y : Tray) (s : State),
    heldTxn s (.powerEnable i) = (if (s.slotRec i).power.drawing then .set (256 * (i.val + 1) + 64)
      else .clear (256 * (i.val + 1) + 64))
    ∧ heldTxn s (.duty y) = .write (2560 + 128 * y.val + 96) 7 (BitVec.ofNat 16 s.cool.duty)
    ∧ (∃ v : BitVec 16, heldTxn s .indicator = .write 128 4 v
      ∧ v.toNat = s.alarm.led.code + (if s.auth.holder = some .a then 4 else 0)
          + (if s.auth.holder = some .b then 8 else 0))
    ∧ (∀ (h : Fin 2), ∃ v : BitVec 16,
      heldTxn s (.portEnable i h) = .write (256 * (i.val + 1) + 80 + 16 * h.val) 16 v
      ∧ ∀ (m : Fin 16) (p : Port), p.val = 32 * i.val + 16 * h.val + m.val →
        v.getLsbD m.val = (s.portExists p && (s.power.ports.get p).isEnabled))
    ∧ ∀ (q : Fin 4), ∃ v : BitVec 16,
      heldTxn s (.portClass i q) = .write (256 * (i.val + 1) + 112 + 16 * q.val) 16 v
      ∧ ∀ (m : Fin 8) (p : Port), p.val = 32 * i.val + 8 * q.val + m.val →
        let code : Nat :=
          match s.portExists p, grantOf s.lic p with
          | true, some g => g.cls.code
          | _, _ => 0
        v.getLsbD (2 * m.val) = code.testBit 0 ∧ v.getLsbD (2 * m.val + 1) = code.testBit 1)
  ∧ (∀ (f : HeldField) (x : Txn) (first again : Answer) (s : State),
    s.bus.current = some ⟨.held f, x⟩ →
    exec (.heldFieldWriteEnd first again) s
      = .next (arbitrate (freeBus ⟨.held f, x⟩ (busEnd x first again) s)))
  ∧ ∀ (s : State) (e : Class1) (j : LoadJob) (st : ScanStep),
    (class1Grant s e).txn.drivesSense = false ∧ (loadTxn s j).drivesSense = false
    ∧ (scanStepTxn s st).drivesSense = false

/-! ### The scan -/

/-- R37: at a whole multiple of 20 ms, from 20 onward, a scan mark starts a pass, ahead of which an attempt
reads an UNREAD serial (R198); while the engine is RUNNING it sets the start-pending flag. At another time, or
at a mark that has been taken, the command does nothing: the model's choice (log 3), as is what names the mark
taken (log 2). -/
def Obligations.ScanMarkStartsAPass : Prop :=
  ∀ (s t : State), t = { s with lastMark := s.time } →
    let mark : Prop := 20 ≤ s.time.toNat ∧ s.time.toNat % 20 = 0 ∧ s.lastMark ≠ s.time
    (∀ v, mark → s.bus.scan = .idle → s.serial = some v →
      exec .scanMark s = .next (arbitrate
        (t.modBus fun b => { b with scan := .pass (.sensor 0), class4 := true })))
    ∧ (mark → s.bus.scan = .idle → s.serial = none →
      exec .scanMark s = .next (arbitrate
        (t.modBus fun b => { b with scan := .serial [] true, class4 := true })))
    ∧ (mark → s.bus.scan ≠ .idle →
      exec .scanMark s = .next (arbitrate (t.modBus fun b => { b with startPending := true })))
    ∧ (¬ mark → exec .scanMark s = .next (arbitrate s))

/-- R39: how a presence reading changes a debounce record, and which reading an answer gives; what follows
the presence and identity reads of a slot (R38 to R41). The power-good value of the pass of a rise has no
effect (R79). When the ACK read is decided is log 19, that identity reads go on after a failed one log 18 (both
DEDUCED). Then what a rise and a loss leave in the slot record, the ports, the budget and the alarm rows (R78
to R80), and the License Unit's part of both (R114). When BUDGET_TIGHT is evaluated is log 16 (DEDUCED), that
SLOT_FAULT is handed ahead of it at a loss log 17 (the model's choice). -/
def Obligations.PresenceIsDebounced : Prop :=
  (∀ (present differing : Bool) (d : BitVec 16),
    Debounce.take none ⟨present, differing⟩ = (⟨present, differing⟩, .nothing)
    ∧ Debounce.take (some true) ⟨true, differing⟩ = (⟨true, false⟩, .present)
    ∧ Debounce.take (some false) ⟨false, differing⟩ = (⟨false, false⟩, .nothing)
    ∧ Debounce.take (some (!present)) ⟨present, false⟩ = (⟨present, true⟩, .nothing)
    ∧ Debounce.take (some false) ⟨true, true⟩ = (⟨false, false⟩, .loss)
    ∧ Debounce.take (some true) ⟨false, true⟩ = (⟨false, true⟩, .riseDue)
    ∧ readingOf (.done d) = some (d.getLsbD 0) ∧ readingOf .noResponse = some false
    ∧ readingOf .parity = none)
  ∧ (∀ (i : Slot) (awaited : Bool) (e : BusEnd) (s t : State),
    t = putSlotSeen i ((s.bus.slotSeen.get i).take (readingOf e)).1 s →
    scanStepEnded (.slotLines i awaited) e s =
      match ((s.bus.slotSeen.get i).take (readingOf e)).2 with
      | .nothing => afterSlotReads i awaited t
      | .present => afterSlotReads i awaited (powerGood i (lineOf e 1) t)
      | .loss => afterSlotReads i awaited (slotLoss i t)
      | .riseDue => scanTo (.slotIdentity i awaited []) t)
  ∧ (∀ (i : Slot) (awaited : Bool) (x kind base ports : BitVec 16) (e : BusEnd) (s : State),
    scanStepEnded (.slotIdentity i awaited []) e s = scanTo (.slotIdentity i awaited [e.data]) s
    ∧ scanStepEnded (.slotIdentity i awaited [some x]) e s
      = scanTo (.slotIdentity i awaited [some x, e.data]) s
    ∧ scanStepEnded (.slotIdentity i awaited [none]) e s
      = scanTo (.slotIdentity i awaited [none, e.data]) s
    ∧ scanStepEnded (.slotIdentity i awaited [some kind, some base]) (.done ports) s
      = afterSlotReads i awaited (slotRise i (cardRead (kind.setWidth 8) base.toNat ports.toNat)
          (putSlotSeen i ⟨true, false⟩ s))
    ∧ (e.data = none → scanStepEnded (.slotIdentity i awaited [some kind, some base]) e s
        = afterSlotReads i awaited s)
    ∧ scanStepEnded (.slotIdentity i awaited [none, some base]) e s = afterSlotReads i awaited s
    ∧ scanStepEnded (.slotIdentity i awaited [some kind, none]) e s = afterSlotReads i awaited s
    ∧ scanStepEnded (.slotIdentity i awaited [none, none]) e s = afterSlotReads i awaited s)
  ∧ (∀ (kind : Byte) (base ports : Nat), cardRead kind base ports
      = ⟨kind, min base 1000, if 1 ≤ ports ∧ ports ≤ 32 then ports else 32⟩)
  ∧ (∀ (i : Slot) (x : Card) (s t : State), t = slotRise i x s →
    (t.slotRec i).card = some x ∧ (t.slotRec i).admin = (s.slotRec i).admin
    ∧ (t.slotRec i).priority = (s.slotRec i).priority
    ∧ ((s.slotRec i).admin = false → (t.slotRec i).power = .off)
    ∧ ((s.slotRec i).admin = true → (t.slotRec i).power = .denied .waiting
        ∨ (t.slotRec i).power = .powering (s.time + 1000))
    ∧ ∃ v, v = licenseRise i (handSettled .budgetTight 1 (modSlot i (fun r =>
          { r with card := some x, power := if r.admin then .denied .waiting else .off }) s))
      ∧ t = recompute (eventSettled .slotChange (i.val + 1) v)
      ∧ (∀ j, j ≠ i → v.slotRec j = s.slotRec j)
      ∧ (∀ p, portSlot p = i → v.power.ports.get p = s.power.ports.get p)
      ∧ v.power.avail = s.power.avail ∧ v.cool.settled = s.cool.settled)
  ∧ (∀ (i : Slot) (p : Port) (ps : List Port) (ns : List Notice) (s u : State),
    let ports : List Port := (List.range 32).map fun k => Fin.ofNat 256 (32 * i.val + k)
    let asks : Prop := (s.lic.ports.get p).up = true ∧ s.portExists p = true
      ∧ licenseState s.lic p = .none
    let lost := losePorts ports s
    licenseRise i s = ports.foldl (fun w q => riseStep q w) s
    ∧ (¬ asks → riseStep p s = s)
    ∧ (asks → ∀ r, r = portUp p (s.lic.ports.get p).requested s →
      riseStep p s = (endStep s.lic r.2.1 r.1).1)
    ∧ licenseLoss i s = (endStep s.lic lost.2 lost.1).1
    ∧ losePorts [] s = (s, [])
    ∧ (losePort p s = (u, ns) →
      losePorts (p :: ps) s = ((losePorts ps u).1, ns ++ (losePorts ps u).2))
    ∧ (∀ k, licenseState s.lic p = .granted k → losePort p s = (releasePort p s, [.release p]))
    ∧ (licenseState s.lic p = .waiting → losePort p s = (s.modLic fun l =>
        { l with waiting := l.waiting.filter fun q => q ≠ p }, []))
    ∧ (licenseState s.lic p = .none → losePort p s = (s, [])))
  ∧ ∀ (i : Slot) (s t : State), s.portsPowered → s.lic.consistent → t = slotLoss i s →
    (t.slotRec i).card = none ∧ (t.slotRec i).power = .empty
    ∧ (t.slotRec i).admin = (s.slotRec i).admin ∧ (t.slotRec i).priority = (s.slotRec i).priority
    ∧ (∀ p, portSlot p = i → t.power.ports.get p = .off
        ∧ (∀ g ∈ t.lic.grants, g.port ≠ p) ∧ p ∉ t.lic.waiting)
    ∧ t.lic.ports = s.lic.ports
    ∧ ∃ u v, u = (if (s.slotRec i).power.drawing then
            modSlot i (fun r => { r with card := none }) (leavePower i .empty s)
          else handSettled .budgetTight 1 (handSettled .slotFault (i.val + 1)
            (modSlot i (fun r => { r with card := none, power := .empty }) s)))
      ∧ v = licenseLoss i u ∧ t = recompute (eventSettled .slotChange (i.val + 1) v)
      ∧ (∀ j, j ≠ i → v.slotRec j = s.slotRec j)
      ∧ v.power.avail = s.power.avail ∧ v.cool.settled = s.cool.settled

/-- The transaction of each entry of the scan list, its first line and its count (R28, R38).
SCAN_TRANSACTION_END (R38 to R42): the reading is handed on and the pass goes on with its next entry.
An ACK value that matches makes a slot LOADED (R145), or ends the wait of a catch-up (R155); a supply's or
a tray's rise is reported only when its identity reads ended DONE (R40); the rewrite ends the pass, and a
pending pass follows (R37, R198). At the end of a pass every slot's ACK deadline is judged, in ascending slot
(R145, R155). When the ACK read is decided is log 19, that identity reads go on after a failed one log 18 (both
DEDUCED), the order of the rewrite among the FRUs is log 36; that LINE_BUS_ERROR stands ahead of what the
reading leads to, and the Cooling Controller's part of a pass completion ahead of the deadlines, is log 17 (both
the model's choice). -/
def Obligations.ScanTransactionEnds : Prop :=
  (∀ (x : Txn) (st : ScanStep) (first again : Answer) (s : State),
    s.bus.current = some ⟨.scan, x⟩ → s.bus.scan = .pass st →
    let e := busEnd x first again
    exec (.scanTransactionEnd first again) s
      = .next (arbitrate (scanStepEnded st e (freeBus ⟨.scan, x⟩ e s))))
  ∧ (∀ (w : Fin 2) (i : Slot) (b : Bay) (y : Tray) (r : Rotor) (awaited inputOk outputOk rise : Bool)
    (k l : Option (BitVec 16)) (f : HeldField) (rest : List HeldField) (s : State),
    let slot := 256 * (i.val + 1)
    let bay := 2304 + 64 * b.val
    let tray := 2560 + 128 * y.val
    (s.bus.scan = .idle → scanGrant s = none)
    ∧ (∀ st, s.bus.scan = .pass st → scanGrant s = some ⟨.scan, scanStepTxn s st⟩)
    ∧ scanStepTxn s (.sensor w) = .read (72 + 9 * w.val) 9
    ∧ scanStepTxn s (.slotLines i awaited) = .read slot 2
    ∧ scanStepTxn s (.slotIdentity i awaited []) = .read (slot + 2) 8
    ∧ scanStepTxn s (.slotIdentity i awaited [k]) = .read (slot + 10) 10
    ∧ scanStepTxn s (.slotIdentity i awaited [k, l]) = .read (slot + 20) 6
    ∧ scanStepTxn s (.slotAck i) = .read (slot + 32) 16
    ∧ scanStepTxn s (.bayLines b) = .read bay 3
    ∧ scanStepTxn s (.bayIdentity b inputOk outputOk []) = .read (bay + 16) 16
    ∧ scanStepTxn s (.bayIdentity b inputOk outputOk [k]) = .read (bay + 32) 1
    ∧ scanStepTxn s (.trayLine y) = .test tray
    ∧ scanStepTxn s (.trayIdentity y) = .read (tray + 80) 16
    ∧ scanStepTxn s (.rotor y r rise) = .read (tray + 16 + 16 * r.val) 16
    ∧ scanStepTxn s (.rewrite f rest) = heldTxn s f)
  ∧ (∀ (st : ScanStep) (i j : Slot) (b b' : Bay) (y y' : Tray) (s : State),
    scanTo st s = s.modBus (fun x => { x with scan := .pass st, class4 := true })
    ∧ afterSlotReads i true s = scanTo (.slotAck i) s ∧ afterSlotReads i false s = afterSlot i s
    ∧ (j.val = i.val + 1 →
      afterSlot i s = scanTo (.slotLines j (s.zone.slots.get j).ackDeadline.isSome) s)
    ∧ afterSlot 7 s = scanTo (.bayLines 0) s
    ∧ (b'.val = b.val + 1 → afterBay b s = scanTo (.bayLines b') s)
    ∧ afterBay 3 s = scanTo (.trayLine 0) s
    ∧ (y'.val = y.val + 1 → afterTray y s = scanTo (.trayLine y') s)
    ∧ (∀ f rest, rewriteList s.bus = f :: rest → afterTray 2 s = scanTo (.rewrite f rest) s))
  ∧ (∀ (e : BusEnd) (s : State),
    let reading : SensorReading :=
      match e with
      | .done d => some ((d.setWidth 8).toInt, d.getLsbD 8)
      | _ => none
    let u := updateTIn (sensorReading 1 reading s)
    scanStepEnded (.sensor 0) e s = scanTo (.sensor 1) (sensorReading 0 reading s)
    ∧ scanStepEnded (.sensor 1) e s
      = scanTo (.slotLines 0 (u.zone.slots.get 0).ackDeadline.isSome) u)
  ∧ (∀ (i : Slot) (d : BitVec 16) (e : BusEnd) (s : State),
    let r := s.zone.slots.get i
    scanStepEnded (.slotAck i) (.done d) s = afterSlot i (ackValue i d s)
    ∧ (e.data = none → scanStepEnded (.slotAck i) e s = afterSlot i s)
    ∧ (s.zone.catchUpSlot ≠ some i → r.status = some .awaitAck → d = pendingGeneration s.zone →
      ackValue i d s = goOn (modZoneSlot i
        (fun r => { r with status := some .loaded, loaded := d, ackDeadline := none }) s))
    ∧ (s.zone.catchUpSlot ≠ some i →
      (r.status ≠ some .awaitAck ∨ d ≠ pendingGeneration s.zone) → ackValue i d s = s)
    ∧ (s.zone.catchUpSlot = some i → r.ackDeadline ≠ none → d = s.zone.active.generation →
      ackValue i d s = joinClass1 (.slotActivate i)
        (modZoneSlot i (fun r => { r with ackDeadline := none }) s))
    ∧ (s.zone.catchUpSlot = some i → (r.ackDeadline = none ∨ d ≠ s.zone.active.generation) →
      ackValue i d s = s))
  ∧ (∀ (b : Bay) (inputOk outputOk : Bool) (rated kind : BitVec 16) (e : BusEnd) (s t : State),
    t = putBaySeen b ((s.bus.baySeen.get b).take (readingOf e)).1 s →
    scanStepEnded (.bayLines b) e s =
      (match ((s.bus.baySeen.get b).take (readingOf e)).2 with
      | .nothing => afterBay b t
      | .present => afterBay b (supplyLines b (lineOf e 1) (lineOf e 2) t)
      | .loss => afterBay b (supplyLoss b t)
      | .riseDue => scanTo (.bayIdentity b (lineOf e 1) (lineOf e 2) []) t)
    ∧ scanStepEnded (.bayIdentity b inputOk outputOk []) e s
      = scanTo (.bayIdentity b inputOk outputOk [e.data]) s
    ∧ scanStepEnded (.bayIdentity b inputOk outputOk [some rated]) (.done kind) s
      = afterBay b (supplyRise b rated.toNat (if kind.getLsbD 0 then .highLine else .lowLine)
          inputOk outputOk (putBaySeen b ⟨true, false⟩ s))
    ∧ (e.data = none → scanStepEnded (.bayIdentity b inputOk outputOk [some rated]) e s = afterBay b s)
    ∧ scanStepEnded (.bayIdentity b inputOk outputOk [none]) e s = afterBay b s)
  ∧ (∀ (y : Tray) (r r' : Rotor) (rise : Bool) (d : BitVec 16) (e : BusEnd) (s t u : State),
    t = putTraySeen y ((s.bus.traySeen.get y).take (readingOf e)).1 s →
    u = (if rise then rotorAtRise y r (e.data.map BitVec.toNat) s
      else rotorSpeed y r (e.data.map BitVec.toNat) s) →
    scanStepEnded (.trayLine y) e s =
      (match ((s.bus.traySeen.get y).take (readingOf e)).2 with
      | .nothing => afterTray y t
      | .present => scanTo (.rotor y 0 false) t
      | .loss => afterTray y (trayLoss y t)
      | .riseDue => scanTo (.trayIdentity y) t)
    ∧ scanStepEnded (.trayIdentity y) (.done d) s
      = scanTo (.rotor y 0 true) (trayRise y d.toNat (putTraySeen y ⟨true, false⟩ s))
    ∧ (e.data = none → scanStepEnded (.trayIdentity y) e s = afterTray y s)
    ∧ (r'.val = r.val + 1 → scanStepEnded (.rotor y r rise) e s = scanTo (.rotor y r' rise) u)
    ∧ (r = 3 → scanStepEnded (.rotor y r rise) e s = afterTray y u))
  ∧ (∀ (e : BusEnd) (f g : HeldField) (rest : List HeldField) (s u : State),
    u = judgeAckDeadlines (coolingPass s) →
    scanStepEnded (.rewrite f (g :: rest)) e s = scanTo (.rewrite g rest) s
    ∧ (s.bus.startPending = false → scanStepEnded (.rewrite f []) e s =
        u.modBus fun b => { b with scan := .idle })
    ∧ (s.bus.startPending = true → s.serial ≠ none → scanStepEnded (.rewrite f []) e s =
        u.modBus fun b => { b with startPending := false, scan := .pass (.sensor 0), class4 := true })
    ∧ (s.bus.startPending = true → s.serial = none → scanStepEnded (.rewrite f []) e s =
        u.modBus fun b => { b with startPending := false, scan := .serial [] true, class4 := true }))
  ∧ (∀ (i : Slot) (s : State),
    let r := s.zone.slots.get i
    judgeAckDeadlines s = ([0, 1, 2, 3, 4, 5, 6, 7] : List Slot).foldl (fun w j => judgeAckDeadline j w) s
    ∧ (r.ackDeadline = none → judgeAckDeadline i s = s)
    ∧ ∀ d, r.ackDeadline = some d →
      (reached s.time d = false → judgeAckDeadline i s = s)
      ∧ (reached s.time d = true → s.zone.catchUpSlot ≠ some i → judgeAckDeadline i s = goOn
        (modZoneSlot i (fun r => { r with status := some .failedLoad, ackDeadline := none }) s))
      ∧ (reached s.time d = true → s.zone.catchUpSlot = some i → judgeAckDeadline i s = goOn
        (occurEvent .zoneDistFail 1 false (modZoneSlot i
          (fun r => { r with catchUp := false, ackDeadline := none, result := .failed })
          (s.modZone fun z => { z with job := none, catchUpSlot := none })))))
  ∧ ∀ b : Bus,
    (rewriteList b).length =
      7 * b.slotSeen.toList.countP Debounce.present + b.traySeen.toList.countP Debounce.present + 1
    ∧ (∀ i : Slot, (b.slotSeen.get i).present = true →
      [HeldField.powerEnable i, .portEnable i 0, .portEnable i 1, .portClass i 0, .portClass i 1,
        .portClass i 2, .portClass i 3] <:+: rewriteList b)
    ∧ (∀ y : Tray, (b.traySeen.get y).present = true → HeldField.duty y ∈ rewriteList b)
    ∧ HeldField.indicator ∈ rewriteList b

/-- R198: the chassis serial is read in four pieces, lowest first; four pieces that end DONE give it, and
a failed read ends the attempt with the serial UNREAD. What follows an attempt (the pass that is owed, and
after the power-on attempt a pass only if one is pending) is log 20 (DEDUCED); that a flag set within an owed
attempt stays set is log 41 (the model's choice). -/
def Obligations.SerialIsReadInFourPieces : Prop :=
  ∀ (x : Txn) (got : List (BitVec 16)) (owed : Bool) (first again : Answer) (s u : State),
    s.bus.current = some ⟨.serial, x⟩ → s.bus.scan = .serial got owed →
    u = freeBus ⟨.serial, x⟩ (busEnd x first again) s →
    let row := exec (.serialReadEnd first again) s
    let passes (w : State) : State :=
      w.modBus fun b => { b with scan := .pass (.sensor 0), class4 := true }
    let ends (w : State) : State :=
      if owed then passes w
      else if s.bus.startPending then passes (w.modBus fun b => { b with startPending := false })
      else w.modBus fun b => { b with scan := .idle }
    (∀ d, busEnd x first again = .done d → got.length < 3 → row = .next (arbitrate
      (u.modBus fun b => { b with scan := .serial (got ++ [d]) owed, class4 := true })))
    ∧ (∀ p0 p1 p2 p3, got = [p0, p1, p2] → busEnd x first again = .done p3 → row = .next (arbitrate
      (ends { u with serial := some (BitVec.ofNat 64
        (p0.toNat + 2 ^ 16 * p1.toNat + 2 ^ 32 * p2.toNat + 2 ^ 48 * p3.toNat)) })))
    ∧ ((busEnd x first again).data = none → row = .next (arbitrate (ends u)))
    ∧ scanGrant s = some ⟨.serial, .read (16 * got.length) 16⟩

/-! ### Supplies, fans and temperature -/

/-- R70: the usable output of a supply. -/
def Obligations.UsableOutputOfASupply : Prop :=
  ∀ (rated : Nat) (k : InputKind) (id : Option SupplyIdentity) (st : SupplyState) (tIn : Int),
    (∃ ds : Nat, (ds : Int) = max 0 (min 100 (3 * (tIn - 40)))
      ∧ usableOf .good (some ⟨rated, .highLine⟩) tIn = rated * 20 / 20 * (100 - ds) / 100
      ∧ usableOf .good (some ⟨rated, .lowLine⟩) tIn = rated * 11 / 20 * (100 - ds) / 100)
    ∧ (st ≠ .good → usableOf st id tIn = 0)
    ∧ usableOf .good (some ⟨0, k⟩) tIn = 0
    ∧ (rated ≤ 6000 → usableOf .good (some ⟨rated, k⟩) tIn ≤ 6000)
    ∧ (tIn ≤ 40 → usableOf .good (some ⟨6000, .highLine⟩) tIn = 6000)

/-- R54 and R55: a sensor record after the reading of a pass, and T_in with its assumed flag when both
records have been updated. R52, R55, R56, R61 and R63: what a change of T_in, or of the flag alone, leads to,
and SENSOR_LOST after a reading. R58 and R59: a speed judged against the expected speed; an unfitted position
and a speed before the settle deadline are stored and not judged. Then what the scan's readings leave in
the supply records (R49 to R53) and the tray records (R57, R60), the cooling notice (R61), and what a pass
completion does to the settled flag (R62). That the rotor positions are fixed by the speeds that follow the
rise is log 21 (DEDUCED). The order of the occurrences of one event (PSU_FAULT, PSU_INPUT_LOST, PSU_REMOVED;
TEMP_WARN, TEMP_CRIT; at a tray's loss FAN_ROTOR_FAIL, then FAN_TRAY_ABSENT) is log 17, the model's choice. -/
def Obligations.SensorsAndRotorsAreJudged : Prop :=
  (∀ (v : Int) (r : Sensor),
    judgeSensor (some (v, false)) r = ⟨v, true, 0⟩
    ∧ judgeSensor (some (v, true)) r = ⟨r.last, false, min 4 (r.invalidPasses + 1)⟩
    ∧ judgeSensor none r = ⟨r.last, false, min 4 (r.invalidPasses + 1)⟩)
  ∧ (∀ (c : Cooling) (x y : Sensor), c.sensors = #v[x, y] →
    (x.valid = true → y.valid = true → formTIn c = (max x.last y.last, false))
    ∧ (x.valid = true → y.valid = false → formTIn c = (x.last, false))
    ∧ (x.valid = false → y.valid = true → formTIn c = (y.last, false))
    ∧ (x.valid = false → y.valid = false → x.invalidPasses = 4 → y.invalidPasses = 4 →
        formTIn c = (50, true))
    ∧ (x.valid = false → y.valid = false → (x.invalidPasses ≠ 4 ∨ y.invalidPasses ≠ 4) →
        formTIn c = (c.tIn, c.assumed)))
  ∧ (∀ (w : Fin 2) (reading : SensorReading) (tIn : Int) (assumed : Bool) (s : State),
    sensorReading w reading s = handSettled .sensorLost (w.val + 1)
      (s.modCool fun c => { c with sensors := updAt c.sensors w (judgeSensor reading) })
    ∧ (formTIn s.cool = (tIn, assumed) →
      (tIn ≠ s.cool.tIn → updateTIn s = recomputeDuty (coolingNotice
        (handSettled .tempCrit 1 (handSettled .tempWarn 1 (s.modCool fun c =>
          { c with
            tIn := tIn, assumed := assumed
            supplies := c.supplies.map fun r => { r with usable := usableOf r.state r.identity tIn } })))))
      ∧ (tIn = s.cool.tIn → assumed ≠ s.cool.assumed →
        updateTIn s = recomputeDuty (s.modCool fun c => { c with assumed := assumed }))
      ∧ (tIn = s.cool.tIn → assumed = s.cool.assumed → updateTIn s = s)))
  ∧ (∀ (maximum duty was speed low run : Nat),
    let isLow : Prop := 2 * speed < maximum * duty / 100
    (isLow → low + 1 ≠ 3 →
      judgeRotor maximum duty speed ⟨.good, was, low, run⟩ = ⟨.good, speed, low + 1, run⟩)
    ∧ (isLow → judgeRotor maximum duty speed ⟨.good, was, 2, run⟩ = ⟨.failed, speed, 0, 0⟩)
    ∧ (¬ isLow → judgeRotor maximum duty speed ⟨.good, was, low, run⟩ = ⟨.good, speed, 0, run⟩)
    ∧ (¬ isLow → run + 1 ≠ 10 →
      judgeRotor maximum duty speed ⟨.failed, was, low, run⟩ = ⟨.failed, speed, low, run + 1⟩)
    ∧ (¬ isLow → judgeRotor maximum duty speed ⟨.failed, was, low, 9⟩ = ⟨.good, speed, 0, 0⟩)
    ∧ (isLow → judgeRotor maximum duty speed ⟨.failed, was, low, run⟩ = ⟨.failed, speed, low, 0⟩)
    ∧ judgeRotor maximum duty speed ⟨.notFitted, was, low, run⟩ = ⟨.notFitted, speed, low, run⟩)
  ∧ (∀ (c : Cooling) (now : Time) (y : Tray) (r : Rotor) (speed maximum : Nat),
    (c.trays.get y).maximum = some maximum →
    (reached now (c.trays.get y).settle = true → rotorAfter c now y r speed
      = judgeRotor maximum c.duty speed ((c.trays.get y).rotors.get r))
    ∧ (reached now (c.trays.get y).settle = false → rotorAfter c now y r speed
      = { (c.trays.get y).rotors.get r with measured := speed }))
  ∧ (∀ (b : Bay) (rated : Nat) (input : InputKind) (inputOk outputOk : Bool) (s : State),
    let old := s.cool.supplies.get b
    let st : SupplyState := if inputOk then if outputOk then .good else .failed else .off
    let put (r : Supply) : State := s.modCool fun c => { c with supplies := updAt c.supplies b fun _ => r }
    let conditions (u : State) : State :=
      handSettled .psuInputLost (b.val + 1) (handSettled .psuFault (b.val + 1) u)
    let identity : SupplyIdentity := ⟨min rated 6000, input⟩
    supplyRise b rated input inputOk outputOk s
      = coolingNotice (conditions (put ⟨st, some identity, usableOf st (some identity) s.cool.tIn⟩))
    ∧ (old.state = st → supplyLines b inputOk outputOk s = s)
    ∧ (old.state ≠ st → supplyLines b inputOk outputOk s
        = coolingNotice (conditions (put ⟨st, old.identity, usableOf st old.identity s.cool.tIn⟩)))
    ∧ supplyLoss b s = coolingNotice (eventSettled .psuRemoved (b.val + 1)
        (conditions (put ⟨.absent, none, 0⟩)))
    ∧ coolingNotice s = recompute (s.modPower fun p => { p with
        input := ⟨s.cool.supplies.map fun r => ⟨r.state, r.usable⟩, s.cool.tIn, goodRotors s.cool⟩ }))
  ∧ (∀ (y : Tray) (r : Rotor) (maximum : Nat) (speed : Option Nat) (s : State),
    let put (f : TrayRec → TrayRec) : State :=
      s.modCool fun c => { c with trays := updAt c.trays y f }
    let putRotor (v : RotorRec) : State :=
      put fun x => { x with rotors := updAt x.rotors r fun _ => v }
    let rotors (u : State) : State :=
      [1, 2, 3, 4].foldl (fun u k => handSettled .fanRotorFail (4 * y.val + k) u) u
    let old := (s.cool.trays.get y).rotors.get r
    let fixed : RotorRec :=
      match speed with
      | none => ⟨.good, 0, 0, 0⟩
      | some v => ⟨if v = 65535 then .notFitted else .good, v, 0, 0⟩
    trayRise y maximum s = recomputeDuty (handSettled .fanTrayAbsent (y.val + 1)
      (put fun x => { x with
        maximum := some (max 2000 (min 20000 maximum)), settle := s.time + 2000 }))
    ∧ trayLoss y s = recomputeDuty (coolingNotice (handSettled .fanTrayAbsent (y.val + 1) (rotors
        (put fun x => { x with maximum := none, rotors := Vector.replicate 4 ⟨.none, 0, 0, 0⟩ }))))
    ∧ (r.val < 3 → rotorAtRise y r speed s = putRotor fixed)
    ∧ (r.val = 3 → rotorAtRise y r speed s
        = recomputeDuty (coolingNotice (rotors (putRotor fixed))))
    ∧ rotorSpeed y r none s = s
    ∧ ∀ v new, new = rotorAfter s.cool s.time y r v →
      (new.fit = old.fit → rotorSpeed y r (some v) s = putRotor new)
      ∧ (new.fit ≠ old.fit → rotorSpeed y r (some v) s = recomputeDuty (coolingNotice
          (handSettled .fanRotorFail (4 * y.val + r.val + 1) (putRotor new)))))
  ∧ ∀ (s : State) (n : Nat), n = min 3 (s.cool.passes + 1) →
    ((n < 3 ∨ s.cool.settled = true) →
      coolingPass s = recomputeDuty (s.modCool fun c => { c with passes := n }))
    ∧ (n = 3 → s.cool.settled = false → ∃ u, coolingPass s = recomputeDuty u
      ∧ u.cool = { s.cool with passes := 3, settled := true } ∧ u.power = s.power ∧ u.zone = s.zone
      ∧ ∀ k ∈ [AlarmClass.psuFault, .psuInputLost, .fanRotorFail, .fanTrayAbsent, .tempWarn, .tempCrit,
          .sensorLost, .budgetTight, .slotFault],
        ∀ m r, 1 ≤ m → m ≤ k.count → condRow? u.alarm k m = some r →
          r.condition = conditionNow s k m)

/-- R64: how the commanded duty is formed, with its reason, and the two terms that stand with it, each absent
when it was not formed (R68). The rotors that count are the GOOD fitted ones of PRESENT trays (R61). -/
def Obligations.DutyIsFormed : Prop :=
  (∀ c : Cooling, goodRotors c =
    (((List.finRange 3).filter fun y => (c.trays.get y).maximum.isSome).map fun y =>
      (List.finRange 4).countP fun r => ((c.trays.get y).rotors.get r).fit = .good).sum)
  ∧ ∀ (a : Authority) (c : Cooling),
    let full : Nat := 450 * goodRotors c
    let forced : Prop := (∃ (y : Tray) (r : Rotor), ((c.trays.get y).rotors.get r).fit = .failed)
      ∨ (∃ y : Tray, (c.trays.get y).maximum = none) ∨ full = 0 ∨ c.assumed = true ∨ 55 ≤ c.tIn
    let d := dutyOf a c
    (a.claimed = false → d = ⟨100, .start, none, none⟩)
    ∧ (a.claimed = true → forced → d = ⟨100, .forced, none, none⟩)
    ∧ (a.claimed = true → ¬ forced →
      ∃ (load v : Nat) (r : DutyReason),
        100 * (c.demand + 180) ≤ load * full ∧ load * full < 100 * (c.demand + 180) + full
        ∧ d.loadTerm = some load ∧ (c.tIn ≤ 25 → d.tempTerm = none)
        ∧ (25 < c.tIn → ∃ t : Nat, d.tempTerm = some t ∧ (t : Int) = 35 + 2 * (c.tIn - 25))
        ∧ (25 < c.tIn → (load : Int) ≤ 35 + 2 * (c.tIn - 25) →
            (v : Int) = 35 + 2 * (c.tIn - 25) ∧ r = .temperature)
        ∧ ((c.tIn ≤ 25 ∨ 35 + 2 * (c.tIn - 25) < (load : Int)) → v = load ∧ r = .load)
        ∧ (a.holder = none → v < 60 → d.value = 60 ∧ d.reason = .noHolder)
        ∧ (a.holder ≠ none → v < 35 → d.value = 35 ∧ d.reason = .minimum)
        ∧ ((a.holder = none → 60 ≤ v) → 35 ≤ v → d.value = min v 100 ∧ d.reason = r))

/-- R63, R58 and R65: a recompute of the duty that gives the value held writes nothing; one that gives
another value holds it, restarts every settle deadline, zeroes every rotor's counts, and the duty
fields of the three trays join class 1. That reason and terms are stored with an unchanged duty is log 34
(DEDUCED), the order in which the three fields join log 6 (DESIGN CHOICE). -/
def Obligations.DutyChangesAreWritten : Prop :=
  ∀ s : State,
    let d := dutyOf s.auth s.cool
    let held : State := s.modCool fun c =>
      { c with duty := d.value, reason := d.reason, tempTerm := d.tempTerm, loadTerm := d.loadTerm }
    (d.value = s.cool.duty → recomputeDuty s = held)
    ∧ (d.value ≠ s.cool.duty →
      ∃ trays : Vector TrayRec 3,
        recomputeDuty s = joinHeld (.duty 2) (joinHeld (.duty 1) (joinHeld (.duty 0)
          (held.modCool fun c => { c with trays := trays })))
        ∧ ∀ y : Tray, (trays.get y).maximum = (s.cool.trays.get y).maximum
          ∧ (trays.get y).settle = s.time + 2000
          ∧ ∀ r : Rotor, (trays.get y).rotors.get r
            = { (s.cool.trays.get y).rotors.get r with low := 0, goodRun := 0 })

/-- R64 with R9: every step keeps the commanded duty from 35 to 100, and not below 60 while nobody holds
authority. -/
def Obligations.StepsKeepTheFans : Prop :=
  ∀ s t : State, s.fansKept → step s = .next t → t.fansKept

/-! ### The power budget -/

/-- R71 and R72: S and the grid flag under each policy, and Cfull, C and A; a recompute sets them. -/
def Obligations.BudgetIsFormed : Prop :=
  ∀ (p : Power) (b1 b2 b3 b4 : BayInput), p.input.bays = #v[b1, b2, b3, b4] →
    let good (b : BayInput) : Prop := b.state = .good
    let q := formBudget p
    let sum := b1.usable + b2.usable + b3.usable + b4.usable
    let largest := max (max b1.usable b2.usable) (max b3.usable b4.usable)
    let twoGood : Prop := 2 ≤ [b1, b2, b3, b4].countP fun b => b.state = .good
    (p.policy = .n → q.supply = sum ∧ q.gridLost = false)
    ∧ (p.policy = .nPlus1 → twoGood → q.supply = sum - largest ∧ q.gridLost = false)
    ∧ (p.policy = .nPlus1 → ¬ twoGood → q.supply = 0 ∧ q.gridLost = false)
    ∧ (p.policy = .grid → (good b1 ∨ good b2) → (good b3 ∨ good b4) →
      q.supply = min (b1.usable + b2.usable) (b3.usable + b4.usable) ∧ q.gridLost = false)
    ∧ (p.policy = .grid → ¬ ((good b1 ∨ good b2) ∧ (good b3 ∨ good b4)) → twoGood →
      q.supply = sum - largest ∧ q.gridLost = true)
    ∧ (p.policy = .grid → ¬ twoGood → ¬ ((good b1 ∨ good b2) ∧ (good b3 ∨ good b4)) →
      q.supply = 0 ∧ q.gridLost = true)
    ∧ (∃ dc : Nat, (dc : Int) = max 0 (min 100 (2 * (p.input.tIn - 35)))
      ∧ q.coolFull = 450 * p.input.rotors
      ∧ q.coolCap = 450 * p.input.rotors * (100 - dc) / 100
      ∧ (q.avail : Int) = max 0 ((min q.supply q.coolCap : Nat) - 180 : Int))
    ∧ (p.input.rotors ≤ 12 → q.avail ≤ 5220)
    ∧ ∀ s : State, s.power = p →
      (recompute s).power.supply = q.supply ∧ (recompute s).power.gridLost = q.gridLost
      ∧ (recompute s).power.coolFull = q.coolFull ∧ (recompute s).power.coolCap = q.coolCap
      ∧ (recompute s).power.avail = q.avail

/-- R74 to R77: the order in which slots are shed and admitted, what is done to each, and the hand-on; and
when a recompute ends, the demand fits the available budget formed from the inputs, the kind being SHED
exactly when the demand exceeded it. That the pass stops once the demand fits, also where A is 0 and a slot
draws 0 W, is log 42, the model's choice. -/
def Obligations.RecomputeFitsTheBudget : Prop :=
  (∀ p : Power,
    (shedOrder p).Pairwise (fun i j => (p.slots.get i).priority < (p.slots.get j).priority
      ∨ ((p.slots.get i).priority = (p.slots.get j).priority ∧ j < i))
    ∧ (∀ i, (p.slots.get i).priority ≤ 3 →
      (i ∈ shedOrder p ↔ (p.slots.get i).power.drawing = true))
    ∧ (admitOrder p).Pairwise (fun i j => (p.slots.get j).priority < (p.slots.get i).priority
      ∨ ((p.slots.get i).priority = (p.slots.get j).priority ∧ i < j))
    ∧ (∀ i, (p.slots.get i).priority ≤ 3 →
      (i ∈ admitOrder p ↔ ∃ r, (p.slots.get i).power = .denied r))
    ∧ (heldPorts p).Pairwise (· < ·) ∧ ∀ q, q ∈ heldPorts p ↔ ∃ k, p.ports.get q = .held k)
  ∧ (∀ (i : Slot) (is : List Slot) (q : Port) (s : State),
    shedPass [] s = (s, [])
    ∧ (demand s.power ≤ s.power.avail → shedPass (i :: is) s = (s, []))
    ∧ (∀ r, s.power.avail < demand s.power → r = shedPass is (leaveDraw i (.denied .shed) s) →
      shedPass (i :: is) s = (r.1, i :: r.2))
    ∧ (demand s.power + (s.slotRec i).base ≤ s.power.avail → admitSlot i s
        = joinHeld (.powerEnable i) (modSlot i (fun r => { r with power := .powering (s.time + 1000) }) s))
    ∧ (s.power.avail < demand s.power + (s.slotRec i).base → admitSlot i s = s)
    ∧ (∀ k, s.power.ports.get q = .held k →
      (demand s.power + k.draw ≤ s.power.avail → admitPort q s = setPort q (.enabled k) s)
      ∧ (s.power.avail < demand s.power + k.draw → admitPort q s = s)))
  ∧ (∀ (s u : State), u = s.modPower formBudget →
    let handsOn (kind : RecomputeKind) (left shed : List Slot) (v : State) : State :=
      (handSettled .budgetTight 1 (giveDemand
        (demand (shed.foldl (fun w i => eventSettled .budgetShed (i.val + 1) w)
          (left.foldl (fun w i => slotLeft i w) v)).power)
        (shed.foldl (fun w i => eventSettled .budgetShed (i.val + 1) w)
          (left.foldl (fun w i => slotLeft i w) v)))).modPower fun p =>
            { p with lastKind := kind, lastTime := v.time }
    (∀ r, u.power.avail < demand u.power → r = shedPass (shedOrder u.power) u →
      recompute s = handsOn .shed (r.2.filter fun i => s.isPowered i) r.2 r.1)
    ∧ (∀ v, demand u.power ≤ u.power.avail →
      v = (admitOrder u.power).foldl (fun w i => admitSlot i w) u →
      recompute s = handsOn .admission [] [] ((heldPorts v.power).foldl (fun w q => admitPort q w) v)))
  ∧ ∀ s : State, s.slotsAgree → s.portsPowered → (∀ i, (s.slotRec i).priority ≤ 3) →
    let t := recompute s
    demand t.power ≤ t.power.avail ∧ t.power.avail = (formBudget s.power).avail
    ∧ t.power.supply = (formBudget s.power).supply
    ∧ (t.power.lastKind = .shed ↔ (formBudget s.power).avail < demand s.power)
    ∧ t.power.lastTime = s.time ∧ t.power.policy = s.power.policy ∧ t.power.input = s.power.input
    ∧ t.lic = s.lic ∧ t.auth = s.auth ∧ t.time = s.time
    ∧ ∀ i, (t.slotRec i).card = (s.slotRec i).card ∧ (t.slotRec i).admin = (s.slotRec i).admin
      ∧ (t.slotRec i).priority = (s.slotRec i).priority

/-- R74, R78 and R84: every step keeps the demand within the available budget, the slot records in
agreement with the reported presences, and every port that is ENABLED or HELD on a POWERED slot. -/
def Obligations.StepsKeepTheBudget : Prop :=
  ∀ s t : State, s.budgetKept → step s = .next t → t.budgetKept

/-- R83 and R146: what a slot that leaves POWERING or POWERED leaves behind. First its draw: the slot, its
ports, the demand and the fields that join class 1. Then, outside a recompute, the demand handed to the
Cooling Controller (R73), BUDGET_TIGHT (R88; log 16, DEDUCED), and for a slot that was POWERED the notice to
the Zoning Unit: the slot leaves the distribution and the catch-up set, a waiting loading write or pulse for
it leaves the bus (the pulse by log 24, DEDUCED), and the outcome of one on the bus is to be ignored. That
BUDGET_TIGHT follows what the notice raises is log 17, the model's choice. -/
def Obligations.LeavingPowerDropsTheDraw : Prop :=
  (∀ (i : Slot) (st : SlotPower) (s t : State), st.drawing = false → t = leaveDraw i st s →
    t.slotRec i = { s.slotRec i with power := st }
    ∧ (∀ j, j ≠ i → t.slotRec j = s.slotRec j)
    ∧ (∀ p : Port, t.power.ports.get p = if portSlot p = i then .off else s.power.ports.get p)
    ∧ demand t.power + slotDraw s.power i = demand s.power
    ∧ (st ≠ .empty → Class1.held (.powerEnable i) ∈ t.bus.class1)
    ∧ (∀ p : Port, portSlot p = i → (s.power.ports.get p).isEnabled = true →
        Class1.held (enableFieldOf p) ∈ t.bus.class1)
    ∧ (∀ e ∈ s.bus.class1, e ∈ t.bus.class1)
    ∧ t.lic = s.lic ∧ t.auth = s.auth ∧ t.cool = s.cool ∧ t.zone = s.zone ∧ t.alarm = s.alarm)
  ∧ (∀ (i : Slot) (st : SlotPower) (s t u : State), t = leaveDraw i st s →
    u = recomputeDuty (t.modCool fun k => { k with demand := demand t.power }) →
    ((s.slotRec i).power = .powered → leavePower i st s = handSettled .budgetTight 1 (slotLeft i u))
    ∧ ((s.slotRec i).power ≠ .powered → leavePower i st s = handSettled .budgetTight 1 u))
  ∧ ∀ (i : Slot) (s : State), slotLeft i s = goOn
    ((s.modZone fun z =>
      { z with
        slots := updAt z.slots i fun r =>
          { r with loaded := 0, status := none, ackDeadline := none, catchUp := false }
        job := match z.job with
          | some j => if j.slot = i then none else some j
          | none => none
        catchUpSlot := if z.catchUpSlot = some i then none else z.catchUpSlot }).modBus fun b =>
      { b with
        current := match b.current with
          | some ⟨.loading j ignored, x⟩ => some ⟨.loading j (ignored || decide (j = i)), x⟩
          | some ⟨.slotActivate j ignored, x⟩ => some ⟨.slotActivate j (ignored || decide (j = i)), x⟩
          | x => x
        class1 := b.class1.filter fun e => e ≠ .slotActivate i
        class2 := match b.class2 with
          | some w => if w.slot = i then none else some w
          | none => none })

/-- R89, R90 and R91: SET RESERVE POLICY, SLOT POWER and SET SHED PRIORITY of the holder; each response is
formed after the recompute. The results of BAD_PARAM are log 10, the evaluation of BUDGET_TIGHT ahead of the
recompute is log 16 (both DEDUCED); that SLOT_FAULT of a slot that leaves FAULTED stands ahead of BUDGET_TIGHT
is log 17, the model's choice. -/
def Obligations.PowerRequestsAreJudged : Prop :=
  ∀ (c : Cp) (tag : BitVec 4) (x y : Byte) (i : Slot) (s : State), Ready c s →
    s.auth.holder = some c →
    let h := s.heard c
    let done (u : State) (code : Byte) (bs : List Byte) : Host.Outcome State Fault Refusal :=
      .next (arbitrate (u.answered c tag code .done bs))
    let policyIs (u : State) (shed : Nat) : List Byte :=
      encPolicy u.power.policy ++ u16 u.power.supply ++ u16 u.power.avail ++ u16 (demand u.power)
        ++ yes u.power.gridLost ++ u8 shed
    let slotIs (u : State) : List Byte :=
      encAdmin (u.slotRec i).admin ++ encSlotPower (u.slotRec i).power
        ++ opt encDenial (denialOf (u.slotRec i).power) ++ u16 (demand u.power) ++ u16 u.power.avail
    let priorities (u : State) : List Byte := allSlots.flatMap fun j => u8 (u.slotRec j).priority
    let refused (j : Instr) (code : Byte) (bs : List Byte) : Prop :=
      exec j s = .next (arbitrate (h.answered c tag code .badParam bs))
    let named : Prop := x.toNat = i.val + 1
    (policyOf x = none → refused (.setReservePolicy c tag x) 0x30 (policyIs s 0))
    ∧ (∀ p, policyOf x = some p → p = s.power.policy →
      exec (.setReservePolicy c tag x) s = done h 0x30 (policyIs h 0))
    ∧ (∀ p r, policyOf x = some p → p ≠ s.power.policy →
      r = recomputeShed (h.modPower fun w => { w with policy := p }) →
      exec (.setReservePolicy c tag x) s = done r.1 0x30 (policyIs r.1 r.2.length))
    ∧ ((x.toNat = 0 ∨ 8 < x.toNat) → refused (.slotPower c tag x y) 0x31 []
      ∧ refused (.setShedPriority c tag x y) 0x32 (priorities s))
    ∧ (named → y.toNat ≠ 1 → y.toNat ≠ 2 → refused (.slotPower c tag x y) 0x31 (slotIs s))
    ∧ (∀ on u t, named → y.toNat = (if on then 1 else 2) →
      u = modSlot i (fun r => { r with admin := on }) h →
      t = (match (s.slotRec i).power, on with
        | .off, true | .faulted, true => recompute (evalTight (handSettled .slotFault (i.val + 1)
            (setSlotPower i (.denied .waiting) u)))
        | .denied _, false | .faulted, false => recompute (evalTight
            (handSettled .slotFault (i.val + 1) (setSlotPower i .off u)))
        | .powering _, false | .powered, false => recompute (leavePower i .off u)
        | _, _ => u) →
      exec (.slotPower c tag x y) s = done t 0x31 (slotIs t))
    ∧ (named → 3 < y.toNat → refused (.setShedPriority c tag x y) 0x32 (priorities s))
    ∧ (named → y.toNat ≤ 3 → (s.slotRec i).priority = y.toNat →
      exec (.setShedPriority c tag x y) s = done h 0x32 (priorities h))
    ∧ (∀ t, named → y.toNat ≤ 3 → (s.slotRec i).priority ≠ y.toNat →
      t = recompute (modSlot i (fun r => { r with priority := y.toNat }) h) →
      exec (.setShedPriority c tag x y) s = done t 0x32 (priorities t))

/-- R81 and R82: at its power-good deadline a POWERING slot leaves POWERING for FAULTED with a recompute;
before the deadline is reached the command does nothing (log 3, the model's choice). A power-good value 1 makes
it POWERED, and a value 0 faults a POWERED slot. R85, R86 and R73: the port power test,
which enables or holds a port, and what the notices of the License Unit do; a second result true calls for
one recompute after the last notice (log 15, DEDUCED). When BUDGET_TIGHT is evaluated is log 16 (DEDUCED),
that a fault hands it ahead of SLOT_FAULT log 17 (the model's choice). -/
def Obligations.PowerGoodDecidesTheSlot : Prop :=
  (∀ (p : Port) (k : PortClass) (s : State),
    let fits : Prop := demand s.power + k.draw ≤ s.power.avail
    let tight (u : State) : State := handSettled .budgetTight 1 u
    let told (u : State) : State := giveDemand (demand u.power) u
    let on := setPort p (.enabled k) s
    let held := setPort p (.held k) s
    let off := setPort p .off s
    (∀ st, let u := s.modPower fun w => { w with ports := updAt w.ports p fun _ => st }
      ((s.power.ports.get p).isEnabled = st.isEnabled → setPort p st s = u)
      ∧ ((s.power.ports.get p).isEnabled ≠ st.isEnabled →
        setPort p st s = joinHeld (enableFieldOf p) u))
    ∧ (fits → testPort p k s = tight (told on)) ∧ (¬ fits → testPort p k s = tight held)
    ∧ (s.isPowered (portSlot p) = true → (s.lic.ports.get p).up = true →
      takeNotice (.grant p k) s = (testPort p k s, false))
    ∧ ((s.isPowered (portSlot p) = false ∨ (s.lic.ports.get p).up = false) →
      takeNotice (.grant p k) s = (s, false))
    ∧ (∀ x, s.power.ports.get p = .enabled x →
      takeNotice (.release p) s = (tight (told off), true)
      ∧ (k.draw ≤ x.draw → takeNotice (.regrade p k) s = (tight (told on), true))
      ∧ (x.draw < k.draw → demand s.power + (k.draw - x.draw) ≤ s.power.avail →
        takeNotice (.regrade p k) s = (tight (told on), false))
      ∧ (x.draw < k.draw → s.power.avail < demand s.power + (k.draw - x.draw) →
        takeNotice (.regrade p k) s = (tight (told held), true)))
    ∧ (∀ x, s.power.ports.get p = .held x →
      takeNotice (.release p) s = (tight off, false)
      ∧ takeNotice (.regrade p k) s = (tight held, decide (k.draw < x.draw)))
    ∧ (s.power.ports.get p = .off →
      takeNotice (.release p) s = (tight off, false)
      ∧ takeNotice (.regrade p k) s = (tight s, false))
    ∧ PortClass.draw .s = 4 ∧ PortClass.draw .m = 6 ∧ PortClass.draw .h = 9)
  ∧ (∀ (i : Slot) (s u : State),
    let test (w : State) (p : Port) : State :=
      match grantOf w.lic p with
      | some g => if w.portExists p && (w.lic.ports.get p).up then testPort p g.cls w else w
      | none => w
    u = (slotPorts i).foldl test
      (handSettled .budgetTight 1 (modSlot i (fun r => { r with power := .powered }) s)) →
    enterPowered i s = recompute (eventSettled .slotChange (i.val + 1) (goOn (modZoneSlot i
      (fun r => { r with result := .none, catchUp := true }) u))))
  ∧ ∀ (i : Slot) (s : State),
    (∀ d, (s.slotRec i).power = .powering d →
      (reached s.time d = true → exec (.powerGoodDeadlineExpiry i) s = .next (arbitrate
        (recompute (handSettled .slotFault (i.val + 1) (leavePower i .faulted s)))))
      ∧ (reached s.time d = false → exec (.powerGoodDeadlineExpiry i) s = .next (arbitrate s)))
    ∧ (∀ d, (s.slotRec i).power = .powering d →
      powerGood i true s = enterPowered i s ∧ powerGood i false s = s)
    ∧ ((s.slotRec i).power = .powered →
      powerGood i true s = s
      ∧ powerGood i false s
        = recompute (handSettled .slotFault (i.val + 1) (leavePower i .faulted s)))
    ∧ (∀ v, (s.slotRec i).power = .empty ∨ (s.slotRec i).power = .off
        ∨ (s.slotRec i).power = .faulted ∨ (∃ r, (s.slotRec i).power = .denied r) →
      powerGood i v s = s)

/-! ### Port licensing -/

/-- R97, R99 and R105: INSTALL ENTITLEMENT of the holder in the order of its checks, and REMOVE
ENTITLEMENT; the end of the step serves the queue and hands on the notices, and each port revoked gives one
LICENSE_REVOKED occurrence, in the order of revocation (R107, R108, R115). The pool results of a refusal
are log 10, the notices handed with one recompute after the last log 15 (both DEDUCED); that LICENSE_WAIT of
an INSTALL stands behind what its notices raise is log 17, the model's choice. -/
def Obligations.EntitlementsAreJudged : Prop :=
  (∀ (p : Port) (ps : List Port) (s : State), raiseRevoked [] s = s
    ∧ raiseRevoked (p :: ps) s = raiseRevoked ps (occurEvent .licenseRevoked (p.val + 1) false s))
  ∧ ∀ (c : Cp) (tag : BitVec 4) (e : Entitlement) (s : State), Ready c s → s.auth.holder = some c →
    let h := s.heard c
    let install := exec (.installEntitlement c tag e.id e.units e.ceiling e.flags e.serial e.check) s
    let pool (u : State) : List Byte :=
      u16 (poolTotal u.lic) ++ encClassOrNone (ceilingOf u.lic) ++ u16 (grantedUnits u.lic)
        ++ u16 (freeUnits u.lic)
    let refused (o : OutcomeCode) : Prop :=
      install = .next (arbitrate (h.answered c tag 0x40 o
        (u8 s.lic.table.length ++ pool s ++ u16 0)))
    let bad : Prop := e.flags.toNat ≠ 0 ∨ e.units.toNat = 0 ∨ 768 < e.units.toNat
      ∨ e.ceiling.toNat = 0 ∨ 3 < e.ceiling.toNat ∨ e.id.toNat = 0
    let genuine : Prop := e.check = crc32 e.head ∧ s.serial = some e.serial
    let same : Prop := ∃ x ∈ s.lic.table, x.id = e.id
    (¬ genuine → refused .checkFail)
    ∧ (genuine → bad → refused .badParam)
    ∧ (genuine → ¬ bad → same → refused .duplicate)
    ∧ (genuine → ¬ bad → ¬ same → 16 ≤ s.lic.table.length → refused .noSpace)
    ∧ (genuine → ¬ bad → ¬ same → s.lic.table.length < 16 →
      ∃ r : State × Nat,
        r = endStep s.lic [] (h.modLic fun l => { l with table := l.table ++ [e] })
        ∧ r.1.lic.table = s.lic.table ++ [e]
        ∧ install = .next (arbitrate (r.1.answered c tag 0x40 .done
            (u8 r.1.lic.table.length ++ pool r.1 ++ u16 r.2))))
    ∧ (¬ same → exec (.removeEntitlement c tag e.id) s = .next (arbitrate (h.answered c tag 0x41
        .notFound (pool s ++ u16 0 ++ u16 0 ++ u16 0 ++ u16 s.lic.waiting.length))))
    ∧ (same → ∃ (s1 t : State) (graded : State × List Notice) (revoked : State × List Port)
        (served : State × List Grant),
      s1 = h.modLic (fun l => { l with table := l.table.filter fun x => x.id ≠ e.id })
      ∧ graded = regradeByCeiling s.lic s1
      ∧ revoked = revoke graded.1.lic.grants.reverse graded.1
      ∧ served = serveAfter s.lic revoked.1
      ∧ t = handCondition .licenseWait 1 (raiseRevoked revoked.2 (handNotices
          (graded.2 ++ revoked.2.map (fun p => .release p)
            ++ served.2.map (fun g => .grant g.port g.cls)) served.1))
      ∧ exec (.removeEntitlement c tag e.id) s = .next (arbitrate (t.answered c tag 0x41 .done
          (pool t ++ u16 graded.2.length ++ u16 revoked.2.length ++ u16 served.2.length
            ++ u16 t.lic.waiting.length)))
      ∧ t.lic = served.1.lic ∧ t.lic.table = s1.lic.table ∧ t.lic.ports = s.lic.ports
      ∧ t.link = h.link ∧ t.auth = s.auth ∧ t.zone.txn = s.zone.txn)

/-- R106 and R107: a lower ceiling regrades the grants above it in place, in grant-list order; revocation
takes grants back from the tail of the grant list to the head of the queue, one at a time, until the
granted units fit the pool total. -/
def Obligations.LicensesAreTakenBack : Prop :=
  ∀ s : State, (s.lic.grants.map Grant.port ++ s.lic.waiting).Nodup →
    (∀ (before : License) (k : PortClass), ceilingOf s.lic = some k →
      ceilingCode s.lic < ceilingCode before →
      let r := regradeByCeiling before s
      r.1.lic.grants = (s.lic.grants.map fun g => if k.code < g.cls.code then ⟨g.port, k⟩ else g)
      ∧ r.2 = (s.lic.grants.filter fun g => k.code < g.cls.code).map fun g => .regrade g.port k)
    ∧ (∀ before : License, (ceilingOf s.lic = none ∨ ceilingCode before ≤ ceilingCode s.lic) →
      regradeByCeiling before s = (s, []))
    ∧ ∃ kept taken : List Grant,
      let r := revoke s.lic.grants.reverse s
      s.lic.grants = kept ++ taken ∧ r.1.lic.grants = kept
      ∧ r.2 = (taken.map Grant.port).reverse
      ∧ r.1.lic.waiting = taken.map Grant.port ++ s.lic.waiting
      ∧ grantedUnits r.1.lic ≤ poolTotal s.lic
      ∧ (∀ g rest, taken = g :: rest →
          poolTotal s.lic < ((kept ++ [g]).map fun x => x.cls.weight).sum)
      ∧ r.1.lic.table = s.lic.table ∧ r.1.lic.ports = s.lic.ports

/-- R103: serving grants the queue from its head, in order, and stops with the queue empty or a head that
does not fit (or with no ceiling). The four changes of a step after which it is served, what the end of a
step does, and how the notices of a step are handed on: in order, with one recompute after the last where one
of them calls for it (R85, R86, R108; log 15, DEDUCED); that LICENSE_WAIT stands behind what the notices raise
is log 17, the model's choice. The figures of the pool (R100) and the effective class
of a port (R102). -/
def Obligations.QueueIsServedFromItsHead : Prop :=
  (∀ (l : License) (p : Port) (k : PortClass),
    let requested := (l.ports.get p).requested
    poolTotal l = min 768 (l.table.map fun e => e.units.toNat).sum
    ∧ grantedUnits l = (l.grants.map fun g => g.cls.weight).sum
    ∧ freeUnits l = poolTotal l - grantedUnits l
    ∧ PortClass.weight .s = 1 ∧ PortClass.weight .m = 2 ∧ PortClass.weight .h = 3
    ∧ (l.table = [] → ceilingOf l = none)
    ∧ ((∀ e ∈ l.table, 1 ≤ e.ceiling.toNat ∧ e.ceiling.toNat ≤ 3) →
      (ceilingOf l = some k ↔ (∃ e ∈ l.table, e.ceiling.toNat = k.weight)
        ∧ ∀ e ∈ l.table, e.ceiling.toNat ≤ k.weight))
    ∧ (ceilingOf l = none → effectiveClass l p = none)
    ∧ (ceilingOf l = some k → effectiveClass l p = some
      (if requested.weight ≤ k.weight then requested else k)))
  ∧ (∀ s : State, s.lic.consistent →
    let r := serve s.lic.waiting s
    s.lic.waiting = r.2.map Grant.port ++ r.1.lic.waiting
    ∧ r.1.lic.grants = s.lic.grants ++ r.2
    ∧ (∀ g ∈ r.2, effectiveClass s.lic g.port = some g.cls)
    ∧ (∀ p rest, r.1.lic.waiting = p :: rest →
        ∀ k, effectiveClass s.lic p = some k → freeUnits r.1.lic < k.weight)
    ∧ r.1.lic.table = s.lic.table ∧ r.1.lic.ports = s.lic.ports
    ∧ r.1.power = s.power ∧ r.1.alarm = s.alarm)
  ∧ (∀ (before : License) (ns : List Notice) (s : State),
    let calls : Prop := freeUnits before < freeUnits s.lic
      ∨ ceilingCode before < ceilingCode s.lic
      ∨ (∃ p rest, before.waiting = p :: rest ∧ p ∉ s.lic.waiting)
      ∨ ∃ p q rest more old new, before.waiting = p :: rest ∧ s.lic.waiting = q :: more
        ∧ effectiveClass before p = some old ∧ effectiveClass s.lic q = some new
        ∧ new.weight < old.weight
    let r := serveAfter before s
    (calls → r = serve s.lic.waiting s) ∧ (¬ calls → r = (s, []))
    ∧ endStep before ns s
      = (handCondition .licenseWait 1
          (handNotices (ns ++ r.2.map fun g => .grant g.port g.cls) r.1), r.2.length))
  ∧ ∀ (n : Notice) (ns : List Notice) (s : State),
    takeAll [] s = (s, false)
    ∧ takeAll (n :: ns) s = ((takeAll ns (takeNotice n s).1).1,
        (takeNotice n s).2 || (takeAll ns (takeNotice n s).1).2)
    ∧ ((takeAll ns s).2 = true → handNotices ns s = recompute (takeAll ns s).1)
    ∧ ((takeAll ns s).2 = false → handNotices ns s = (takeAll ns s).1)

/-- R109 to R113: PORT ADMIN of the holder. A parameter out of range changes no port; otherwise the ports of
the mask are handled in ascending index, each as one step with its own end, and the outcome is DONE. Then
what it does to one port, before the end of its step, and what a grant, a release and a regrade do to the grant
list and to the port's class field (R95, R101, R104). Eight UNTOUCHED results with a bad action or class, and
none with a bad group, are log 10 (DEDUCED). -/
def Obligations.PortAdminHandlesItsMask : Prop :=
  (∀ (c : Cp) (tag : BitVec 4) (group mask action cls : Byte) (s : State), Ready c s →
    s.auth.holder = some c →
    let h := s.heard c
    let row := exec (.portAdmin c tag group mask action cls) s
    let tail (u : State) : List Byte :=
      u16 (grantedUnits u.lic) ++ u16 (freeUnits u.lic) ++ u16 u.lic.waiting.length
    (31 < group.toNat → row = .next (arbitrate (h.answered c tag 0x42 .badParam [])))
    ∧ (∀ g : Fin 32, group.toNat = g.val →
      let ports : List Port := (List.range 8).map fun k => Fin.ofNat 256 (8 * g.val + k)
      let results (u : State) (rs : List PortResult) : List Byte :=
        ((ports.zip rs).flatMap fun x => encPortResult u x.1 x.2) ++ tail u
      ((portActionOf action = none ∨ classOf cls = none) →
        row = .next (arbitrate (h.answered c tag 0x42 .badParam
          (results h (List.replicate 8 .untouched)))))
      ∧ ∀ (up : Bool) (k : PortClass), action.toNat = (if up then 1 else 2) → cls.toNat = k.code →
        ∃ r, r = adminPorts up k (ports.zip ((List.range 8).map mask.getLsbD)) h
          ∧ row = .next (arbitrate (r.1.answered c tag 0x42 .done (results r.1 r.2)))))
  ∧ (∀ (up : Bool) (k : PortClass) (p : Port) (rest : List (Port × Bool)) (s : State),
    adminPorts up k [] s = (s, [])
    ∧ adminPorts up k ((p, false) :: rest) s
      = ((adminPorts up k rest s).1, .untouched :: (adminPorts up k rest s).2)
    ∧ ∀ r t, r = (if up then portUp p k s else portDown p s) → t = (endStep s.lic r.2.1 r.1).1 →
      adminPorts up k ((p, true) :: rest) s
        = ((adminPorts up k rest t).1, r.2.2 :: (adminPorts up k rest t).2))
  ∧ (∀ (i : Slot) (q : Fin 4) (p : Port) (k : PortClass) (s : State),
    p.val / 32 = i.val → p.val % 32 / 8 = q.val →
    let changes (f : List Grant → List Grant) : State :=
      joinHeld (.portClass i q) (s.modLic fun l => { l with grants := f l.grants })
    grantPort p k s = changes (fun gs => gs ++ [⟨p, k⟩])
    ∧ releasePort p s = changes (fun gs => gs.filter fun g => g.port ≠ p)
    ∧ regradePort p k s = changes (fun gs => gs.map fun g => if g.port = p then ⟨p, k⟩ else g))
  ∧ ∀ (p : Port) (cls : PortClass) (s : State),
    let up := portUp p cls s
    let down := portDown p s
    let asked : State := s.modLic fun l => { l with ports := updAt l.ports p fun _ => ⟨true, cls⟩ }
    let wider : State := s.modLic fun l =>
      { l with ports := updAt l.ports p fun r => { r with requested := cls } }
    let closed : State := s.modLic fun l =>
      { l with ports := updAt l.ports p fun r => { r with up := false } }
    let queued (u : State) : State := u.modLic fun l => { l with waiting := l.waiting ++ [p] }
    (licenseState s.lic p = .none → s.portExists p = false →
      up = (asked, [], .recorded) ∧ down = (closed, [], .recorded))
    ∧ (licenseState s.lic p = .none → s.portExists p = true →
      down = (closed, [], .unchanged)
      ∧ (ceilingOf s.lic = none → up = (queued asked, [], .waiting))
      ∧ ∀ ceiling, ceilingOf s.lic = some ceiling →
        let k := cls.smaller ceiling
        (s.lic.waiting = [] → k.weight ≤ freeUnits s.lic →
          up = (grantPort p k asked, [.grant p k], .granted))
        ∧ ((s.lic.waiting ≠ [] ∨ freeUnits s.lic < k.weight) → up = (queued asked, [], .waiting)))
    ∧ (licenseState s.lic p = .waiting →
      up = (wider, [], .waiting)
      ∧ down = (closed.modLic fun l =>
          { l with waiting := l.waiting.filter fun q => q ≠ p }, [], .withdrawn))
    ∧ ∀ old, licenseState s.lic p = .granted old →
      down = (releasePort p closed, [.release p], .released)
      ∧ (ceilingOf s.lic = none → up = (s, [], .noUnits))
      ∧ ∀ ceiling, ceilingOf s.lic = some ceiling →
        let k := cls.smaller ceiling
        (k = old → up = (wider, [], .unchanged))
        ∧ (k.weight < old.weight → up = (regradePort p k wider, [.regrade p k], .regraded))
        ∧ (old.weight < k.weight → s.lic.waiting = [] → k.weight - old.weight ≤ freeUnits s.lic →
          up = (regradePort p k wider, [.regrade p k], .regraded))
        ∧ (old.weight < k.weight →
          (s.lic.waiting ≠ [] ∨ freeUnits s.lic < k.weight - old.weight) → up = (s, [], .noUnits))

/-- R100 and R101: every step keeps the granted units within the pool total, and no port twice across the
grant list and the wait queue. -/
def Obligations.StepsKeepTheLicenses : Prop :=
  ∀ s t : State, s.lic.consistent → step s = .next t → t.lic.consistent

/-! ### Zones -/

/-- R125, R126, R127 and R139: BEGIN ZONE EDIT, CANCEL ZONE EDIT and COMMIT ZONES of the holder. The results
of the refusals are log 10, the inner marker of the base log 11 (both DEDUCED); that the dropped counts of
CANCEL ZONE EDIT, present with DONE, have no marker is log 37, the model's choice. -/
def Obligations.ZoneTransactionsAreJudged : Prop :=
  ∀ (c : Cp) (tag : BitVec 4) (b : Byte) (i : TxnInfo) (hold : Bool) (s : State), Ready c s →
    s.auth.holder = some c →
    let h := s.heard c
    let answers (j : Instr) (u : State) (code : Byte) (o : OutcomeCode) (bs : List Byte) : Prop :=
      exec j s = .next (arbitrate (u.answered c tag code o bs))
    let begun (u : State) : List Byte :=
      encTxnState u.zone.txn ++ encOwner u.zone.txn
        ++ opt (fun x : TxnInfo => encBase x.base) u.zone.txn.info
        ++ u16 u.zone.staging.length ++ u16 (entryCount u.zone.staging)
    let dropped : List Byte := u16 s.zone.staging.length ++ u16 (entryCount s.zone.staging)
    let both : List Byte := encTxnState s.zone.txn ++ encEngine s.zone.main
    ((b.toNat ≠ 1 ∧ b.toNat ≠ 2) → answers (.beginZoneEdit c tag b) h 0x50 .badParam (begun h))
    ∧ ((b.toNat = 1 ∨ b.toNat = 2) → s.zone.txn ≠ .closed →
      answers (.beginZoneEdit c tag b) h 0x50 .state (begun h))
    ∧ (∀ t, b.toNat = 1 → s.zone.txn = .closed →
      t = h.modZone (fun z => { z with
        staging := s.zone.active.table
        txn := .opened ⟨c, s.auth.epoch, some s.zone.active.generation, s.time⟩ }) →
      answers (.beginZoneEdit c tag b) t 0x50 .done (begun t))
    ∧ (∀ t, b.toNat = 2 → s.zone.txn = .closed →
      t = h.modZone (fun z => { z with
        staging := [], txn := .opened ⟨c, s.auth.epoch, none, s.time⟩ }) →
      answers (.beginZoneEdit c tag b) t 0x50 .done (begun t))
    ∧ (s.zone.txn = .opened i → answers (.cancelZoneEdit c tag)
      (h.modZone fun z => { z with staging := [], txn := .closed }) 0x51 .done
      (encTxnState .closed ++ dropped))
    ∧ ((s.zone.txn = .closed ∨ s.zone.txn = .held i) →
      answers (.cancelZoneEdit c tag) h 0x51 .state (encTxnState s.zone.txn)
      ∧ answers (.commitZones c tag b) h 0x58 .state both)
    ∧ (s.zone.txn = .computing i hold →
      answers (.cancelZoneEdit c tag) h 0x51 .busy (encTxnState s.zone.txn)
      ∧ answers (.commitZones c tag b) h 0x58 .busy both)
    ∧ (s.zone.txn = .opened i → 1 < b.toNat →
      answers (.commitZones c tag b) h 0x58 .badParam both)
    ∧ (s.zone.txn = .opened i → b.toNat ≤ 1 → s.zone.main ≠ .idle →
      answers (.commitZones c tag b) h 0x58 .zoneBusy both)
    ∧ (s.zone.txn = .opened i → b.toNat = hold.toNat → s.zone.main = .idle →
      exec (.commitZones c tag b) s = .next (arbitrate
        ((h.modZone fun z => { z with txn := .computing i hold }).inExecution c tag 0x58 .commit)))

/-- R128 to R131: CREATE ZONE, DELETE ZONE, ADD MEMBER and REMOVE MEMBER of the holder in an OPEN
transaction, each in the order it is judged, and all four refused in any other state (R125). Then what the
tables and the member lists are after an edit: exactly what they held and what the edit names. The transaction
state in front of the counts, and that a refusal of ADD and REMOVE MEMBER carries the counts of the zone
while staging holds the zone named, are log 10 (DEDUCED); that these counts and the results present with DONE
have no marker byte is log 37, the model's choice. -/
def Obligations.ZoneEditsAreJudged : Prop :=
  (∀ (c : Cp) (tag : BitVec 4) (zone port : BitVec 16) (b : Byte) (n : Fin 256) (p : Port) (y : Zone)
    (i : TxnInfo) (s : State), Ready c s → s.auth.holder = some c →
    let h := s.heard c
    let answers (j : Instr) (u : State) (code : Byte) (o : OutcomeCode) (bs : List Byte) : Prop :=
      exec j s = .next (arbitrate (u.answered c tag code o
        (bs ++ u16 u.zone.staging.length ++ u16 (entryCount u.zone.staging))))
    let staged (tbl : ZoneTable) : State := h.modZone fun z => { z with staging := tbl }
    let open_ : Prop := s.zone.txn = .opened i
    let number : Prop := zone.toNat = n.val
    let named : Prop := number ∧ port.toNat = p.val
    let found : Prop := zoneAt s.zone.staging n = some y
    let absent : Prop := zoneAt s.zone.staging n = none
    let member : Bool := y.members.contains p
    let counts (x : Zone) : List Byte := u8 x.members.length ++ u8 x.principals.length
    let full : Prop := 64 ≤ y.members.length ∨ 4096 ≤ entryCount s.zone.staging
    let create : Instr := .createZone c tag zone b
    let delete : Instr := .deleteZone c tag zone
    let add : Instr := .addMember c tag zone port b
    let remove : Instr := .removeMember c tag zone port
    let unknown : Prop := 255 < zone.toNat ∨ (number ∧ absent)
    let code : List Byte := encTxnState s.zone.txn
    let refused (o : OutcomeCode) : Prop :=
      answers create h 0x52 o code ∧ answers delete h 0x53 o code
      ∧ (unknown → answers add h 0x54 o code ∧ answers remove h 0x55 o code)
      ∧ (number → found →
        answers add h 0x54 o (code ++ counts y) ∧ answers remove h 0x55 o (code ++ counts y))
    ((s.zone.txn = .closed ∨ s.zone.txn = .held i) → refused .state)
    ∧ (∀ hold, s.zone.txn = .computing i hold → refused .busy)
    ∧ (open_ → (255 < zone.toNat ∨ (b.toNat ≠ 1 ∧ b.toNat ≠ 2)) → answers create h 0x52 .badParam [])
    ∧ (open_ → number → found → (b.toNat = 1 ∨ b.toNat = 2) → answers create h 0x52 .duplicate [])
    ∧ (open_ → number → absent → b.toNat = 1 →
      answers create (staged (insertZone ⟨n, .standard, []⟩ s.zone.staging)) 0x52 .done [])
    ∧ (open_ → number → absent → b.toNat = 2 →
      answers create (staged (insertZone ⟨n, .peer [], []⟩ s.zone.staging)) 0x52 .done [])
    ∧ (open_ → 255 < zone.toNat → answers delete h 0x53 .badParam [])
    ∧ (open_ → number → absent → answers delete h 0x53 .notFound [])
    ∧ (open_ → number → found →
      answers delete (staged (s.zone.staging.filter fun x => x.number ≠ n)) 0x53 .done
        (u8 y.members.length))
    ∧ (open_ → 255 < zone.toNat → answers add h 0x54 .badParam [])
    ∧ (open_ → (255 < port.toNat ∨ b.toNat = 0 ∨ 3 < b.toNat) →
      (unknown → answers add h 0x54 .badParam [])
      ∧ (number → found → answers add h 0x54 .badParam (counts y)))
    ∧ (open_ → named → absent → 1 ≤ b.toNat → b.toNat ≤ 3 → answers add h 0x54 .notFound [])
    ∧ (open_ → named → found → b.toNat = 2 → y.isPeer = false →
      answers add h 0x54 .badParam (counts y))
    ∧ (open_ → named → found → 1 ≤ b.toNat → b.toNat ≤ 3 → (b.toNat = 2 → y.isPeer = true) →
      member = false → full → answers add h 0x54 .noSpace (counts y))
    ∧ (∀ code x, open_ → named → found → principalOf b = some code →
      (b.toNat = 2 → y.isPeer = true) → (member = false → ¬ full) →
      x = { y with kind := withPrincipal code p y.kind, members := insertPort p y.members } →
      answers add (staged (insertZone x s.zone.staging)) 0x54 .done
        (yes member ++ opt yes (if x.isPeer then some (x.principals.contains p) else none)
          ++ counts x))
    ∧ (open_ → 255 < zone.toNat → answers remove h 0x55 .badParam [])
    ∧ (open_ → 255 < port.toNat →
      (unknown → answers remove h 0x55 .badParam [])
      ∧ (number → found → answers remove h 0x55 .badParam (counts y)))
    ∧ (open_ → named → absent → answers remove h 0x55 .notFound [])
    ∧ (open_ → named → found → member = false → answers remove h 0x55 .notFound (counts y))
    ∧ (∀ x, open_ → named → found → member = true →
      x = { y with
        kind := withPrincipal .ordinary p y.kind
        members := y.members.filter fun q => q ≠ p } →
      answers remove (staged (insertZone x s.zone.staging)) 0x55 .done
        (opt yes (if y.isPeer then some (y.principals.contains p) else none) ++ counts x)))
  ∧ (∀ (tbl : ZoneTable) (x : Zone) (n : Fin 256),
    tbl.Pairwise (fun a b => a.number.val < b.number.val) →
    (insertZone x tbl).Pairwise (fun a b => a.number.val < b.number.val)
    ∧ (∀ y, y ∈ insertZone x tbl ↔ y = x ∨ (y ∈ tbl ∧ y.number ≠ x.number))
    ∧ (∀ y, zoneAt tbl n = some y ↔ y ∈ tbl ∧ y.number = n)
    ∧ ∀ (m : Nat) (y : Zone), (tbl.find? fun z => m ≤ z.number.val) = some y ↔
      y ∈ tbl ∧ m ≤ y.number.val ∧ ∀ z ∈ tbl, m ≤ z.number.val → y.number.val ≤ z.number.val)
  ∧ ∀ (ps : List Port) (p : Port) (b : Byte) (code : PrincipalCode), ps.Pairwise (· < ·) →
    (insertPort p ps).Pairwise (· < ·) ∧ (∀ q, q ∈ insertPort p ps ↔ q = p ∨ q ∈ ps)
    ∧ withPrincipal code p .standard = .standard
    ∧ withPrincipal .notGiven p (.peer ps) = .peer ps
    ∧ withPrincipal .principal p (.peer ps) = .peer (insertPort p ps)
    ∧ withPrincipal .ordinary p (.peer ps) = .peer (ps.filter fun q => q ≠ p)
    ∧ principalOf b = (if b.toNat = 1 then some .notGiven else if b.toNat = 2 then some .principal
        else if b.toNat = 3 then some .ordinary else none)

/-- R122 and R123: every step keeps each zone table in order and within its limits, staging empty while
the transaction is CLOSED, and no empty zone in the pending and active levels. -/
def Obligations.StepsKeepTheZoneTables : Prop :=
  ∀ s t : State, s.zonesInOrder → step s = .next t → t.zonesInOrder

/-- R137, R138 and R157: the reach relation, the rows in force, and QUERY REACH, which changes no
record. That a refusal carries no results is log 10, DEFAULT as an inner marker 0 log 11 (both DEDUCED). -/
def Obligations.ReachFollowsTheZones : Prop :=
  (∀ (tbl : ZoneTable) (p q : Port),
    (reach tbl p q = true ↔ p ≠ q ∧ ∃ z ∈ tbl, p ∈ z.members ∧ q ∈ z.members
      ∧ (z.kind = .standard ∨ ∃ ps, z.kind = .peer ps ∧ (p ∈ ps ∨ q ∈ ps)))
    ∧ reach tbl p q = reach tbl q p ∧ reach tbl p p = false)
  ∧ (∀ g : BitVec 16, nextGeneration g ≠ 0 ∧ (g ≠ 65535 → nextGeneration g = g + 1)
    ∧ (g = 65535 → nextGeneration g = 1))
  ∧ ∀ (c : Cp) (tag : BitVec 4) (a b : BitVec 16) (s : State), Ready c s →
    let row := exec (.queryReach c tag a b) s
    let pending : BitVec 16 :=
      match s.zone.pending with
      | none => 0
      | some l => l.generation
    let answer (bs : List Byte) : Host.Outcome State Fault Refusal :=
      .next (arbitrate ((s.heard c).answered c tag 0x5C .done
        (bs ++ u16 s.zone.active.generation.toNat ++ u16 pending.toNat)))
    ((255 < a.toNat ∨ 255 < b.toNat) →
      row = .next (arbitrate ((s.heard c).answered c tag 0x5C .badParam [])))
    ∧ ∀ p q : Port, a.toNat = p.val → b.toNat = q.val →
      (p = q → row = answer (yes false ++ u8 0))
      ∧ (s.zone.active.generation = 0 → s.straps.zoning = .none →
        row = answer (yes false ++ u8 0))
      ∧ (p ≠ q → s.zone.active.generation = 0 → s.straps.zoning = .all →
        row = answer (yes true ++ u8 1 ++ u8 0))
      ∧ (s.zone.active.generation ≠ 0 → reach s.zone.active.table p q = false →
        row = answer (yes false ++ u8 0))
      ∧ ∀ z before after, s.zone.active.generation ≠ 0 → p ≠ q →
        s.zone.active.table = before ++ z :: after → reach before p q = false →
        reach [z] p q = true →
        row = answer (yes true ++ u8 1 ++ (u8 1 ++ u8 z.number.val))

/-! ### Commit and distribution -/

/-- R141, R134 and R138: the commit computation completes. Staging less its empty zones is the pending
level at the next generation, the transaction is CLOSED, the main distribution starts, and the
response goes to the owner's link unless that went DOWN; the port then takes its next request (R187), as
TransferReadCompletes says. R143 and R147: a main distribution takes the POWERED slots, which leave the
catch-up set, and a set with none is complete at once; a catch-up in progress is left to its end, its slot a
member till then. R144, R147 and R154, how the engine goes on: the lowest QUEUED slot loads next; with none
left to load and none that waits, the distribution fails, awaits the activation or activates; in IDLE the
lowest member of the catch-up set is caught up. -/
def Obligations.CommitStartsTheDistribution : Prop :=
  (∀ (i : TxnInfo) (hold dropped : Bool) (tag : BitVec 4) (s : State),
    s.zone.txn = .computing i hold →
    (s.link.get i.owner).current = some ⟨tag, 0x58, .commit, dropped⟩ →
    ∃ (level : Level) (u t : State),
      level = ⟨s.zone.staging.filter fun z => !z.members.isEmpty,
        nextGeneration s.zone.active.generation⟩
      ∧ u = s.modZone (fun z => { z with pending := some level, staging := [], txn := .closed })
      ∧ t = (startMain hold u).modLink i.owner (fun p => { p with current := none })
      ∧ exec .commitComputationComplete s = .next (arbitrate (serveQueue i.owner (if dropped then t else
          t.answered i.owner tag 0x58 .done
            (u16 level.generation.toNat ++ u16 level.table.length ++ u16 (entryCount level.table)
              ++ u16 (s.zone.staging.length - level.table.length)
              ++ u16 (allPorts.filter fun p => allPorts.any fun q => reach level.table p q).length
              ++ u16 ((allPorts.filter fun p => level.table.any fun z => z.members.contains p).filter
                  fun p => !(s.portExists p && s.lic.grants.any fun g => g.port = p)).length
              ++ u16 (level.table.filter fun z => z.isPeer && z.principals.isEmpty).length
              ++ encSlots (distributionSet t) ++ encEngine t.zone.main)))))
  ∧ (∀ (hold : Bool) (s t : State), t = startMain hold s →
    (∀ i, s.statusOf i = none) →
    distributionSet t = allSlots.filter s.isPowered
    ∧ t.zone.hold = some hold ∧ t.zone.pending = s.zone.pending ∧ t.zone.active = s.zone.active
    ∧ t.zone.staging = s.zone.staging ∧ t.zone.txn = s.zone.txn
    ∧ t.zone.catchUpSlot = s.zone.catchUpSlot ∧ t.power = s.power ∧ t.auth = s.auth
    ∧ (∀ i, (t.zone.slots.get i).loaded = (s.zone.slots.get i).loaded
        ∧ ((t.zone.slots.get i).catchUp = true ↔ (s.zone.slots.get i).catchUp = true
          ∧ (s.isPowered i = true → s.zone.catchUpSlot = some i)))
    ∧ (s.zone.catchUpSlot.isSome = true → t.zone.main = .distributing ∧ t.zone.job = s.zone.job
        ∧ ∀ i, s.isPowered i = true → t.statusOf i = some .queued)
    ∧ (s.zone.catchUpSlot = none → s.zone.job = none →
      (∀ i, (∀ j, s.isPowered j = true ↔ j = i) → s.bus.current = none →
        t.zone.main = .distributing ∧ t.statusOf i = some .loading
        ∧ t.zone.job = some ⟨i, true, .generation⟩
        ∧ t.bus.class2 = some ⟨i, .write (256 * (i.val + 1) + 176) 16 (pendingGeneration s.zone)⟩)
      ∧ ((∀ i, s.isPowered i = false) →
        t.zone.main = (if hold then .awaitActivate else .activating)
        ∧ t.bus.class1 = s.bus.class1 ++ (if hold then [] else [.activateField]))))
  ∧ ∀ s : State,
    let lowest (f : Slot → Prop) (i : Slot) : Prop := f i ∧ ∀ j, j < i → ¬ f j
    let begins (i : Slot) (main : Bool) (u : State) : State :=
      requestLoad (u.modZone fun z => { z with job := some ⟨i, main, .generation⟩ })
    let quiet : Prop := s.zone.main = .distributing ∧ s.zone.job = none ∧ s.zone.catchUpSlot = none
    let unfinished : Prop := ∃ i, s.statusOf i = some .queued ∨ s.statusOf i = some .loading
      ∨ s.statusOf i = some .awaitAck
    let failed : Prop := ∃ i, s.statusOf i = some .failedLoad
    ((s.zone.main = .awaitActivate ∨ s.zone.main = .activating ∨ s.zone.main = .failed) → goOn s = s)
    ∧ (s.zone.main = .idle → goOn s = serveCatchUp s)
    ∧ ((s.zone.catchUpSlot ≠ none ∨ ∀ i, (s.zone.slots.get i).catchUp = false) → serveCatchUp s = s)
    ∧ (∀ i, s.zone.catchUpSlot = none → lowest (fun j => (s.zone.slots.get j).catchUp = true) i →
      serveCatchUp s = begins i false (s.modZone fun z => { z with catchUpSlot := some i }))
    ∧ (s.zone.main = .distributing → (s.zone.job ≠ none ∨ s.zone.catchUpSlot ≠ none) → goOn s = s)
    ∧ (∀ i, quiet → lowest (fun j => s.statusOf j = some .queued) i →
      goOn s = begins i true (modZoneSlot i (fun r => { r with status := some .loading }) s))
    ∧ (quiet → (∀ i, s.statusOf i ≠ some .queued) →
      (unfinished → goOn s = s)
      ∧ (¬ unfinished → failed → goOn s
        = occurEvent .zoneDistFail 1 false (s.modZone fun z => { z with main := .failed }))
      ∧ (¬ unfinished → ¬ failed → s.zone.hold = some true →
        goOn s = s.modZone fun z => { z with main := .awaitActivate })
      ∧ (¬ unfinished → ¬ failed → s.zone.hold ≠ some true →
        goOn s = joinClass1 .activateField (s.modZone fun z => { z with main := .activating })))

/-- R144, R145 and R155: LOADING_WRITE_END, SLOT_ACTIVATE_PULSE_END and ACK_TIMEOUT. A loading write that
ends DONE leads to the next one, and after LOAD DONE to the wait of 200 ms; a failed one ends the load.
A pulse is repeated until it ends DONE. Which line each write of a load goes to and what it carries (R144,
R155, R196), and when it is requested in class 2 (R33). The outcome of an ignored transaction has no effect;
that the engine's next loading write is requested at its end is log 33 (DEDUCED). That ACK_TIMEOUT judges one
slot by itself is log 31 (DEDUCED), that LINE_BUS_ERROR stands ahead of ZONE_DIST_FAIL log 17 (the model's
choice). -/
def Obligations.LoadsGoOnWriteByWrite : Prop :=
  (∀ (i : Slot) (x : Txn) (first again : Answer) (j : LoadJob) (s : State),
    let e := busEnd x first again
    let load := exec (.loadingWriteEnd first again) s
    let u (ignored : Bool) : State := freeBus ⟨.loading i ignored, x⟩ e s
    let failed : Prop := e.data = none
    (∀ ignored, s.bus.current = some ⟨.loading i ignored, x⟩ →
      (ignored = true → load = .next (arbitrate (requestLoad (u ignored))))
      ∧ (ignored = false → s.zone.job = none → load = .next (arbitrate (u ignored)))
      ∧ (ignored = false → s.zone.job = some j → ¬ failed →
        (∀ n, j.step.next (portCount s j.slot) = some n → load = .next (arbitrate (requestLoad
          ((u ignored).modZone fun z => { z with job := some { j with step := n } }))))
        ∧ (j.step = .loadDone → j.main = true → load = .next (arbitrate (goOn
          (modZoneSlot j.slot (fun r => { r with
              status := some .awaitAck, ackDeadline := some (s.time + 200) })
            ((u ignored).modZone fun z => { z with job := none })))))
        ∧ (j.step = .loadDone → j.main = false → s.zone.active.generation = 0 →
          load = .next (arbitrate (joinClass1 (.slotActivate j.slot)
            ((u ignored).modZone fun z => { z with job := none }))))
        ∧ (j.step = .loadDone → j.main = false → s.zone.active.generation ≠ 0 →
          load = .next (arbitrate (modZoneSlot j.slot
            (fun r => { r with ackDeadline := some (s.time + 200) })
            ((u ignored).modZone fun z => { z with job := none })))))
      ∧ (ignored = false → s.zone.job = some j → failed →
        (j.main = true → load = .next (arbitrate (goOn (modZoneSlot j.slot
          (fun r => { r with status := some .failedLoad, ackDeadline := none })
          ((u ignored).modZone fun z => { z with job := none })))))
        ∧ (j.main = false → load = .next (arbitrate (goOn (occurEvent .zoneDistFail 1 false
          (modZoneSlot j.slot
            (fun r => { r with catchUp := false, ackDeadline := none, result := .failed })
            ((u ignored).modZone fun z => { z with job := none, catchUpSlot := none }))))))))
    ∧ (∀ (answer : Answer) (w : State), s.bus.current = some ⟨.slotActivate i false, x⟩ →
      w = freeBus ⟨.slotActivate i false, x⟩ (busEnd x answer answer) s →
      ((busEnd x answer answer).data ≠ none →
        exec (.slotActivatePulseEnd answer) s = .next (arbitrate (goOn (modZoneSlot i
          (fun r => { r with
            catchUp := false, ackDeadline := none, result := .done
            loaded := s.zone.active.generation })
          (w.modZone fun z => { z with job := none, catchUpSlot := none })))))
      ∧ ((busEnd x answer answer).data = none →
        exec (.slotActivatePulseEnd answer) s
          = .next (arbitrate (joinClass1 (.slotActivate i) w))))
    ∧ (∀ answer : Answer, s.bus.current = some ⟨.slotActivate i true, x⟩ →
      exec (.slotActivatePulseEnd answer) s = .next (arbitrate (requestLoad
        (freeBus ⟨.slotActivate i true, x⟩ (busEnd x answer answer) s))))
    ∧ ∀ d : Time, (s.zone.slots.get i).ackDeadline = some d →
      (reached s.time d = true → s.zone.catchUpSlot ≠ some i →
        exec (.ackTimeout i) s = .next (arbitrate (goOn
          (modZoneSlot i (fun r => { r with status := some .failedLoad, ackDeadline := none }) s))))
      ∧ (reached s.time d = true → s.zone.catchUpSlot = some i →
        exec (.ackTimeout i) s = .next (arbitrate (goOn
          (occurEvent .zoneDistFail 1 false (modZoneSlot i
            (fun r => { r with catchUp := false, ackDeadline := none, result := .failed })
            (s.modZone fun z => { z with job := none, catchUpSlot := none }))))))
      ∧ (reached s.time d = false → exec (.ackTimeout i) s = .next (arbitrate s)))
  ∧ (∀ (j : LoadJob) (s : State),
    let ignoring : Prop := ∃ i x, s.bus.current = some ⟨.loading i true, x⟩
      ∨ s.bus.current = some ⟨.slotActivate i true, x⟩
    ((s.zone.job = none ∨ ignoring) → requestLoad s = s)
    ∧ (s.zone.job = some j → ¬ ignoring →
      requestLoad s = s.modBus fun b => { b with class2 := some ⟨j.slot, loadTxn s j⟩ }))
  ∧ (∀ ports n : Nat,
    LoadStep.generation.next ports = some (if ports = 0 then .loadDone else .piece 0)
    ∧ (LoadStep.piece n).next ports = some (if n + 1 < 16 * ports then .piece (n + 1) else .loadDone)
    ∧ LoadStep.loadDone.next ports = none)
  ∧ ∀ (i : Slot) (main : Bool) (n : Nat) (s : State),
    loadTxn s ⟨i, main, .generation⟩ = .write (256 * (i.val + 1) + 176) 16
      (if main then pendingGeneration s.zone else s.zone.active.generation)
    ∧ loadTxn s ⟨i, main, .loadDone⟩ = .set (256 * (i.val + 1) + 208)
    ∧ ∃ v : BitVec 16, loadTxn s ⟨i, main, .piece n⟩ = .write (256 * (i.val + 1) + 192) 16 v
      ∧ ∀ (k : Fin 16) (p q : Port), n < 512 → p.val = 32 * i.val + n / 16 →
        q.val = 16 * (n % 16) + k.val →
        (v.getLsbD k.val = true ↔
          if main then ∃ l, s.zone.pending = some l ∧ reach l.table p q = true
          else if s.zone.active.generation = 0 then s.straps.zoning = .all ∧ p ≠ q
          else reach s.zone.active.table p q = true)

/-- R149 and R150: the ACTIVATE field write and the strobe are repeated until they end DONE; the strobe
then makes the pending level the active one, empties the distribution set, and raises ZONE_DONE. -/
def Obligations.ActivationWritesComplete : Prop :=
  ∀ (x : Txn) (first again : Answer) (l : Level) (s : State),
    (∀ u, s.bus.current = some ⟨.activateField, x⟩ →
      u = freeBus ⟨.activateField, x⟩ (busEnd x first again) s →
      let row := exec (.activateFieldWriteEnd first again) s
      ((busEnd x first again).data ≠ none → row = .next (arbitrate (joinClass1 .strobe u)))
      ∧ (busEnd x first again = .noResponse → row = .next (arbitrate (joinClass1 .activateField u)))
      ∧ (busEnd x first again = .parity → row = .next (arbitrate (joinClass1 .activateField
          (occurEvent .lineBusError 1 false u)))))
    ∧ ∀ u, s.bus.current = some ⟨.strobe, x⟩ → s.zone.pending = some l →
      u = freeBus ⟨.strobe, x⟩ (busEnd x first first) s →
      let row := exec (.activationStrobeEnd first) s
      ((busEnd x first first).data = none → row = .next (arbitrate (joinClass1 .strobe u)))
      ∧ ((busEnd x first first).data ≠ none →
        ∃ t w, t = u.modZone (fun z => { z with
            active := l, pending := none, hold := none, main := .idle
            slots := z.slots.map fun r => { r with status := none } })
          ∧ w = serveCatchUp (occurEvent .zoneDone 1 false t)
          ∧ row = .next (arbitrate w)
          ∧ w.zone.active = l ∧ w.zone.pending = none ∧ w.zone.main = .idle
          ∧ distributionSet w = []
          ∧ ∀ i, (w.zone.slots.get i).loaded = (s.zone.slots.get i).loaded)

/-- R148, R151 and R152: ACTIVATE ZONES, RETRY DISTRIBUTION and ABORT DISTRIBUTION of the holder; the abort by
its five steps, the last of which serves the catch-up set. That a slot at the active generation does not join
the catch-up set, an AWAIT_ACK one included, is log 40 (the model's choice). The results
of the three refusals (the engine state, generation and set; count 0 and the engine state; the catch-up set
alone) are log 10 (DEDUCED). -/
def Obligations.DistributionRequestsAreJudged : Prop :=
  ∀ (c : Cp) (tag : BitVec 4) (s : State), Ready c s → s.auth.holder = some c →
    let h := s.heard c
    let answers (j : Instr) (u : State) (code : Byte) (o : OutcomeCode) (bs : List Byte) : Prop :=
      exec j s = .next (arbitrate (u.answered c tag code o bs))
    let standing (u : State) : List Byte :=
      encEngine u.zone.main ++ u16 (pendingGeneration u.zone).toNat ++ encSetStatus u
    (s.zone.main ≠ .awaitActivate → answers (.activateZones c tag) h 0x59 .state (standing h))
    ∧ (∀ t, s.zone.main = .awaitActivate →
      t = joinClass1 .activateField (h.modZone fun z => { z with main := .activating }) →
      answers (.activateZones c tag) t 0x59 .done (standing t))
    ∧ (s.zone.main ≠ .failed →
      answers (.retryDistribution c tag) h 0x5A .state (u8 0 ++ encEngine s.zone.main))
    ∧ (∀ t, s.zone.main = .failed →
      t = goOn (h.modZone fun z => { z with
        main := .distributing
        slots := z.slots.map fun r =>
          if r.status = some .failedLoad then { r with status := some .queued } else r }) →
      answers (.retryDistribution c tag) t 0x5A .done
        (u8 (allSlots.filter fun i => s.statusOf i = some .failedLoad).length
          ++ encEngine t.zone.main))
    ∧ ((s.zone.main = .idle ∨ s.zone.main = .activating) →
      answers (.abortDistribution c tag) h 0x5B .state (encSlots (catchUpSet s)))
    ∧ (s.zone.main ≠ .idle → s.zone.main ≠ .activating →
      ∃ t u, answers (.abortDistribution c tag) t 0x5B .done
          (u16 (pendingGeneration s.zone).toNat ++ encSlots (catchUpSet t))
        ∧ t = serveCatchUp u
        ∧ (∀ j, s.zone.job = some j → j.main = true → u.zone.job = none
          ∧ u.bus = { s.bus with
            current := match s.bus.current with
              | some ⟨.loading k ignored, x⟩ => some ⟨.loading k (ignored || decide (k = j.slot)), x⟩
              | some ⟨.slotActivate k ignored, x⟩ =>
                some ⟨.slotActivate k (ignored || decide (k = j.slot)), x⟩
              | x => x
            class1 := s.bus.class1.filter fun e => e ≠ .slotActivate j.slot
            class2 := match s.bus.class2 with
              | some w => if w.slot = j.slot then none else some w
              | none => none })
        ∧ ((∀ j, s.zone.job = some j → j.main = false) → u.zone.job = s.zone.job ∧ u.bus = s.bus)
        ∧ u.zone.catchUpSlot = s.zone.catchUpSlot
        ∧ (∀ i, (t.zone.slots.get i).ackDeadline =
            if s.zone.catchUpSlot = some i then (s.zone.slots.get i).ackDeadline else none)
        ∧ t.zone.main = .idle ∧ t.zone.pending = none ∧ t.zone.hold = none
        ∧ distributionSet t = [] ∧ t.zone.active = s.zone.active ∧ t.zone.staging = s.zone.staging
        ∧ t.zone.txn = s.zone.txn
        ∧ (∀ i, (t.zone.slots.get i).loaded =
            (if (s.zone.slots.get i).loaded = pendingGeneration s.zone then 0
              else (s.zone.slots.get i).loaded)
          ∧ ((t.zone.slots.get i).catchUp = true ↔ (s.zone.slots.get i).catchUp = true
              ∨ (s.isPowered i = true ∧ (t.zone.slots.get i).loaded ≠ s.zone.active.generation)))
        ∧ (∀ i, s.zone.catchUpSlot = some i → t.zone.catchUpSlot = some i)
        ∧ t.power = s.power ∧ t.lic = s.lic ∧ t.auth = s.auth ∧ t.link = h.link ∧ t.alarm = s.alarm
        ∧ t.bus.class1 ⊆ s.bus.class1)

/-! ### Alarms and notices -/

/-- R160 to R163, R177 and R178: an occurrence updates its row, writes one history entry at the writer's
place or sets the overrun flag while the writer is STALLED, fills the half at 32 entries, and has the
attention lines and the LED formed again. R166 and R176: the lines follow the eligible rows, and the LED is
STEADY with an active condition of level 5 or above, else BLINKING with such a latched event, else OFF; at a
change of mode the indicator field joins class 1. R174 and R175: a forcing or its withdrawal, with its entry
marked injected. A condition is handed where its owner's record differs from the Alarm Unit's, and of some
classes only once the Cooling Controller has settled (R62, R87, R88); the records that give each condition
(R26, R53, R56, R60, R87, R88, R115). -/
def Obligations.OccurrencesAreRecorded : Prop :=
  (∀ s : State,
    let t := reevaluate s
    let level (k : AlarmClass) : Nat := (classEntry s.alarm k).level
    let steady : Prop := ∃ r ∈ s.alarm.conds, (r.condition = true ∨ r.forced = true) ∧ 5 ≤ level r.cls
    let blinking : Prop := ∃ r ∈ s.alarm.events,
      (r.latch.a = true ∨ r.latch.b = true ∨ r.latchH = true) ∧ 5 ≤ level r.cls
    (∀ c, t.alarm.attn.get c = true ↔ (∃ r ∈ s.alarm.conds, condEligible s c r = true)
      ∨ ∃ r ∈ s.alarm.events, eventEligible s c r = true)
    ∧ (steady → t.alarm.led = .steady) ∧ (¬ steady → blinking → t.alarm.led = .blinking)
    ∧ (¬ steady → ¬ blinking → t.alarm.led = .off)
    ∧ t.alarm = { s.alarm with attn := t.alarm.attn, led := t.alarm.led }
    ∧ (t.alarm.led = s.alarm.led → t.bus = s.bus)
    ∧ (t.alarm.led ≠ s.alarm.led → t.bus = (joinHeld .indicator s).bus))
  ∧ (∀ (k : AlarmClass) (n : Nat) (forced : Bool) (s : State),
    (∃ u, occurForced k n forced s
        = reevaluate (appendHistory k n (if forced then .raised else .cleared) true u)
      ∧ u = s.modAlarm (fun a => { a with conds := a.conds.map fun r =>
          if r.cls = k ∧ r.number = n then
            { r with
              forced := forced, changed := s.time
              seen := if r.condition || forced then r.seen else ⟨false, false⟩ }
          else r }))
    ∧ (∀ r, condRow? s.alarm k n = some r →
      (r.condition = conditionNow s k n → handCondition k n s = s)
      ∧ (r.condition ≠ conditionNow s k n →
        handCondition k n s = occurCondition k n (conditionNow s k n) s))
    ∧ (s.cool.settled = false → handSettled k n s = s ∧ eventSettled k n s = s)
    ∧ (s.cool.settled = true →
      handSettled k n s = handCondition k n s ∧ eventSettled k n s = occurEvent k n false s))
  ∧ (∀ (b : Bay) (y : Tray) (r : Rotor) (w : Fin 2) (i : Slot) (c : Cp) (s : State),
    (conditionNow s .psuFault (b.val + 1) = true ↔ (s.cool.supplies.get b).state = .failed)
    ∧ (conditionNow s .psuInputLost (b.val + 1) = true ↔ (s.cool.supplies.get b).state = .off)
    ∧ (conditionNow s .fanRotorFail (4 * y.val + r.val + 1) = true ↔
      ((s.cool.trays.get y).rotors.get r).fit = .failed)
    ∧ (conditionNow s .fanTrayAbsent (y.val + 1) = true ↔ (s.cool.trays.get y).maximum = none)
    ∧ (conditionNow s .tempWarn 1 = true ↔ 45 ≤ s.cool.tIn)
    ∧ (conditionNow s .tempCrit 1 = true ↔ 55 ≤ s.cool.tIn)
    ∧ (conditionNow s .sensorLost (w.val + 1) = true ↔ (s.cool.sensors.get w).invalidPasses = 4)
    ∧ (conditionNow s .budgetTight 1 = true ↔ (∃ j x, (s.slotRec j).power = .denied x)
      ∨ (∃ p x, s.power.ports.get p = .held x) ∨ s.power.gridLost = true)
    ∧ (conditionNow s .slotFault (i.val + 1) = true ↔ (s.slotRec i).power = .faulted)
    ∧ (conditionNow s .licenseWait 1 = true ↔ s.lic.waiting ≠ [])
    ∧ (conditionNow s .peerSilent (cpNumber c) = true ↔ s.auth.presence.get c = .silent))
  ∧ ∀ (k : AlarmClass) (n : Nat) (tr : Transition) (injected value : Bool) (s : State),
    occurEvent k n injected s
      = reevaluate (appendHistory k n .event injected (latchEvent k n injected s))
    ∧ (latchEvent k n injected s).alarm.events = s.alarm.events.map (fun r =>
        if r.cls = k ∧ r.number = n then
          { r with
            last := s.time, injected := injected
            latchH := r.latchH || (classEntry s.alarm k).route = .active
            latch :=
              match (classEntry s.alarm k).route with
              | .standby => ⟨r.latch.a || routeTargets s.auth .standby .a,
                  r.latch.b || routeTargets s.auth .standby .b⟩
              | .both => ⟨r.latch.a || s.auth.presence.a ≠ .absent,
                  r.latch.b || s.auth.presence.b ≠ .absent⟩
              | _ => r.latch }
        else r)
    ∧ (∃ u, occurCondition k n value s
          = reevaluate (appendHistory k n (if value then .raised else .cleared) false u)
        ∧ u = s.modAlarm (fun a => { a with conds := u.alarm.conds })
        ∧ u.alarm.conds = s.alarm.conds.map (fun r =>
          if r.cls = k ∧ r.number = n then
            { r with
              condition := value, changed := s.time
              seen := if value || r.forced then r.seen else ⟨false, false⟩ }
          else r))
    ∧ appendHistory .historyHalf n tr injected s = s
    ∧ (k ≠ .historyHalf → fillingHalf s.alarm = none →
      appendHistory k n tr injected s = s.modAlarm fun a => { a with overrun := true })
    ∧ (∀ h, k ≠ .historyHalf → fillingHalf s.alarm = some h →
      let entries := (halfAt s.alarm h).entries ++ [⟨s.time.setWidth 32, k, n, tr, injected,
        (classEntry s.alarm k).level, s.auth.epoch⟩]
      let u := s.modAlarm fun a => putHalf a h ⟨.filling, entries⟩
      (entries.length ≠ 32 → appendHistory k n tr injected s = u)
      ∧ (entries.length = 32 → ∃ w,
        w = latchEvent .historyHalf (h.val + 1) false
          (s.modAlarm fun a => putHalf a h ⟨.full, entries⟩)
        ∧ ((halfAt s.alarm (otherHalf h)).state = .free →
          appendHistory k n tr injected s
            = w.modAlarm fun a => putHalf a (otherHalf h) ⟨.filling, []⟩)
        ∧ ((halfAt s.alarm (otherHalf h)).state ≠ .free → appendHistory k n tr injected s = w)))

/-- R165, R166 and R176: every step keeps the two attention lines in agreement with the eligibility of the
alarm rows. -/
def Obligations.StepsKeepTheAttentionLines : Prop :=
  ∀ s t : State, s.attentionAgrees → step s = .next t → t.attentionAgrees

/-- R186 and R35: every step keeps the request queues within 4 and the grant count within 16. -/
def Obligations.StepsKeepTheCounts : Prop :=
  ∀ s t : State, step s = .next t →
    (s.queuesBounded → t.queuesBounded) ∧ (s.grantsBounded → t.grantsBounded)

/-- R164 and R165: which CPs a route targets, and when a row is eligible for a CP. R169 and R170: FETCH
NOTICE takes the most urgent eligible row into service and marks it taken for the requester: the seen mark of
a condition, of an event each latch that made it eligible; RETIRE NOTICE
removes the top of the stack and leaves every row as it is. The results of STATE are log 10 (DEDUCED); that
the fields of the row's kind have no marker is log 37, the model's choice. -/
def Obligations.NoticesAreFetchedAndRetired : Prop :=
  (∀ (a : Authority) (c x : Cp),
    (a.holder = some x → (routeTargets a .active c = true ↔ c = x)
      ∧ (routeTargets a .standby c = true ↔ c ≠ x ∧ ∃ d, a.presence.get c = .live d))
    ∧ (a.holder = none → (routeTargets a .active c = true ↔ ∃ d, a.presence.get c = .live d)
      ∧ routeTargets a .standby c = false)
    ∧ (routeTargets a .both c = true ↔ a.presence.get c ≠ .absent)
    ∧ routeTargets a .none c = false)
  ∧ (∀ (c : Cp) (r : CondRow) (e : EventRow) (s : State),
    let calls (k : AlarmClass) : Prop := (s.alarm.mask.get c).get k.index = true
      ∧ (∀ x rest, s.alarm.stack.get c = x :: rest → x.level < (classEntry s.alarm k).level)
      ∧ (s.alarm.stack.get c = [] → 0 < (classEntry s.alarm k).level)
    (condEligible s c r = true ↔ calls r.cls ∧ (r.condition = true ∨ r.forced = true)
      ∧ routeTargets s.auth (classEntry s.alarm r.cls).route c = true ∧ r.seen.get c = false)
    ∧ (eventEligible s c e = true ↔ calls e.cls
      ∧ (e.latch.get c = true ∨ (e.latchH = true ∧ routeTargets s.auth .active c = true)))
    ∧ ∀ x, x ∈ candidates s c ↔ x.level = (classEntry s.alarm x.cls).level
      ∧ ((∃ r ∈ s.alarm.conds, r.cls = x.cls ∧ r.number = x.number ∧ condEligible s c r = true)
        ∨ ∃ e ∈ s.alarm.events, e.cls = x.cls ∧ e.number = x.number ∧ eventEligible s c e = true))
  ∧ (∀ (c : Cp) (x : StackEntry) (s : State),
    (x.cls.kind = .condition → markTaken c x s = s.modAlarm fun a =>
      { a with conds := a.conds.map fun r =>
          if r.cls = x.cls ∧ r.number = x.number then { r with seen := r.seen.put c true } else r })
    ∧ (x.cls.kind = .event → markTaken c x s = s.modAlarm fun a =>
      { a with events := a.events.map fun r =>
          if r.cls = x.cls ∧ r.number = x.number then
            { r with
              latch := r.latch.put c false
              latchH := r.latchH && !routeTargets s.auth .active c }
          else r }))
  ∧ ∀ (c : Cp) (tag : BitVec 4) (e : StackEntry) (rest : List StackEntry) (s : State), Ready c s →
    let h := s.heard c
    let answers (i : Instr) (u : State) (code : Byte) (o : OutcomeCode) (bs : List Byte) : Prop :=
      exec i s = .next (arbitrate (u.answered c tag code o bs))
    let attn (u : State) : List Byte := yes (u.alarm.attn.get c)
    (candidates s c = [] → answers (.fetchNotice c tag) h 0x60 .none
      (u8 (s.alarm.stack.get c).length ++ attn h))
    ∧ (candidates s c ≠ [] → ∃ x ∈ candidates s c,
      (∀ y ∈ candidates s c, y ≠ x → y.level < x.level
        ∨ (y.level = x.level ∧ (x.cls.number < y.cls.number
          ∨ (x.cls = y.cls ∧ x.number ≤ y.number))))
      ∧ ∃ t bs, t = reevaluate (markTaken c x (h.modAlarm fun a =>
            { a with stack := a.stack.put c (x :: a.stack.get c) }))
        ∧ answers (.fetchNotice c tag) t 0x60 .done
          (u8 x.cls.number ++ u16 x.number ++ encAlarmKind x.cls.kind ++ u8 x.level ++ bs
            ++ u8 (s.alarm.stack.get c).length.succ ++ attn t)
        ∧ (∀ r, x.cls.kind = .condition → condRow? s.alarm x.cls x.number = some r →
          bs = yes r.condition ++ yes r.forced ++ encTime r.changed)
        ∧ (∀ r, x.cls.kind = .event → eventRow? s.alarm x.cls x.number = some r →
          bs = encTime r.last ++ yes r.injected))
    ∧ (s.alarm.stack.get c = [] →
      answers (.retireNotice c tag) h 0x61 .state (u8 0 ++ u8 0 ++ attn h))
    ∧ (s.alarm.stack.get c = e :: rest →
      ∃ t, t = reevaluate (h.modAlarm fun a => { a with stack := a.stack.put c rest })
        ∧ t.alarm.conds = s.alarm.conds ∧ t.alarm.events = s.alarm.events
        ∧ answers (.retireNotice c tag) t 0x61 .done
          (u8 e.level ++ u8 e.cls.number ++ u16 e.number ++ u8 rest.length ++ u8 (topLevel rest)
            ++ attn t))

/-- R171 to R175 and R179: SET ALARM MASK, SET ALARM LEVEL, SET ALARM ROUTE, INJECT ALARM, WITHDRAW
INJECTION and RELEASE HISTORY HALF. What a flag byte other than 0 and 1 means is not stated (log 9). The
results of BAD_PARAM and STATE are log 10, a STALLED writer as absent fields is log 11 (both DEDUCED), and
that what is listed for one kind or with DONE has no marker is log 37, the model's choice. -/
def Obligations.AlarmRequestsAreJudged : Prop :=
  ∀ (c : Cp) (tag : BitVec 4) (flags : Vector Byte 20) (x y : Byte) (k : AlarmClass) (n : BitVec 16)
    (s : State), Ready c s →
    let h := s.heard c
    let answers (i : Instr) (u : State) (code : Byte) (o : OutcomeCode) (bs : List Byte) : Prop :=
      exec i s = .next (arbitrate (u.answered c tag code o bs))
    let named : Prop := x.toNat = k.number
    let outside : Prop := x.toNat = 0 ∨ 20 < x.toNat
    let inRange : Prop := 1 ≤ n.toNat ∧ n.toNat ≤ k.count
    let classed (f : ClassEntry → ClassEntry) : State :=
      reevaluate (h.modAlarm fun a => { a with classes := updAt a.classes k.index f })
    let routeNow (u : State) : List Byte := u8 k.number ++ encRoute (classEntry u.alarm k).route
    let holds : Prop := s.auth.holder = some c
    let forcing (v : Bool) (t : State) : Prop :=
      t = occurForced k n.toNat v h
    let halves (u : State) : List Byte :=
      encHalfState u.alarm.half0.state ++ u8 u.alarm.half0.entries.length
        ++ encHalfState u.alarm.half1.state ++ u8 u.alarm.half1.entries.length ++ encWriter u.alarm
    (∀ t, (∀ j : Fin 20, (flags.get j).toNat ≤ 1) →
      t = reevaluate (h.modAlarm fun a =>
        { a with mask := a.mask.put c (flags.map fun b => b.toNat = 1) }) →
      answers (.setAlarmMask c tag flags) t 0x62 .done
        (flags.toList ++ yes (t.alarm.attn.get c)))
    ∧ (holds → outside → answers (.setAlarmLevel c tag x y) h 0x63 .badParam []
      ∧ answers (.setAlarmRoute c tag x y) h 0x64 .badParam []
      ∧ answers (.injectAlarm c tag x n) h 0x65 .badParam []
      ∧ answers (.withdrawInjection c tag x n) h 0x66 .badParam [])
    ∧ (holds → named → answers (.setAlarmLevel c tag x y)
      (classed fun e => { e with level := max 1 (min 7 y.toNat) }) 0x63 .done
      (u8 k.number ++ u8 (max 1 (min 7 y.toNat))))
    ∧ (holds → named → (3 < y.toNat ∨ (k = .peerSilent ∧ y.toNat = 0)) →
      answers (.setAlarmRoute c tag x y) h 0x64 .badParam (routeNow h))
    ∧ (∀ r, holds → named → routeOf y = some r → ¬ (k = .peerSilent ∧ r = .none) →
      answers (.setAlarmRoute c tag x y) (classed fun e => { e with route := r }) 0x64 .done
        (u8 k.number ++ [y]))
    ∧ (holds → named → ¬ inRange → answers (.injectAlarm c tag x n) h 0x65 .badParam []
      ∧ answers (.withdrawInjection c tag x n) h 0x66 .badParam [])
    ∧ (holds → named → inRange → k.kind = .event →
      answers (.injectAlarm c tag x n) (occurEvent k n.toNat true h) 0x65 .done (yes true)
      ∧ answers (.withdrawInjection c tag x n) h 0x66 .badParam [])
    ∧ (∀ r, holds → named → inRange → k.kind = .condition →
      condRow? s.alarm k n.toNat = some r →
      (r.forced = true →
        answers (.injectAlarm c tag x n) h 0x65 .done (yes r.condition ++ yes true ++ yes false)
        ∧ ∀ t, forcing false t → answers (.withdrawInjection c tag x n) t 0x66 .done
          (yes r.condition ++ yes false ++ yes true))
      ∧ (r.forced = false →
        answers (.withdrawInjection c tag x n) h 0x66 .done
          (yes r.condition ++ yes false ++ yes false)
        ∧ ∀ t, forcing true t → answers (.injectAlarm c tag x n) t 0x65 .done
          (yes r.condition ++ yes true ++ yes true)))
    ∧ (holds → 1 < x.toNat → answers (.releaseHistoryHalf c tag x) h 0x68 .badParam (halves h))
    ∧ ∀ j : Fin 2, holds → x.toNat = j.val →
      ((halfAt s.alarm j).state ≠ .full →
        answers (.releaseHistoryHalf c tag x) h 0x68 .state (halves h))
      ∧ ((halfAt s.alarm j).state = .full →
        ∃ t, t = h.modAlarm (fun a => { putHalf a j
              ⟨if fillingHalf s.alarm = none then .filling else .free, []⟩ with overrun := false })
          ∧ answers (.releaseHistoryHalf c tag x) t 0x68 .done (yes s.alarm.overrun ++ halves t))

end
end

