-- ==== Sys2Proof/Laws/State.lean ====
section
/-! SUPPORT. Every field of the state under each of the named updates: one lemma per field and update,
true by rfl, so that no proof unfolds a record update; and the same for pairs and rows of records. -/

namespace Sys2Proof.Machine

/-! ### Pairs, one for each CP -/

@[simp] theorem PerCp.get_put_self {α : Type} (x : PerCp α) (c : Cp) (v : α) :
    (x.put c v).get c = v := by cases c <;> rfl

@[simp] theorem PerCp.get_put_peer {α : Type} (x : PerCp α) (c : Cp) (v : α) :
    (x.put c v).get c.peer = x.get c.peer := by cases c <;> rfl

theorem PerCp.get_put_ne {α : Type} (x : PerCp α) (c d : Cp) (v : α) (h : d ≠ c) :
    (x.put c v).get d = x.get d := by cases c <;> cases d <;> first | rfl | exact absurd rfl h

@[simp] theorem PerCp.put_get_self {α : Type} (x : PerCp α) (c : Cp) : x.put c (x.get c) = x := by
  cases c <;> rfl

@[simp] theorem PerCp.put_put {α : Type} (x : PerCp α) (c : Cp) (v w : α) :
    (x.put c v).put c w = x.put c w := by cases c <;> rfl

@[simp] theorem Cp.peer_peer (c : Cp) : c.peer.peer = c := by cases c <;> rfl

theorem Cp.peer_ne (c : Cp) : c.peer ≠ c := by cases c <;> decide

/-! ### A row of records -/

@[simp] theorem updAt_self {α : Type} {n : Nat} (v : Vector α n) (i : Fin n) (f : α → α) :
    (updAt v i f).get i = f (v.get i) := by
  simp [updAt, Vector.get_eq_getElem]

theorem updAt_ne {α : Type} {n : Nat} (v : Vector α n) (i j : Fin n) (f : α → α) (h : j ≠ i) :
    (updAt v i f).get j = v.get j := by
  have h' : ¬ i.val = j.val := fun e => h (Fin.ext e.symm)
  simp [updAt, Vector.get_eq_getElem, h']

/-! ### Fields of the state -/

@[simp] theorem State.modAuth_pending (s : State) (f : Authority → Authority) :
    (s.modAuth f).pending = s.pending := rfl

@[simp] theorem State.modAuth_time (s : State) (f : Authority → Authority) :
    (s.modAuth f).time = s.time := rfl

@[simp] theorem State.modAuth_lastMark (s : State) (f : Authority → Authority) :
    (s.modAuth f).lastMark = s.lastMark := rfl

@[simp] theorem State.modAuth_straps (s : State) (f : Authority → Authority) :
    (s.modAuth f).straps = s.straps := rfl

@[simp] theorem State.modAuth_serial (s : State) (f : Authority → Authority) :
    (s.modAuth f).serial = s.serial := rfl

@[simp] theorem State.modAuth_link (s : State) (f : Authority → Authority) :
    (s.modAuth f).link = s.link := rfl

@[simp] theorem State.modAuth_auth (s : State) (f : Authority → Authority) :
    (s.modAuth f).auth = f s.auth := rfl

@[simp] theorem State.modAuth_bus (s : State) (f : Authority → Authority) :
    (s.modAuth f).bus = s.bus := rfl

@[simp] theorem State.modAuth_cool (s : State) (f : Authority → Authority) :
    (s.modAuth f).cool = s.cool := rfl

@[simp] theorem State.modAuth_power (s : State) (f : Authority → Authority) :
    (s.modAuth f).power = s.power := rfl

@[simp] theorem State.modAuth_lic (s : State) (f : Authority → Authority) :
    (s.modAuth f).lic = s.lic := rfl

@[simp] theorem State.modAuth_zone (s : State) (f : Authority → Authority) :
    (s.modAuth f).zone = s.zone := rfl

@[simp] theorem State.modAuth_alarm (s : State) (f : Authority → Authority) :
    (s.modAuth f).alarm = s.alarm := rfl

@[simp] theorem State.modBus_pending (s : State) (f : Bus → Bus) :
    (s.modBus f).pending = s.pending := rfl

@[simp] theorem State.modBus_time (s : State) (f : Bus → Bus) :
    (s.modBus f).time = s.time := rfl

@[simp] theorem State.modBus_lastMark (s : State) (f : Bus → Bus) :
    (s.modBus f).lastMark = s.lastMark := rfl

@[simp] theorem State.modBus_straps (s : State) (f : Bus → Bus) :
    (s.modBus f).straps = s.straps := rfl

@[simp] theorem State.modBus_serial (s : State) (f : Bus → Bus) :
    (s.modBus f).serial = s.serial := rfl

@[simp] theorem State.modBus_link (s : State) (f : Bus → Bus) :
    (s.modBus f).link = s.link := rfl

@[simp] theorem State.modBus_auth (s : State) (f : Bus → Bus) :
    (s.modBus f).auth = s.auth := rfl

@[simp] theorem State.modBus_bus (s : State) (f : Bus → Bus) :
    (s.modBus f).bus = f s.bus := rfl

@[simp] theorem State.modBus_cool (s : State) (f : Bus → Bus) :
    (s.modBus f).cool = s.cool := rfl

@[simp] theorem State.modBus_power (s : State) (f : Bus → Bus) :
    (s.modBus f).power = s.power := rfl

@[simp] theorem State.modBus_lic (s : State) (f : Bus → Bus) :
    (s.modBus f).lic = s.lic := rfl

@[simp] theorem State.modBus_zone (s : State) (f : Bus → Bus) :
    (s.modBus f).zone = s.zone := rfl

@[simp] theorem State.modBus_alarm (s : State) (f : Bus → Bus) :
    (s.modBus f).alarm = s.alarm := rfl

@[simp] theorem State.modCool_pending (s : State) (f : Cooling → Cooling) :
    (s.modCool f).pending = s.pending := rfl

@[simp] theorem State.modCool_time (s : State) (f : Cooling → Cooling) :
    (s.modCool f).time = s.time := rfl

@[simp] theorem State.modCool_lastMark (s : State) (f : Cooling → Cooling) :
    (s.modCool f).lastMark = s.lastMark := rfl

@[simp] theorem State.modCool_straps (s : State) (f : Cooling → Cooling) :
    (s.modCool f).straps = s.straps := rfl

@[simp] theorem State.modCool_serial (s : State) (f : Cooling → Cooling) :
    (s.modCool f).serial = s.serial := rfl

@[simp] theorem State.modCool_link (s : State) (f : Cooling → Cooling) :
    (s.modCool f).link = s.link := rfl

@[simp] theorem State.modCool_auth (s : State) (f : Cooling → Cooling) :
    (s.modCool f).auth = s.auth := rfl

@[simp] theorem State.modCool_bus (s : State) (f : Cooling → Cooling) :
    (s.modCool f).bus = s.bus := rfl

@[simp] theorem State.modCool_cool (s : State) (f : Cooling → Cooling) :
    (s.modCool f).cool = f s.cool := rfl

@[simp] theorem State.modCool_power (s : State) (f : Cooling → Cooling) :
    (s.modCool f).power = s.power := rfl

@[simp] theorem State.modCool_lic (s : State) (f : Cooling → Cooling) :
    (s.modCool f).lic = s.lic := rfl

@[simp] theorem State.modCool_zone (s : State) (f : Cooling → Cooling) :
    (s.modCool f).zone = s.zone := rfl

@[simp] theorem State.modCool_alarm (s : State) (f : Cooling → Cooling) :
    (s.modCool f).alarm = s.alarm := rfl

@[simp] theorem State.modPower_pending (s : State) (f : Power → Power) :
    (s.modPower f).pending = s.pending := rfl

@[simp] theorem State.modPower_time (s : State) (f : Power → Power) :
    (s.modPower f).time = s.time := rfl

@[simp] theorem State.modPower_lastMark (s : State) (f : Power → Power) :
    (s.modPower f).lastMark = s.lastMark := rfl

@[simp] theorem State.modPower_straps (s : State) (f : Power → Power) :
    (s.modPower f).straps = s.straps := rfl

@[simp] theorem State.modPower_serial (s : State) (f : Power → Power) :
    (s.modPower f).serial = s.serial := rfl

@[simp] theorem State.modPower_link (s : State) (f : Power → Power) :
    (s.modPower f).link = s.link := rfl

@[simp] theorem State.modPower_auth (s : State) (f : Power → Power) :
    (s.modPower f).auth = s.auth := rfl

@[simp] theorem State.modPower_bus (s : State) (f : Power → Power) :
    (s.modPower f).bus = s.bus := rfl

@[simp] theorem State.modPower_cool (s : State) (f : Power → Power) :
    (s.modPower f).cool = s.cool := rfl

@[simp] theorem State.modPower_power (s : State) (f : Power → Power) :
    (s.modPower f).power = f s.power := rfl

@[simp] theorem State.modPower_lic (s : State) (f : Power → Power) :
    (s.modPower f).lic = s.lic := rfl

@[simp] theorem State.modPower_zone (s : State) (f : Power → Power) :
    (s.modPower f).zone = s.zone := rfl

@[simp] theorem State.modPower_alarm (s : State) (f : Power → Power) :
    (s.modPower f).alarm = s.alarm := rfl

@[simp] theorem State.modLic_pending (s : State) (f : License → License) :
    (s.modLic f).pending = s.pending := rfl

@[simp] theorem State.modLic_time (s : State) (f : License → License) :
    (s.modLic f).time = s.time := rfl

@[simp] theorem State.modLic_lastMark (s : State) (f : License → License) :
    (s.modLic f).lastMark = s.lastMark := rfl

@[simp] theorem State.modLic_straps (s : State) (f : License → License) :
    (s.modLic f).straps = s.straps := rfl

@[simp] theorem State.modLic_serial (s : State) (f : License → License) :
    (s.modLic f).serial = s.serial := rfl

@[simp] theorem State.modLic_link (s : State) (f : License → License) :
    (s.modLic f).link = s.link := rfl

@[simp] theorem State.modLic_auth (s : State) (f : License → License) :
    (s.modLic f).auth = s.auth := rfl

@[simp] theorem State.modLic_bus (s : State) (f : License → License) :
    (s.modLic f).bus = s.bus := rfl

@[simp] theorem State.modLic_cool (s : State) (f : License → License) :
    (s.modLic f).cool = s.cool := rfl

@[simp] theorem State.modLic_power (s : State) (f : License → License) :
    (s.modLic f).power = s.power := rfl

@[simp] theorem State.modLic_lic (s : State) (f : License → License) :
    (s.modLic f).lic = f s.lic := rfl

@[simp] theorem State.modLic_zone (s : State) (f : License → License) :
    (s.modLic f).zone = s.zone := rfl

@[simp] theorem State.modLic_alarm (s : State) (f : License → License) :
    (s.modLic f).alarm = s.alarm := rfl

@[simp] theorem State.modZone_pending (s : State) (f : Zoning → Zoning) :
    (s.modZone f).pending = s.pending := rfl

@[simp] theorem State.modZone_time (s : State) (f : Zoning → Zoning) :
    (s.modZone f).time = s.time := rfl

@[simp] theorem State.modZone_lastMark (s : State) (f : Zoning → Zoning) :
    (s.modZone f).lastMark = s.lastMark := rfl

@[simp] theorem State.modZone_straps (s : State) (f : Zoning → Zoning) :
    (s.modZone f).straps = s.straps := rfl

@[simp] theorem State.modZone_serial (s : State) (f : Zoning → Zoning) :
    (s.modZone f).serial = s.serial := rfl

@[simp] theorem State.modZone_link (s : State) (f : Zoning → Zoning) :
    (s.modZone f).link = s.link := rfl

@[simp] theorem State.modZone_auth (s : State) (f : Zoning → Zoning) :
    (s.modZone f).auth = s.auth := rfl

@[simp] theorem State.modZone_bus (s : State) (f : Zoning → Zoning) :
    (s.modZone f).bus = s.bus := rfl

@[simp] theorem State.modZone_cool (s : State) (f : Zoning → Zoning) :
    (s.modZone f).cool = s.cool := rfl

@[simp] theorem State.modZone_power (s : State) (f : Zoning → Zoning) :
    (s.modZone f).power = s.power := rfl

@[simp] theorem State.modZone_lic (s : State) (f : Zoning → Zoning) :
    (s.modZone f).lic = s.lic := rfl

@[simp] theorem State.modZone_zone (s : State) (f : Zoning → Zoning) :
    (s.modZone f).zone = f s.zone := rfl

@[simp] theorem State.modZone_alarm (s : State) (f : Zoning → Zoning) :
    (s.modZone f).alarm = s.alarm := rfl

@[simp] theorem State.modAlarm_pending (s : State) (f : Alarm → Alarm) :
    (s.modAlarm f).pending = s.pending := rfl

@[simp] theorem State.modAlarm_time (s : State) (f : Alarm → Alarm) :
    (s.modAlarm f).time = s.time := rfl

@[simp] theorem State.modAlarm_lastMark (s : State) (f : Alarm → Alarm) :
    (s.modAlarm f).lastMark = s.lastMark := rfl

@[simp] theorem State.modAlarm_straps (s : State) (f : Alarm → Alarm) :
    (s.modAlarm f).straps = s.straps := rfl

@[simp] theorem State.modAlarm_serial (s : State) (f : Alarm → Alarm) :
    (s.modAlarm f).serial = s.serial := rfl

@[simp] theorem State.modAlarm_link (s : State) (f : Alarm → Alarm) :
    (s.modAlarm f).link = s.link := rfl

@[simp] theorem State.modAlarm_auth (s : State) (f : Alarm → Alarm) :
    (s.modAlarm f).auth = s.auth := rfl

@[simp] theorem State.modAlarm_bus (s : State) (f : Alarm → Alarm) :
    (s.modAlarm f).bus = s.bus := rfl

@[simp] theorem State.modAlarm_cool (s : State) (f : Alarm → Alarm) :
    (s.modAlarm f).cool = s.cool := rfl

@[simp] theorem State.modAlarm_power (s : State) (f : Alarm → Alarm) :
    (s.modAlarm f).power = s.power := rfl

@[simp] theorem State.modAlarm_lic (s : State) (f : Alarm → Alarm) :
    (s.modAlarm f).lic = s.lic := rfl

@[simp] theorem State.modAlarm_zone (s : State) (f : Alarm → Alarm) :
    (s.modAlarm f).zone = s.zone := rfl

@[simp] theorem State.modAlarm_alarm (s : State) (f : Alarm → Alarm) :
    (s.modAlarm f).alarm = f s.alarm := rfl

@[simp] theorem State.modLink_pending (s : State) (c : Cp) (f : LinkPort → LinkPort) :
    (s.modLink c f).pending = s.pending := rfl

@[simp] theorem State.modLink_time (s : State) (c : Cp) (f : LinkPort → LinkPort) :
    (s.modLink c f).time = s.time := rfl

@[simp] theorem State.modLink_lastMark (s : State) (c : Cp) (f : LinkPort → LinkPort) :
    (s.modLink c f).lastMark = s.lastMark := rfl

@[simp] theorem State.modLink_straps (s : State) (c : Cp) (f : LinkPort → LinkPort) :
    (s.modLink c f).straps = s.straps := rfl

@[simp] theorem State.modLink_serial (s : State) (c : Cp) (f : LinkPort → LinkPort) :
    (s.modLink c f).serial = s.serial := rfl

@[simp] theorem State.modLink_link (s : State) (c : Cp) (f : LinkPort → LinkPort) :
    (s.modLink c f).link = s.link.put c (f (s.link.get c)) := rfl

@[simp] theorem State.modLink_auth (s : State) (c : Cp) (f : LinkPort → LinkPort) :
    (s.modLink c f).auth = s.auth := rfl

@[simp] theorem State.modLink_bus (s : State) (c : Cp) (f : LinkPort → LinkPort) :
    (s.modLink c f).bus = s.bus := rfl

@[simp] theorem State.modLink_cool (s : State) (c : Cp) (f : LinkPort → LinkPort) :
    (s.modLink c f).cool = s.cool := rfl

@[simp] theorem State.modLink_power (s : State) (c : Cp) (f : LinkPort → LinkPort) :
    (s.modLink c f).power = s.power := rfl

@[simp] theorem State.modLink_lic (s : State) (c : Cp) (f : LinkPort → LinkPort) :
    (s.modLink c f).lic = s.lic := rfl

@[simp] theorem State.modLink_zone (s : State) (c : Cp) (f : LinkPort → LinkPort) :
    (s.modLink c f).zone = s.zone := rfl

@[simp] theorem State.modLink_alarm (s : State) (c : Cp) (f : LinkPort → LinkPort) :
    (s.modLink c f).alarm = s.alarm := rfl

@[simp] theorem State.setPending_pending (s : State) (q : List Instr) :
    (s.setPending q).pending = q := rfl

@[simp] theorem State.setPending_time (s : State) (q : List Instr) :
    (s.setPending q).time = s.time := rfl

@[simp] theorem State.setPending_lastMark (s : State) (q : List Instr) :
    (s.setPending q).lastMark = s.lastMark := rfl

@[simp] theorem State.setPending_straps (s : State) (q : List Instr) :
    (s.setPending q).straps = s.straps := rfl

@[simp] theorem State.setPending_serial (s : State) (q : List Instr) :
    (s.setPending q).serial = s.serial := rfl

@[simp] theorem State.setPending_link (s : State) (q : List Instr) :
    (s.setPending q).link = s.link := rfl

@[simp] theorem State.setPending_auth (s : State) (q : List Instr) :
    (s.setPending q).auth = s.auth := rfl

@[simp] theorem State.setPending_bus (s : State) (q : List Instr) :
    (s.setPending q).bus = s.bus := rfl

@[simp] theorem State.setPending_cool (s : State) (q : List Instr) :
    (s.setPending q).cool = s.cool := rfl

@[simp] theorem State.setPending_power (s : State) (q : List Instr) :
    (s.setPending q).power = s.power := rfl

@[simp] theorem State.setPending_lic (s : State) (q : List Instr) :
    (s.setPending q).lic = s.lic := rfl

@[simp] theorem State.setPending_zone (s : State) (q : List Instr) :
    (s.setPending q).zone = s.zone := rfl

@[simp] theorem State.setPending_alarm (s : State) (q : List Instr) :
    (s.setPending q).alarm = s.alarm := rfl

@[simp] theorem State.setTime_pending (s : State) (t : Time) :
    (s.setTime t).pending = s.pending := rfl

@[simp] theorem State.setTime_time (s : State) (t : Time) :
    (s.setTime t).time = t := rfl

@[simp] theorem State.setTime_lastMark (s : State) (t : Time) :
    (s.setTime t).lastMark = s.lastMark := rfl

@[simp] theorem State.setTime_straps (s : State) (t : Time) :
    (s.setTime t).straps = s.straps := rfl

@[simp] theorem State.setTime_serial (s : State) (t : Time) :
    (s.setTime t).serial = s.serial := rfl

@[simp] theorem State.setTime_link (s : State) (t : Time) :
    (s.setTime t).link = s.link := rfl

@[simp] theorem State.setTime_auth (s : State) (t : Time) :
    (s.setTime t).auth = s.auth := rfl

@[simp] theorem State.setTime_bus (s : State) (t : Time) :
    (s.setTime t).bus = s.bus := rfl

@[simp] theorem State.setTime_cool (s : State) (t : Time) :
    (s.setTime t).cool = s.cool := rfl

@[simp] theorem State.setTime_power (s : State) (t : Time) :
    (s.setTime t).power = s.power := rfl

@[simp] theorem State.setTime_lic (s : State) (t : Time) :
    (s.setTime t).lic = s.lic := rfl

@[simp] theorem State.setTime_zone (s : State) (t : Time) :
    (s.setTime t).zone = s.zone := rfl

@[simp] theorem State.setTime_alarm (s : State) (t : Time) :
    (s.setTime t).alarm = s.alarm := rfl

end Sys2Proof.Machine
end

