-- ==== Sys2Proof/Laws/Frames.lean ====
section
/-! SUPPORT. What the shared operations leave as it was: one lemma for each operation and each part of the
state that it does not write. -/

namespace Sys2Proof.Machine

@[simp] theorem joinHeld_pending (x : HeldField) (s : State) : (joinHeld x s).pending = s.pending := by
  unfold joinHeld; split <;> rfl

@[simp] theorem joinHeld_time (x : HeldField) (s : State) : (joinHeld x s).time = s.time := by
  unfold joinHeld; split <;> rfl

@[simp] theorem joinHeld_lastMark (x : HeldField) (s : State) : (joinHeld x s).lastMark = s.lastMark := by
  unfold joinHeld; split <;> rfl

@[simp] theorem joinHeld_straps (x : HeldField) (s : State) : (joinHeld x s).straps = s.straps := by
  unfold joinHeld; split <;> rfl

@[simp] theorem joinHeld_serial (x : HeldField) (s : State) : (joinHeld x s).serial = s.serial := by
  unfold joinHeld; split <;> rfl

@[simp] theorem joinHeld_link (x : HeldField) (s : State) : (joinHeld x s).link = s.link := by
  unfold joinHeld; split <;> rfl

@[simp] theorem joinHeld_auth (x : HeldField) (s : State) : (joinHeld x s).auth = s.auth := by
  unfold joinHeld; split <;> rfl

@[simp] theorem joinHeld_cool (x : HeldField) (s : State) : (joinHeld x s).cool = s.cool := by
  unfold joinHeld; split <;> rfl

@[simp] theorem joinHeld_power (x : HeldField) (s : State) : (joinHeld x s).power = s.power := by
  unfold joinHeld; split <;> rfl

@[simp] theorem joinHeld_lic (x : HeldField) (s : State) : (joinHeld x s).lic = s.lic := by
  unfold joinHeld; split <;> rfl

@[simp] theorem joinHeld_zone (x : HeldField) (s : State) : (joinHeld x s).zone = s.zone := by
  unfold joinHeld; split <;> rfl

@[simp] theorem joinHeld_alarm (x : HeldField) (s : State) : (joinHeld x s).alarm = s.alarm := by
  unfold joinHeld; split <;> rfl

@[simp] theorem joinClass1_pending (x : Class1) (s : State) : (joinClass1 x s).pending = s.pending := by
  rfl

@[simp] theorem joinClass1_time (x : Class1) (s : State) : (joinClass1 x s).time = s.time := by
  rfl

@[simp] theorem joinClass1_lastMark (x : Class1) (s : State) : (joinClass1 x s).lastMark = s.lastMark := by
  rfl

@[simp] theorem joinClass1_straps (x : Class1) (s : State) : (joinClass1 x s).straps = s.straps := by
  rfl

@[simp] theorem joinClass1_serial (x : Class1) (s : State) : (joinClass1 x s).serial = s.serial := by
  rfl

@[simp] theorem joinClass1_link (x : Class1) (s : State) : (joinClass1 x s).link = s.link := by
  rfl

@[simp] theorem joinClass1_auth (x : Class1) (s : State) : (joinClass1 x s).auth = s.auth := by
  rfl

@[simp] theorem joinClass1_cool (x : Class1) (s : State) : (joinClass1 x s).cool = s.cool := by
  rfl

@[simp] theorem joinClass1_power (x : Class1) (s : State) : (joinClass1 x s).power = s.power := by
  rfl

@[simp] theorem joinClass1_lic (x : Class1) (s : State) : (joinClass1 x s).lic = s.lic := by
  rfl

@[simp] theorem joinClass1_zone (x : Class1) (s : State) : (joinClass1 x s).zone = s.zone := by
  rfl

@[simp] theorem joinClass1_alarm (x : Class1) (s : State) : (joinClass1 x s).alarm = s.alarm := by
  rfl

@[simp] theorem joinAll_pending (xs : List HeldField) (s : State) : (joinAll xs s).pending = s.pending := by
  unfold joinAll
  induction xs generalizing s with
  | nil => rfl
  | cons x xs ih => rw [List.foldl_cons, ih]; simp

@[simp] theorem joinAll_time (xs : List HeldField) (s : State) : (joinAll xs s).time = s.time := by
  unfold joinAll
  induction xs generalizing s with
  | nil => rfl
  | cons x xs ih => rw [List.foldl_cons, ih]; simp

@[simp] theorem joinAll_lastMark (xs : List HeldField) (s : State) : (joinAll xs s).lastMark = s.lastMark := by
  unfold joinAll
  induction xs generalizing s with
  | nil => rfl
  | cons x xs ih => rw [List.foldl_cons, ih]; simp

@[simp] theorem joinAll_straps (xs : List HeldField) (s : State) : (joinAll xs s).straps = s.straps := by
  unfold joinAll
  induction xs generalizing s with
  | nil => rfl
  | cons x xs ih => rw [List.foldl_cons, ih]; simp

@[simp] theorem joinAll_serial (xs : List HeldField) (s : State) : (joinAll xs s).serial = s.serial := by
  unfold joinAll
  induction xs generalizing s with
  | nil => rfl
  | cons x xs ih => rw [List.foldl_cons, ih]; simp

@[simp] theorem joinAll_link (xs : List HeldField) (s : State) : (joinAll xs s).link = s.link := by
  unfold joinAll
  induction xs generalizing s with
  | nil => rfl
  | cons x xs ih => rw [List.foldl_cons, ih]; simp

@[simp] theorem joinAll_auth (xs : List HeldField) (s : State) : (joinAll xs s).auth = s.auth := by
  unfold joinAll
  induction xs generalizing s with
  | nil => rfl
  | cons x xs ih => rw [List.foldl_cons, ih]; simp

@[simp] theorem joinAll_cool (xs : List HeldField) (s : State) : (joinAll xs s).cool = s.cool := by
  unfold joinAll
  induction xs generalizing s with
  | nil => rfl
  | cons x xs ih => rw [List.foldl_cons, ih]; simp

@[simp] theorem joinAll_power (xs : List HeldField) (s : State) : (joinAll xs s).power = s.power := by
  unfold joinAll
  induction xs generalizing s with
  | nil => rfl
  | cons x xs ih => rw [List.foldl_cons, ih]; simp

@[simp] theorem joinAll_lic (xs : List HeldField) (s : State) : (joinAll xs s).lic = s.lic := by
  unfold joinAll
  induction xs generalizing s with
  | nil => rfl
  | cons x xs ih => rw [List.foldl_cons, ih]; simp

@[simp] theorem joinAll_zone (xs : List HeldField) (s : State) : (joinAll xs s).zone = s.zone := by
  unfold joinAll
  induction xs generalizing s with
  | nil => rfl
  | cons x xs ih => rw [List.foldl_cons, ih]; simp

@[simp] theorem joinAll_alarm (xs : List HeldField) (s : State) : (joinAll xs s).alarm = s.alarm := by
  unfold joinAll
  induction xs generalizing s with
  | nil => rfl
  | cons x xs ih => rw [List.foldl_cons, ih]; simp

@[simp] theorem putOnBus_pending (x : OnBus) (n : Nat) (s : State) : (putOnBus x n s).pending = s.pending := by
  rfl

@[simp] theorem putOnBus_time (x : OnBus) (n : Nat) (s : State) : (putOnBus x n s).time = s.time := by
  rfl

@[simp] theorem putOnBus_lastMark (x : OnBus) (n : Nat) (s : State) : (putOnBus x n s).lastMark = s.lastMark := by
  rfl

@[simp] theorem putOnBus_straps (x : OnBus) (n : Nat) (s : State) : (putOnBus x n s).straps = s.straps := by
  rfl

@[simp] theorem putOnBus_serial (x : OnBus) (n : Nat) (s : State) : (putOnBus x n s).serial = s.serial := by
  rfl

@[simp] theorem putOnBus_link (x : OnBus) (n : Nat) (s : State) : (putOnBus x n s).link = s.link := by
  rfl

@[simp] theorem putOnBus_auth (x : OnBus) (n : Nat) (s : State) : (putOnBus x n s).auth = s.auth := by
  rfl

@[simp] theorem putOnBus_cool (x : OnBus) (n : Nat) (s : State) : (putOnBus x n s).cool = s.cool := by
  rfl

@[simp] theorem putOnBus_power (x : OnBus) (n : Nat) (s : State) : (putOnBus x n s).power = s.power := by
  rfl

@[simp] theorem putOnBus_lic (x : OnBus) (n : Nat) (s : State) : (putOnBus x n s).lic = s.lic := by
  rfl

@[simp] theorem putOnBus_zone (x : OnBus) (n : Nat) (s : State) : (putOnBus x n s).zone = s.zone := by
  rfl

@[simp] theorem putOnBus_alarm (x : OnBus) (n : Nat) (s : State) : (putOnBus x n s).alarm = s.alarm := by
  rfl

@[simp] theorem grantScan_pending (s : State) : (grantScan s).pending = s.pending := by
  unfold grantScan; split <;> rfl

@[simp] theorem grantScan_time (s : State) : (grantScan s).time = s.time := by
  unfold grantScan; split <;> rfl

@[simp] theorem grantScan_lastMark (s : State) : (grantScan s).lastMark = s.lastMark := by
  unfold grantScan; split <;> rfl

@[simp] theorem grantScan_straps (s : State) : (grantScan s).straps = s.straps := by
  unfold grantScan; split <;> rfl

@[simp] theorem grantScan_serial (s : State) : (grantScan s).serial = s.serial := by
  unfold grantScan; split <;> rfl

@[simp] theorem grantScan_link (s : State) : (grantScan s).link = s.link := by
  unfold grantScan; split <;> rfl

@[simp] theorem grantScan_auth (s : State) : (grantScan s).auth = s.auth := by
  unfold grantScan; split <;> rfl

@[simp] theorem grantScan_cool (s : State) : (grantScan s).cool = s.cool := by
  unfold grantScan; split <;> rfl

@[simp] theorem grantScan_power (s : State) : (grantScan s).power = s.power := by
  unfold grantScan; split <;> rfl

@[simp] theorem grantScan_lic (s : State) : (grantScan s).lic = s.lic := by
  unfold grantScan; split <;> rfl

@[simp] theorem grantScan_zone (s : State) : (grantScan s).zone = s.zone := by
  unfold grantScan; split <;> rfl

@[simp] theorem grantScan_alarm (s : State) : (grantScan s).alarm = s.alarm := by
  unfold grantScan; split <;> rfl

@[simp] theorem arbitrate_pending (s : State) : (arbitrate s).pending = s.pending := by
  unfold arbitrate grantByClass grantLow; dsimp only
  repeat' split
  all_goals first | rfl | simp

@[simp] theorem arbitrate_time (s : State) : (arbitrate s).time = s.time := by
  unfold arbitrate grantByClass grantLow; dsimp only
  repeat' split
  all_goals first | rfl | simp

@[simp] theorem arbitrate_lastMark (s : State) : (arbitrate s).lastMark = s.lastMark := by
  unfold arbitrate grantByClass grantLow; dsimp only
  repeat' split
  all_goals first | rfl | simp

@[simp] theorem arbitrate_straps (s : State) : (arbitrate s).straps = s.straps := by
  unfold arbitrate grantByClass grantLow; dsimp only
  repeat' split
  all_goals first | rfl | simp

@[simp] theorem arbitrate_serial (s : State) : (arbitrate s).serial = s.serial := by
  unfold arbitrate grantByClass grantLow; dsimp only
  repeat' split
  all_goals first | rfl | simp

@[simp] theorem arbitrate_link (s : State) : (arbitrate s).link = s.link := by
  unfold arbitrate grantByClass grantLow; dsimp only
  repeat' split
  all_goals first | rfl | simp

@[simp] theorem arbitrate_auth (s : State) : (arbitrate s).auth = s.auth := by
  unfold arbitrate grantByClass grantLow; dsimp only
  repeat' split
  all_goals first | rfl | simp

@[simp] theorem arbitrate_cool (s : State) : (arbitrate s).cool = s.cool := by
  unfold arbitrate grantByClass grantLow; dsimp only
  repeat' split
  all_goals first | rfl | simp

@[simp] theorem arbitrate_power (s : State) : (arbitrate s).power = s.power := by
  unfold arbitrate grantByClass grantLow; dsimp only
  repeat' split
  all_goals first | rfl | simp

@[simp] theorem arbitrate_lic (s : State) : (arbitrate s).lic = s.lic := by
  unfold arbitrate grantByClass grantLow; dsimp only
  repeat' split
  all_goals first | rfl | simp

@[simp] theorem arbitrate_zone (s : State) : (arbitrate s).zone = s.zone := by
  unfold arbitrate grantByClass grantLow; dsimp only
  repeat' split
  all_goals first | rfl | simp

@[simp] theorem arbitrate_alarm (s : State) : (arbitrate s).alarm = s.alarm := by
  unfold arbitrate grantByClass grantLow; dsimp only
  repeat' split
  all_goals first | rfl | simp

@[simp] theorem reevaluate_pending (s : State) : (reevaluate s).pending = s.pending := by
  unfold reevaluate; dsimp only; split <;> simp

@[simp] theorem reevaluate_time (s : State) : (reevaluate s).time = s.time := by
  unfold reevaluate; dsimp only; split <;> simp

@[simp] theorem reevaluate_lastMark (s : State) : (reevaluate s).lastMark = s.lastMark := by
  unfold reevaluate; dsimp only; split <;> simp

@[simp] theorem reevaluate_straps (s : State) : (reevaluate s).straps = s.straps := by
  unfold reevaluate; dsimp only; split <;> simp

@[simp] theorem reevaluate_serial (s : State) : (reevaluate s).serial = s.serial := by
  unfold reevaluate; dsimp only; split <;> simp

@[simp] theorem reevaluate_link (s : State) : (reevaluate s).link = s.link := by
  unfold reevaluate; dsimp only; split <;> simp

@[simp] theorem reevaluate_auth (s : State) : (reevaluate s).auth = s.auth := by
  unfold reevaluate; dsimp only; split <;> simp

@[simp] theorem reevaluate_cool (s : State) : (reevaluate s).cool = s.cool := by
  unfold reevaluate; dsimp only; split <;> simp

@[simp] theorem reevaluate_power (s : State) : (reevaluate s).power = s.power := by
  unfold reevaluate; dsimp only; split <;> simp

@[simp] theorem reevaluate_lic (s : State) : (reevaluate s).lic = s.lic := by
  unfold reevaluate; dsimp only; split <;> simp

@[simp] theorem reevaluate_zone (s : State) : (reevaluate s).zone = s.zone := by
  unfold reevaluate; dsimp only; split <;> simp

theorem reevaluate_alarm (s : State) :
    (reevaluate s).alarm
      = { s.alarm with attn := ⟨attentionOf s .a, attentionOf s .b⟩, led := ledOf s.alarm } := by
  unfold reevaluate; dsimp only; split <;> simp

@[simp] theorem modCond_pending (c : AlarmClass) (n : Nat) (f : CondRow → CondRow) (s : State) : (modCond c n f s).pending = s.pending := by
  rfl

@[simp] theorem modCond_time (c : AlarmClass) (n : Nat) (f : CondRow → CondRow) (s : State) : (modCond c n f s).time = s.time := by
  rfl

@[simp] theorem modCond_lastMark (c : AlarmClass) (n : Nat) (f : CondRow → CondRow) (s : State) : (modCond c n f s).lastMark = s.lastMark := by
  rfl

@[simp] theorem modCond_straps (c : AlarmClass) (n : Nat) (f : CondRow → CondRow) (s : State) : (modCond c n f s).straps = s.straps := by
  rfl

@[simp] theorem modCond_serial (c : AlarmClass) (n : Nat) (f : CondRow → CondRow) (s : State) : (modCond c n f s).serial = s.serial := by
  rfl

@[simp] theorem modCond_link (c : AlarmClass) (n : Nat) (f : CondRow → CondRow) (s : State) : (modCond c n f s).link = s.link := by
  rfl

@[simp] theorem modCond_auth (c : AlarmClass) (n : Nat) (f : CondRow → CondRow) (s : State) : (modCond c n f s).auth = s.auth := by
  rfl

@[simp] theorem modCond_bus (c : AlarmClass) (n : Nat) (f : CondRow → CondRow) (s : State) : (modCond c n f s).bus = s.bus := by
  rfl

@[simp] theorem modCond_cool (c : AlarmClass) (n : Nat) (f : CondRow → CondRow) (s : State) : (modCond c n f s).cool = s.cool := by
  rfl

@[simp] theorem modCond_power (c : AlarmClass) (n : Nat) (f : CondRow → CondRow) (s : State) : (modCond c n f s).power = s.power := by
  rfl

@[simp] theorem modCond_lic (c : AlarmClass) (n : Nat) (f : CondRow → CondRow) (s : State) : (modCond c n f s).lic = s.lic := by
  rfl

@[simp] theorem modCond_zone (c : AlarmClass) (n : Nat) (f : CondRow → CondRow) (s : State) : (modCond c n f s).zone = s.zone := by
  rfl

@[simp] theorem modEvent_pending (c : AlarmClass) (n : Nat) (f : EventRow → EventRow) (s : State) : (modEvent c n f s).pending = s.pending := by
  rfl

@[simp] theorem modEvent_time (c : AlarmClass) (n : Nat) (f : EventRow → EventRow) (s : State) : (modEvent c n f s).time = s.time := by
  rfl

@[simp] theorem modEvent_lastMark (c : AlarmClass) (n : Nat) (f : EventRow → EventRow) (s : State) : (modEvent c n f s).lastMark = s.lastMark := by
  rfl

@[simp] theorem modEvent_straps (c : AlarmClass) (n : Nat) (f : EventRow → EventRow) (s : State) : (modEvent c n f s).straps = s.straps := by
  rfl

@[simp] theorem modEvent_serial (c : AlarmClass) (n : Nat) (f : EventRow → EventRow) (s : State) : (modEvent c n f s).serial = s.serial := by
  rfl

@[simp] theorem modEvent_link (c : AlarmClass) (n : Nat) (f : EventRow → EventRow) (s : State) : (modEvent c n f s).link = s.link := by
  rfl

@[simp] theorem modEvent_auth (c : AlarmClass) (n : Nat) (f : EventRow → EventRow) (s : State) : (modEvent c n f s).auth = s.auth := by
  rfl

@[simp] theorem modEvent_bus (c : AlarmClass) (n : Nat) (f : EventRow → EventRow) (s : State) : (modEvent c n f s).bus = s.bus := by
  rfl

@[simp] theorem modEvent_cool (c : AlarmClass) (n : Nat) (f : EventRow → EventRow) (s : State) : (modEvent c n f s).cool = s.cool := by
  rfl

@[simp] theorem modEvent_power (c : AlarmClass) (n : Nat) (f : EventRow → EventRow) (s : State) : (modEvent c n f s).power = s.power := by
  rfl

@[simp] theorem modEvent_lic (c : AlarmClass) (n : Nat) (f : EventRow → EventRow) (s : State) : (modEvent c n f s).lic = s.lic := by
  rfl

@[simp] theorem modEvent_zone (c : AlarmClass) (n : Nat) (f : EventRow → EventRow) (s : State) : (modEvent c n f s).zone = s.zone := by
  rfl

@[simp] theorem latchEvent_pending (c : AlarmClass) (n : Nat) (i : Bool) (s : State) : (latchEvent c n i s).pending = s.pending := by
  rfl

@[simp] theorem latchEvent_time (c : AlarmClass) (n : Nat) (i : Bool) (s : State) : (latchEvent c n i s).time = s.time := by
  rfl

@[simp] theorem latchEvent_lastMark (c : AlarmClass) (n : Nat) (i : Bool) (s : State) : (latchEvent c n i s).lastMark = s.lastMark := by
  rfl

@[simp] theorem latchEvent_straps (c : AlarmClass) (n : Nat) (i : Bool) (s : State) : (latchEvent c n i s).straps = s.straps := by
  rfl

@[simp] theorem latchEvent_serial (c : AlarmClass) (n : Nat) (i : Bool) (s : State) : (latchEvent c n i s).serial = s.serial := by
  rfl

@[simp] theorem latchEvent_link (c : AlarmClass) (n : Nat) (i : Bool) (s : State) : (latchEvent c n i s).link = s.link := by
  rfl

@[simp] theorem latchEvent_auth (c : AlarmClass) (n : Nat) (i : Bool) (s : State) : (latchEvent c n i s).auth = s.auth := by
  rfl

@[simp] theorem latchEvent_bus (c : AlarmClass) (n : Nat) (i : Bool) (s : State) : (latchEvent c n i s).bus = s.bus := by
  rfl

@[simp] theorem latchEvent_cool (c : AlarmClass) (n : Nat) (i : Bool) (s : State) : (latchEvent c n i s).cool = s.cool := by
  rfl

@[simp] theorem latchEvent_power (c : AlarmClass) (n : Nat) (i : Bool) (s : State) : (latchEvent c n i s).power = s.power := by
  rfl

@[simp] theorem latchEvent_lic (c : AlarmClass) (n : Nat) (i : Bool) (s : State) : (latchEvent c n i s).lic = s.lic := by
  rfl

@[simp] theorem latchEvent_zone (c : AlarmClass) (n : Nat) (i : Bool) (s : State) : (latchEvent c n i s).zone = s.zone := by
  rfl

@[simp] theorem closeHalf_pending (h : Fin 2) (s : State) : (closeHalf h s).pending = s.pending := by
  rfl

@[simp] theorem closeHalf_time (h : Fin 2) (s : State) : (closeHalf h s).time = s.time := by
  rfl

@[simp] theorem closeHalf_lastMark (h : Fin 2) (s : State) : (closeHalf h s).lastMark = s.lastMark := by
  rfl

@[simp] theorem closeHalf_straps (h : Fin 2) (s : State) : (closeHalf h s).straps = s.straps := by
  rfl

@[simp] theorem closeHalf_serial (h : Fin 2) (s : State) : (closeHalf h s).serial = s.serial := by
  rfl

@[simp] theorem closeHalf_link (h : Fin 2) (s : State) : (closeHalf h s).link = s.link := by
  rfl

@[simp] theorem closeHalf_auth (h : Fin 2) (s : State) : (closeHalf h s).auth = s.auth := by
  rfl

@[simp] theorem closeHalf_bus (h : Fin 2) (s : State) : (closeHalf h s).bus = s.bus := by
  rfl

@[simp] theorem closeHalf_cool (h : Fin 2) (s : State) : (closeHalf h s).cool = s.cool := by
  rfl

@[simp] theorem closeHalf_power (h : Fin 2) (s : State) : (closeHalf h s).power = s.power := by
  rfl

@[simp] theorem closeHalf_lic (h : Fin 2) (s : State) : (closeHalf h s).lic = s.lic := by
  rfl

@[simp] theorem closeHalf_zone (h : Fin 2) (s : State) : (closeHalf h s).zone = s.zone := by
  rfl

@[simp] theorem appendHistory_pending (c : AlarmClass) (n : Nat) (r : Transition) (i : Bool) (s : State) : (appendHistory c n r i s).pending = s.pending := by
  unfold appendHistory; dsimp only
  repeat' split
  all_goals rfl

@[simp] theorem appendHistory_time (c : AlarmClass) (n : Nat) (r : Transition) (i : Bool) (s : State) : (appendHistory c n r i s).time = s.time := by
  unfold appendHistory; dsimp only
  repeat' split
  all_goals rfl

@[simp] theorem appendHistory_lastMark (c : AlarmClass) (n : Nat) (r : Transition) (i : Bool) (s : State) : (appendHistory c n r i s).lastMark = s.lastMark := by
  unfold appendHistory; dsimp only
  repeat' split
  all_goals rfl

@[simp] theorem appendHistory_straps (c : AlarmClass) (n : Nat) (r : Transition) (i : Bool) (s : State) : (appendHistory c n r i s).straps = s.straps := by
  unfold appendHistory; dsimp only
  repeat' split
  all_goals rfl

@[simp] theorem appendHistory_serial (c : AlarmClass) (n : Nat) (r : Transition) (i : Bool) (s : State) : (appendHistory c n r i s).serial = s.serial := by
  unfold appendHistory; dsimp only
  repeat' split
  all_goals rfl

@[simp] theorem appendHistory_link (c : AlarmClass) (n : Nat) (r : Transition) (i : Bool) (s : State) : (appendHistory c n r i s).link = s.link := by
  unfold appendHistory; dsimp only
  repeat' split
  all_goals rfl

@[simp] theorem appendHistory_auth (c : AlarmClass) (n : Nat) (r : Transition) (i : Bool) (s : State) : (appendHistory c n r i s).auth = s.auth := by
  unfold appendHistory; dsimp only
  repeat' split
  all_goals rfl

@[simp] theorem appendHistory_bus (c : AlarmClass) (n : Nat) (r : Transition) (i : Bool) (s : State) : (appendHistory c n r i s).bus = s.bus := by
  unfold appendHistory; dsimp only
  repeat' split
  all_goals rfl

@[simp] theorem appendHistory_cool (c : AlarmClass) (n : Nat) (r : Transition) (i : Bool) (s : State) : (appendHistory c n r i s).cool = s.cool := by
  unfold appendHistory; dsimp only
  repeat' split
  all_goals rfl

@[simp] theorem appendHistory_power (c : AlarmClass) (n : Nat) (r : Transition) (i : Bool) (s : State) : (appendHistory c n r i s).power = s.power := by
  unfold appendHistory; dsimp only
  repeat' split
  all_goals rfl

@[simp] theorem appendHistory_lic (c : AlarmClass) (n : Nat) (r : Transition) (i : Bool) (s : State) : (appendHistory c n r i s).lic = s.lic := by
  unfold appendHistory; dsimp only
  repeat' split
  all_goals rfl

@[simp] theorem appendHistory_zone (c : AlarmClass) (n : Nat) (r : Transition) (i : Bool) (s : State) : (appendHistory c n r i s).zone = s.zone := by
  unfold appendHistory; dsimp only
  repeat' split
  all_goals rfl

@[simp] theorem occurCondition_pending (c : AlarmClass) (n : Nat) (v : Bool) (s : State) : (occurCondition c n v s).pending = s.pending := by
  simp [occurCondition]

@[simp] theorem occurCondition_time (c : AlarmClass) (n : Nat) (v : Bool) (s : State) : (occurCondition c n v s).time = s.time := by
  simp [occurCondition]

@[simp] theorem occurCondition_lastMark (c : AlarmClass) (n : Nat) (v : Bool) (s : State) : (occurCondition c n v s).lastMark = s.lastMark := by
  simp [occurCondition]

@[simp] theorem occurCondition_straps (c : AlarmClass) (n : Nat) (v : Bool) (s : State) : (occurCondition c n v s).straps = s.straps := by
  simp [occurCondition]

@[simp] theorem occurCondition_serial (c : AlarmClass) (n : Nat) (v : Bool) (s : State) : (occurCondition c n v s).serial = s.serial := by
  simp [occurCondition]

@[simp] theorem occurCondition_link (c : AlarmClass) (n : Nat) (v : Bool) (s : State) : (occurCondition c n v s).link = s.link := by
  simp [occurCondition]

@[simp] theorem occurCondition_auth (c : AlarmClass) (n : Nat) (v : Bool) (s : State) : (occurCondition c n v s).auth = s.auth := by
  simp [occurCondition]

@[simp] theorem occurCondition_cool (c : AlarmClass) (n : Nat) (v : Bool) (s : State) : (occurCondition c n v s).cool = s.cool := by
  simp [occurCondition]

@[simp] theorem occurCondition_power (c : AlarmClass) (n : Nat) (v : Bool) (s : State) : (occurCondition c n v s).power = s.power := by
  simp [occurCondition]

@[simp] theorem occurCondition_lic (c : AlarmClass) (n : Nat) (v : Bool) (s : State) : (occurCondition c n v s).lic = s.lic := by
  simp [occurCondition]

@[simp] theorem occurCondition_zone (c : AlarmClass) (n : Nat) (v : Bool) (s : State) : (occurCondition c n v s).zone = s.zone := by
  simp [occurCondition]

@[simp] theorem occurEvent_pending (c : AlarmClass) (n : Nat) (i : Bool) (s : State) : (occurEvent c n i s).pending = s.pending := by
  simp [occurEvent]

@[simp] theorem occurEvent_time (c : AlarmClass) (n : Nat) (i : Bool) (s : State) : (occurEvent c n i s).time = s.time := by
  simp [occurEvent]

@[simp] theorem occurEvent_lastMark (c : AlarmClass) (n : Nat) (i : Bool) (s : State) : (occurEvent c n i s).lastMark = s.lastMark := by
  simp [occurEvent]

@[simp] theorem occurEvent_straps (c : AlarmClass) (n : Nat) (i : Bool) (s : State) : (occurEvent c n i s).straps = s.straps := by
  simp [occurEvent]

@[simp] theorem occurEvent_serial (c : AlarmClass) (n : Nat) (i : Bool) (s : State) : (occurEvent c n i s).serial = s.serial := by
  simp [occurEvent]

@[simp] theorem occurEvent_link (c : AlarmClass) (n : Nat) (i : Bool) (s : State) : (occurEvent c n i s).link = s.link := by
  simp [occurEvent]

@[simp] theorem occurEvent_auth (c : AlarmClass) (n : Nat) (i : Bool) (s : State) : (occurEvent c n i s).auth = s.auth := by
  simp [occurEvent]

@[simp] theorem occurEvent_cool (c : AlarmClass) (n : Nat) (i : Bool) (s : State) : (occurEvent c n i s).cool = s.cool := by
  simp [occurEvent]

@[simp] theorem occurEvent_power (c : AlarmClass) (n : Nat) (i : Bool) (s : State) : (occurEvent c n i s).power = s.power := by
  simp [occurEvent]

@[simp] theorem occurEvent_lic (c : AlarmClass) (n : Nat) (i : Bool) (s : State) : (occurEvent c n i s).lic = s.lic := by
  simp [occurEvent]

@[simp] theorem occurEvent_zone (c : AlarmClass) (n : Nat) (i : Bool) (s : State) : (occurEvent c n i s).zone = s.zone := by
  simp [occurEvent]

@[simp] theorem occurForced_pending (c : AlarmClass) (n : Nat) (v : Bool) (s : State) : (occurForced c n v s).pending = s.pending := by
  simp [occurForced]

@[simp] theorem occurForced_time (c : AlarmClass) (n : Nat) (v : Bool) (s : State) : (occurForced c n v s).time = s.time := by
  simp [occurForced]

@[simp] theorem occurForced_lastMark (c : AlarmClass) (n : Nat) (v : Bool) (s : State) : (occurForced c n v s).lastMark = s.lastMark := by
  simp [occurForced]

@[simp] theorem occurForced_straps (c : AlarmClass) (n : Nat) (v : Bool) (s : State) : (occurForced c n v s).straps = s.straps := by
  simp [occurForced]

@[simp] theorem occurForced_serial (c : AlarmClass) (n : Nat) (v : Bool) (s : State) : (occurForced c n v s).serial = s.serial := by
  simp [occurForced]

@[simp] theorem occurForced_link (c : AlarmClass) (n : Nat) (v : Bool) (s : State) : (occurForced c n v s).link = s.link := by
  simp [occurForced]

@[simp] theorem occurForced_auth (c : AlarmClass) (n : Nat) (v : Bool) (s : State) : (occurForced c n v s).auth = s.auth := by
  simp [occurForced]

@[simp] theorem occurForced_cool (c : AlarmClass) (n : Nat) (v : Bool) (s : State) : (occurForced c n v s).cool = s.cool := by
  simp [occurForced]

@[simp] theorem occurForced_power (c : AlarmClass) (n : Nat) (v : Bool) (s : State) : (occurForced c n v s).power = s.power := by
  simp [occurForced]

@[simp] theorem occurForced_lic (c : AlarmClass) (n : Nat) (v : Bool) (s : State) : (occurForced c n v s).lic = s.lic := by
  simp [occurForced]

@[simp] theorem occurForced_zone (c : AlarmClass) (n : Nat) (v : Bool) (s : State) : (occurForced c n v s).zone = s.zone := by
  simp [occurForced]

@[simp] theorem handCondition_pending (c : AlarmClass) (n : Nat) (s : State) : (handCondition c n s).pending = s.pending := by
  unfold handCondition; dsimp only; split <;> simp

@[simp] theorem handCondition_time (c : AlarmClass) (n : Nat) (s : State) : (handCondition c n s).time = s.time := by
  unfold handCondition; dsimp only; split <;> simp

@[simp] theorem handCondition_lastMark (c : AlarmClass) (n : Nat) (s : State) : (handCondition c n s).lastMark = s.lastMark := by
  unfold handCondition; dsimp only; split <;> simp

@[simp] theorem handCondition_straps (c : AlarmClass) (n : Nat) (s : State) : (handCondition c n s).straps = s.straps := by
  unfold handCondition; dsimp only; split <;> simp

@[simp] theorem handCondition_serial (c : AlarmClass) (n : Nat) (s : State) : (handCondition c n s).serial = s.serial := by
  unfold handCondition; dsimp only; split <;> simp

@[simp] theorem handCondition_link (c : AlarmClass) (n : Nat) (s : State) : (handCondition c n s).link = s.link := by
  unfold handCondition; dsimp only; split <;> simp

@[simp] theorem handCondition_auth (c : AlarmClass) (n : Nat) (s : State) : (handCondition c n s).auth = s.auth := by
  unfold handCondition; dsimp only; split <;> simp

@[simp] theorem handCondition_cool (c : AlarmClass) (n : Nat) (s : State) : (handCondition c n s).cool = s.cool := by
  unfold handCondition; dsimp only; split <;> simp

@[simp] theorem handCondition_power (c : AlarmClass) (n : Nat) (s : State) : (handCondition c n s).power = s.power := by
  unfold handCondition; dsimp only; split <;> simp

@[simp] theorem handCondition_lic (c : AlarmClass) (n : Nat) (s : State) : (handCondition c n s).lic = s.lic := by
  unfold handCondition; dsimp only; split <;> simp

@[simp] theorem handCondition_zone (c : AlarmClass) (n : Nat) (s : State) : (handCondition c n s).zone = s.zone := by
  unfold handCondition; dsimp only; split <;> simp

@[simp] theorem clearService_pending (c : Cp) (s : State) : (clearService c s).pending = s.pending := by
  simp [clearService]

@[simp] theorem clearService_time (c : Cp) (s : State) : (clearService c s).time = s.time := by
  simp [clearService]

@[simp] theorem clearService_lastMark (c : Cp) (s : State) : (clearService c s).lastMark = s.lastMark := by
  simp [clearService]

@[simp] theorem clearService_straps (c : Cp) (s : State) : (clearService c s).straps = s.straps := by
  simp [clearService]

@[simp] theorem clearService_serial (c : Cp) (s : State) : (clearService c s).serial = s.serial := by
  simp [clearService]

@[simp] theorem clearService_link (c : Cp) (s : State) : (clearService c s).link = s.link := by
  simp [clearService]

@[simp] theorem clearService_auth (c : Cp) (s : State) : (clearService c s).auth = s.auth := by
  simp [clearService]

@[simp] theorem clearService_cool (c : Cp) (s : State) : (clearService c s).cool = s.cool := by
  simp [clearService]

@[simp] theorem clearService_power (c : Cp) (s : State) : (clearService c s).power = s.power := by
  simp [clearService]

@[simp] theorem clearService_lic (c : Cp) (s : State) : (clearService c s).lic = s.lic := by
  simp [clearService]

@[simp] theorem clearService_zone (c : Cp) (s : State) : (clearService c s).zone = s.zone := by
  simp [clearService]

@[simp] theorem recomputeDuty_pending (s : State) : (recomputeDuty s).pending = s.pending := by
  unfold recomputeDuty; dsimp only; split <;> simp

@[simp] theorem recomputeDuty_time (s : State) : (recomputeDuty s).time = s.time := by
  unfold recomputeDuty; dsimp only; split <;> simp

@[simp] theorem recomputeDuty_lastMark (s : State) : (recomputeDuty s).lastMark = s.lastMark := by
  unfold recomputeDuty; dsimp only; split <;> simp

@[simp] theorem recomputeDuty_straps (s : State) : (recomputeDuty s).straps = s.straps := by
  unfold recomputeDuty; dsimp only; split <;> simp

@[simp] theorem recomputeDuty_serial (s : State) : (recomputeDuty s).serial = s.serial := by
  unfold recomputeDuty; dsimp only; split <;> simp

@[simp] theorem recomputeDuty_link (s : State) : (recomputeDuty s).link = s.link := by
  unfold recomputeDuty; dsimp only; split <;> simp

@[simp] theorem recomputeDuty_auth (s : State) : (recomputeDuty s).auth = s.auth := by
  unfold recomputeDuty; dsimp only; split <;> simp

@[simp] theorem recomputeDuty_power (s : State) : (recomputeDuty s).power = s.power := by
  unfold recomputeDuty; dsimp only; split <;> simp

@[simp] theorem recomputeDuty_lic (s : State) : (recomputeDuty s).lic = s.lic := by
  unfold recomputeDuty; dsimp only; split <;> simp

@[simp] theorem recomputeDuty_zone (s : State) : (recomputeDuty s).zone = s.zone := by
  unfold recomputeDuty; dsimp only; split <;> simp

@[simp] theorem recomputeDuty_alarm (s : State) : (recomputeDuty s).alarm = s.alarm := by
  unfold recomputeDuty; dsimp only; split <;> simp

theorem recomputeDuty_duty (s : State) :
    (recomputeDuty s).cool.duty = (dutyOf s.auth s.cool).value := by
  unfold recomputeDuty; dsimp only; split <;> simp

@[simp] theorem setPresence_pending (c : Cp) (p : Presence) (s : State) : (setPresence c p s).pending = s.pending := by
  simp [setPresence]

@[simp] theorem setPresence_time (c : Cp) (p : Presence) (s : State) : (setPresence c p s).time = s.time := by
  simp [setPresence]

@[simp] theorem setPresence_lastMark (c : Cp) (p : Presence) (s : State) : (setPresence c p s).lastMark = s.lastMark := by
  simp [setPresence]

@[simp] theorem setPresence_straps (c : Cp) (p : Presence) (s : State) : (setPresence c p s).straps = s.straps := by
  simp [setPresence]

@[simp] theorem setPresence_serial (c : Cp) (p : Presence) (s : State) : (setPresence c p s).serial = s.serial := by
  simp [setPresence]

@[simp] theorem setPresence_link (c : Cp) (p : Presence) (s : State) : (setPresence c p s).link = s.link := by
  simp [setPresence]

@[simp] theorem setPresence_cool (c : Cp) (p : Presence) (s : State) : (setPresence c p s).cool = s.cool := by
  simp [setPresence]

@[simp] theorem setPresence_power (c : Cp) (p : Presence) (s : State) : (setPresence c p s).power = s.power := by
  simp [setPresence]

@[simp] theorem setPresence_lic (c : Cp) (p : Presence) (s : State) : (setPresence c p s).lic = s.lic := by
  simp [setPresence]

@[simp] theorem setPresence_zone (c : Cp) (p : Presence) (s : State) : (setPresence c p s).zone = s.zone := by
  simp [setPresence]

@[simp] theorem setPresence_auth (c : Cp) (p : Presence) (s : State) :
    (setPresence c p s).auth = { s.auth with presence := s.auth.presence.put c p } := by
  simp [setPresence]

@[simp] theorem adoptTxn_pending (c : Cp) (e : BitVec 32) (s : State) : (adoptTxn c e s).pending = s.pending := by
  unfold adoptTxn; split <;> rfl

@[simp] theorem adoptTxn_time (c : Cp) (e : BitVec 32) (s : State) : (adoptTxn c e s).time = s.time := by
  unfold adoptTxn; split <;> rfl

@[simp] theorem adoptTxn_lastMark (c : Cp) (e : BitVec 32) (s : State) : (adoptTxn c e s).lastMark = s.lastMark := by
  unfold adoptTxn; split <;> rfl

@[simp] theorem adoptTxn_straps (c : Cp) (e : BitVec 32) (s : State) : (adoptTxn c e s).straps = s.straps := by
  unfold adoptTxn; split <;> rfl

@[simp] theorem adoptTxn_serial (c : Cp) (e : BitVec 32) (s : State) : (adoptTxn c e s).serial = s.serial := by
  unfold adoptTxn; split <;> rfl

@[simp] theorem adoptTxn_link (c : Cp) (e : BitVec 32) (s : State) : (adoptTxn c e s).link = s.link := by
  unfold adoptTxn; split <;> rfl

@[simp] theorem adoptTxn_auth (c : Cp) (e : BitVec 32) (s : State) : (adoptTxn c e s).auth = s.auth := by
  unfold adoptTxn; split <;> rfl

@[simp] theorem adoptTxn_bus (c : Cp) (e : BitVec 32) (s : State) : (adoptTxn c e s).bus = s.bus := by
  unfold adoptTxn; split <;> rfl

@[simp] theorem adoptTxn_cool (c : Cp) (e : BitVec 32) (s : State) : (adoptTxn c e s).cool = s.cool := by
  unfold adoptTxn; split <;> rfl

@[simp] theorem adoptTxn_power (c : Cp) (e : BitVec 32) (s : State) : (adoptTxn c e s).power = s.power := by
  unfold adoptTxn; split <;> rfl

@[simp] theorem adoptTxn_lic (c : Cp) (e : BitVec 32) (s : State) : (adoptTxn c e s).lic = s.lic := by
  unfold adoptTxn; split <;> rfl

@[simp] theorem adoptTxn_alarm (c : Cp) (e : BitVec 32) (s : State) : (adoptTxn c e s).alarm = s.alarm := by
  unfold adoptTxn; split <;> rfl

@[simp] theorem discardTxn_pending (s : State) : (discardTxn s).pending = s.pending := by
  unfold discardTxn; split <;> rfl

@[simp] theorem discardTxn_time (s : State) : (discardTxn s).time = s.time := by
  unfold discardTxn; split <;> rfl

@[simp] theorem discardTxn_lastMark (s : State) : (discardTxn s).lastMark = s.lastMark := by
  unfold discardTxn; split <;> rfl

@[simp] theorem discardTxn_straps (s : State) : (discardTxn s).straps = s.straps := by
  unfold discardTxn; split <;> rfl

@[simp] theorem discardTxn_serial (s : State) : (discardTxn s).serial = s.serial := by
  unfold discardTxn; split <;> rfl

@[simp] theorem discardTxn_link (s : State) : (discardTxn s).link = s.link := by
  unfold discardTxn; split <;> rfl

@[simp] theorem discardTxn_auth (s : State) : (discardTxn s).auth = s.auth := by
  unfold discardTxn; split <;> rfl

@[simp] theorem discardTxn_bus (s : State) : (discardTxn s).bus = s.bus := by
  unfold discardTxn; split <;> rfl

@[simp] theorem discardTxn_cool (s : State) : (discardTxn s).cool = s.cool := by
  unfold discardTxn; split <;> rfl

@[simp] theorem discardTxn_power (s : State) : (discardTxn s).power = s.power := by
  unfold discardTxn; split <;> rfl

@[simp] theorem discardTxn_lic (s : State) : (discardTxn s).lic = s.lic := by
  unfold discardTxn; split <;> rfl

@[simp] theorem discardTxn_alarm (s : State) : (discardTxn s).alarm = s.alarm := by
  unfold discardTxn; split <;> rfl

@[simp] theorem holdTxn_pending (s : State) : (holdTxn s).pending = s.pending := by
  unfold holdTxn; split <;> rfl

@[simp] theorem holdTxn_time (s : State) : (holdTxn s).time = s.time := by
  unfold holdTxn; split <;> rfl

@[simp] theorem holdTxn_lastMark (s : State) : (holdTxn s).lastMark = s.lastMark := by
  unfold holdTxn; split <;> rfl

@[simp] theorem holdTxn_straps (s : State) : (holdTxn s).straps = s.straps := by
  unfold holdTxn; split <;> rfl

@[simp] theorem holdTxn_serial (s : State) : (holdTxn s).serial = s.serial := by
  unfold holdTxn; split <;> rfl

@[simp] theorem holdTxn_link (s : State) : (holdTxn s).link = s.link := by
  unfold holdTxn; split <;> rfl

@[simp] theorem holdTxn_auth (s : State) : (holdTxn s).auth = s.auth := by
  unfold holdTxn; split <;> rfl

@[simp] theorem holdTxn_bus (s : State) : (holdTxn s).bus = s.bus := by
  unfold holdTxn; split <;> rfl

@[simp] theorem holdTxn_cool (s : State) : (holdTxn s).cool = s.cool := by
  unfold holdTxn; split <;> rfl

@[simp] theorem holdTxn_power (s : State) : (holdTxn s).power = s.power := by
  unfold holdTxn; split <;> rfl

@[simp] theorem holdTxn_lic (s : State) : (holdTxn s).lic = s.lic := by
  unfold holdTxn; split <;> rfl

@[simp] theorem holdTxn_alarm (s : State) : (holdTxn s).alarm = s.alarm := by
  unfold holdTxn; split <;> rfl

@[simp] theorem resolveDeparted_pending (h : Option Cp) (s : State) : (resolveDeparted h s).pending = s.pending := by
  unfold resolveDeparted removeDeparted; dsimp only
  repeat' split
  all_goals first | rfl | simp

@[simp] theorem resolveDeparted_time (h : Option Cp) (s : State) : (resolveDeparted h s).time = s.time := by
  unfold resolveDeparted removeDeparted; dsimp only
  repeat' split
  all_goals first | rfl | simp

@[simp] theorem resolveDeparted_lastMark (h : Option Cp) (s : State) : (resolveDeparted h s).lastMark = s.lastMark := by
  unfold resolveDeparted removeDeparted; dsimp only
  repeat' split
  all_goals first | rfl | simp

@[simp] theorem resolveDeparted_straps (h : Option Cp) (s : State) : (resolveDeparted h s).straps = s.straps := by
  unfold resolveDeparted removeDeparted; dsimp only
  repeat' split
  all_goals first | rfl | simp

@[simp] theorem resolveDeparted_serial (h : Option Cp) (s : State) : (resolveDeparted h s).serial = s.serial := by
  unfold resolveDeparted removeDeparted; dsimp only
  repeat' split
  all_goals first | rfl | simp

@[simp] theorem resolveDeparted_link (h : Option Cp) (s : State) : (resolveDeparted h s).link = s.link := by
  unfold resolveDeparted removeDeparted; dsimp only
  repeat' split
  all_goals first | rfl | simp

@[simp] theorem resolveDeparted_bus (h : Option Cp) (s : State) : (resolveDeparted h s).bus = s.bus := by
  unfold resolveDeparted removeDeparted; dsimp only
  repeat' split
  all_goals first | rfl | simp

@[simp] theorem resolveDeparted_cool (h : Option Cp) (s : State) : (resolveDeparted h s).cool = s.cool := by
  unfold resolveDeparted removeDeparted; dsimp only
  repeat' split
  all_goals first | rfl | simp

@[simp] theorem resolveDeparted_power (h : Option Cp) (s : State) : (resolveDeparted h s).power = s.power := by
  unfold resolveDeparted removeDeparted; dsimp only
  repeat' split
  all_goals first | rfl | simp

@[simp] theorem resolveDeparted_lic (h : Option Cp) (s : State) : (resolveDeparted h s).lic = s.lic := by
  unfold resolveDeparted removeDeparted; dsimp only
  repeat' split
  all_goals first | rfl | simp

@[simp] theorem resolveDeparted_alarm (h : Option Cp) (s : State) : (resolveDeparted h s).alarm = s.alarm := by
  unfold resolveDeparted removeDeparted; dsimp only
  repeat' split
  all_goals first | rfl | simp

@[simp] theorem createDeparted_pending (c : Cp) (e : BitVec 32) (k : Cause) (s : State) : (createDeparted c e k s).pending = s.pending := by
  unfold createDeparted; dsimp only
  repeat' split
  all_goals first | rfl | simp

@[simp] theorem createDeparted_time (c : Cp) (e : BitVec 32) (k : Cause) (s : State) : (createDeparted c e k s).time = s.time := by
  unfold createDeparted; dsimp only
  repeat' split
  all_goals first | rfl | simp

@[simp] theorem createDeparted_lastMark (c : Cp) (e : BitVec 32) (k : Cause) (s : State) : (createDeparted c e k s).lastMark = s.lastMark := by
  unfold createDeparted; dsimp only
  repeat' split
  all_goals first | rfl | simp

@[simp] theorem createDeparted_straps (c : Cp) (e : BitVec 32) (k : Cause) (s : State) : (createDeparted c e k s).straps = s.straps := by
  unfold createDeparted; dsimp only
  repeat' split
  all_goals first | rfl | simp

@[simp] theorem createDeparted_serial (c : Cp) (e : BitVec 32) (k : Cause) (s : State) : (createDeparted c e k s).serial = s.serial := by
  unfold createDeparted; dsimp only
  repeat' split
  all_goals first | rfl | simp

@[simp] theorem createDeparted_link (c : Cp) (e : BitVec 32) (k : Cause) (s : State) : (createDeparted c e k s).link = s.link := by
  unfold createDeparted; dsimp only
  repeat' split
  all_goals first | rfl | simp

@[simp] theorem createDeparted_bus (c : Cp) (e : BitVec 32) (k : Cause) (s : State) : (createDeparted c e k s).bus = s.bus := by
  unfold createDeparted; dsimp only
  repeat' split
  all_goals first | rfl | simp

@[simp] theorem createDeparted_cool (c : Cp) (e : BitVec 32) (k : Cause) (s : State) : (createDeparted c e k s).cool = s.cool := by
  unfold createDeparted; dsimp only
  repeat' split
  all_goals first | rfl | simp

@[simp] theorem createDeparted_power (c : Cp) (e : BitVec 32) (k : Cause) (s : State) : (createDeparted c e k s).power = s.power := by
  unfold createDeparted; dsimp only
  repeat' split
  all_goals first | rfl | simp

@[simp] theorem createDeparted_lic (c : Cp) (e : BitVec 32) (k : Cause) (s : State) : (createDeparted c e k s).lic = s.lic := by
  unfold createDeparted; dsimp only
  repeat' split
  all_goals first | rfl | simp

@[simp] theorem createDeparted_alarm (c : Cp) (e : BitVec 32) (k : Cause) (s : State) : (createDeparted c e k s).alarm = s.alarm := by
  unfold createDeparted; dsimp only
  repeat' split
  all_goals first | rfl | simp

@[simp] theorem moveAuthority_pending (h : Option Cp) (k : Cause) (s : State) : (moveAuthority h k s).pending = s.pending := by
  unfold moveAuthority; dsimp only
  split <;> simp [setHolder]

@[simp] theorem moveAuthority_time (h : Option Cp) (k : Cause) (s : State) : (moveAuthority h k s).time = s.time := by
  unfold moveAuthority; dsimp only
  split <;> simp [setHolder]

@[simp] theorem moveAuthority_lastMark (h : Option Cp) (k : Cause) (s : State) : (moveAuthority h k s).lastMark = s.lastMark := by
  unfold moveAuthority; dsimp only
  split <;> simp [setHolder]

@[simp] theorem moveAuthority_straps (h : Option Cp) (k : Cause) (s : State) : (moveAuthority h k s).straps = s.straps := by
  unfold moveAuthority; dsimp only
  split <;> simp [setHolder]

@[simp] theorem moveAuthority_serial (h : Option Cp) (k : Cause) (s : State) : (moveAuthority h k s).serial = s.serial := by
  unfold moveAuthority; dsimp only
  split <;> simp [setHolder]

@[simp] theorem moveAuthority_link (h : Option Cp) (k : Cause) (s : State) : (moveAuthority h k s).link = s.link := by
  unfold moveAuthority; dsimp only
  split <;> simp [setHolder]

@[simp] theorem moveAuthority_power (h : Option Cp) (k : Cause) (s : State) : (moveAuthority h k s).power = s.power := by
  unfold moveAuthority; dsimp only
  split <;> simp [setHolder]

@[simp] theorem moveAuthority_lic (h : Option Cp) (k : Cause) (s : State) : (moveAuthority h k s).lic = s.lic := by
  unfold moveAuthority; dsimp only
  split <;> simp [setHolder]

@[simp] theorem moveAuthority_alarm (h : Option Cp) (k : Cause) (s : State) : (moveAuthority h k s).alarm = s.alarm := by
  unfold moveAuthority; dsimp only
  split <;> simp [setHolder]

@[simp] theorem changeHolder_pending (h : Option Cp) (k : Cause) (s : State) : (changeHolder h k s).pending = s.pending := by
  simp [changeHolder]

@[simp] theorem changeHolder_time (h : Option Cp) (k : Cause) (s : State) : (changeHolder h k s).time = s.time := by
  simp [changeHolder]

@[simp] theorem changeHolder_lastMark (h : Option Cp) (k : Cause) (s : State) : (changeHolder h k s).lastMark = s.lastMark := by
  simp [changeHolder]

@[simp] theorem changeHolder_straps (h : Option Cp) (k : Cause) (s : State) : (changeHolder h k s).straps = s.straps := by
  simp [changeHolder]

@[simp] theorem changeHolder_serial (h : Option Cp) (k : Cause) (s : State) : (changeHolder h k s).serial = s.serial := by
  simp [changeHolder]

@[simp] theorem changeHolder_link (h : Option Cp) (k : Cause) (s : State) : (changeHolder h k s).link = s.link := by
  simp [changeHolder]

@[simp] theorem changeHolder_power (h : Option Cp) (k : Cause) (s : State) : (changeHolder h k s).power = s.power := by
  simp [changeHolder]

@[simp] theorem changeHolder_lic (h : Option Cp) (k : Cause) (s : State) : (changeHolder h k s).lic = s.lic := by
  simp [changeHolder]

end Sys2Proof.Machine
end

