-- ==== Sys2Proof/Laws/Licenses.lean ====
section
/-! SUPPORT. The two license lists under each change of them: no port twice (R101), and the granted units
within the pool total (R100). -/

namespace Sys2Proof.Machine

/-- No port stands twice across the two lists. -/
def License.noTwice (l : License) : Prop := (l.grants.map Grant.port ++ l.waiting).Nodup

/-! ### Units -/

theorem grantedUnits_append (l : License) (g : Grant) :
    grantedUnits { l with grants := l.grants ++ [g] } = grantedUnits l + g.cls.weight := by
  simp [grantedUnits]

theorem sum_filter_le (gs : List Grant) (p : Grant → Bool) :
    ((gs.filter p).map fun g => g.cls.weight).sum ≤ (gs.map fun g => g.cls.weight).sum := by
  induction gs with
  | nil => simp
  | cons g gs ih =>
    by_cases h : p g = true
    · simp [h]; exact ih
    · simp [h]; omega

/-! ### Lists without a port twice -/

theorem noTwice_queue (l : License) (p : Port) (h : l.noTwice)
    (hp : p ∉ l.grants.map Grant.port ∧ p ∉ l.waiting) :
    { l with waiting := l.waiting ++ [p] : License }.noTwice := by
  unfold License.noTwice at *
  rw [← List.append_assoc, List.nodup_append]
  refine ⟨h, by simp, ?_⟩
  intro a ha b hb e
  simp only [List.mem_singleton] at hb
  subst hb; subst e
  rcases List.mem_append.1 ha with k | k
  · exact hp.1 k
  · exact hp.2 k

theorem noTwice_unqueue (l : License) (f : Port → Bool) (h : l.noTwice) :
    { l with waiting := l.waiting.filter f : License }.noTwice :=
  List.Nodup.sublist (List.Sublist.append (List.Sublist.refl _) List.filter_sublist) h

theorem noTwice_release (l : License) (f : Grant → Bool) (h : l.noTwice) :
    { l with grants := l.grants.filter f : License }.noTwice :=
  List.Nodup.sublist (List.Sublist.append (List.filter_sublist.map _) (List.Sublist.refl _)) h

theorem noTwice_grant (l : License) (g : Grant) (h : l.noTwice)
    (hp : g.port ∉ l.grants.map Grant.port ∧ g.port ∉ l.waiting) :
    { l with grants := l.grants ++ [g] : License }.noTwice := by
  unfold License.noTwice at *
  have hq := noTwice_queue l g.port h hp
  unfold License.noTwice at hq
  refine (List.Perm.nodup_iff ?_).1 hq
  simp only [List.map_append, List.map_cons, List.map_nil, List.append_assoc]
  exact List.Perm.append_left _ List.perm_append_comm

theorem noTwice_serve (l : License) (p : Port) (ps : List Port) (c : PortClass)
    (hw : l.waiting = p :: ps) (h : l.noTwice) :
    { l with waiting := ps, grants := l.grants ++ [⟨p, c⟩] : License }.noTwice := by
  unfold License.noTwice at *
  rw [hw] at h
  simpa using h

theorem regrade_ports (gs : List Grant) (p : Port) (c : PortClass) :
    (gs.map fun g => if g.port = p then (⟨p, c⟩ : Grant) else g).map Grant.port
      = gs.map Grant.port := by
  induction gs with
  | nil => rfl
  | cons g gs ih =>
    simp only [List.map_cons, List.cons.injEq]
    refine ⟨?_, ih⟩
    by_cases h : g.port = p <;> simp [h]

theorem noTwice_regrade (l : License) (p : Port) (c : PortClass) (h : l.noTwice) :
    { l with grants := l.grants.map fun g => if g.port = p then ⟨p, c⟩ else g : License }.noTwice := by
  unfold License.noTwice at *
  rw [regrade_ports]; exact h

/-! ### The weight of a regrade -/

/-- Where a port has no grant, a regrade of it changes nothing. -/
theorem regrade_absent (gs : List Grant) (p : Port) (c : PortClass)
    (h : p ∉ gs.map Grant.port) :
    (gs.map fun g => if g.port = p then (⟨p, c⟩ : Grant) else g) = gs := by
  induction gs with
  | nil => rfl
  | cons g gs ih =>
    simp only [List.map_cons, List.mem_cons, not_or] at h
    rw [List.map_cons, if_neg (fun e => h.1 e.symm), ih h.2]

/-- A regrade of a granted port changes the units by the difference of the weights. -/
theorem regrade_units (gs : List Grant) (p : Port) (c : PortClass) (g : Grant)
    (hn : (gs.map Grant.port).Nodup) (hg : gs.find? (fun x => x.port = p) = some g) :
    ((gs.map fun g => if g.port = p then (⟨p, c⟩ : Grant) else g).map fun g => g.cls.weight).sum
      + g.cls.weight = (gs.map fun g => g.cls.weight).sum + c.weight := by
  induction gs with
  | nil => simp at hg
  | cons x xs ih =>
    simp only [List.map_cons, List.nodup_cons] at hn
    by_cases hx : x.port = p
    · rw [List.find?_cons_of_pos (by simpa using hx)] at hg
      cases hg
      have ha := regrade_absent xs p c (hx ▸ hn.1)
      simp only [List.map_cons, hx, if_true, List.sum_cons, ha]
      omega
    · rw [List.find?_cons_of_neg (by simpa using hx)] at hg
      have k := ih hn.2 hg
      simp only [List.map_cons, hx, if_false, List.sum_cons]
      omega

/-- A regrade to a class of no more weight never adds units. -/
theorem regrade_lower (gs : List Grant) (p : Port) (c : PortClass)
    (h : ∀ g ∈ gs, g.port = p → c.weight ≤ g.cls.weight) :
    ((gs.map fun g => if g.port = p then (⟨p, c⟩ : Grant) else g).map fun g => g.cls.weight).sum
      ≤ (gs.map fun g => g.cls.weight).sum := by
  induction gs with
  | nil => simp
  | cons x xs ih =>
    have k := ih fun g hg => h g (List.mem_cons_of_mem _ hg)
    simp only [List.map_cons, List.sum_cons]
    by_cases hx : x.port = p
    · have := h x List.mem_cons_self hx
      simp only [hx, if_true]; omega
    · simp only [hx, if_false]; omega

/-! ### Consistency under each change -/

theorem consistent_queue (l : License) (p : Port) (h : l.consistent)
    (hp : p ∉ l.grants.map Grant.port ∧ p ∉ l.waiting) :
    { l with waiting := l.waiting ++ [p] : License }.consistent :=
  ⟨noTwice_queue l p h.1 hp, h.2⟩

theorem consistent_unqueue (l : License) (f : Port → Bool) (h : l.consistent) :
    { l with waiting := l.waiting.filter f : License }.consistent := ⟨noTwice_unqueue l f h.1, h.2⟩

theorem consistent_release (l : License) (f : Grant → Bool) (h : l.consistent) :
    { l with grants := l.grants.filter f : License }.consistent :=
  ⟨noTwice_release l f h.1, Nat.le_trans (sum_filter_le l.grants f) h.2⟩

theorem consistent_grant (l : License) (p : Port) (c : PortClass) (h : l.consistent)
    (hp : p ∉ l.grants.map Grant.port ∧ p ∉ l.waiting) (hw : c.weight ≤ freeUnits l) :
    { l with grants := l.grants ++ [⟨p, c⟩] : License }.consistent := by
  refine ⟨noTwice_grant l ⟨p, c⟩ h.1 hp, ?_⟩
  rw [grantedUnits_append]
  have := h.2
  unfold freeUnits at hw
  show grantedUnits l + c.weight ≤ poolTotal l
  omega

theorem consistent_serve (l : License) (p : Port) (ps : List Port) (c : PortClass)
    (hw : l.waiting = p :: ps) (h : l.consistent) (hf : c.weight ≤ freeUnits l) :
    { l with waiting := ps, grants := l.grants ++ [⟨p, c⟩] : License }.consistent := by
  refine ⟨noTwice_serve l p ps c hw h.1, ?_⟩
  have e := grantedUnits_append { l with waiting := ps } ⟨p, c⟩
  have k := h.2
  unfold freeUnits at hf
  have e' : grantedUnits { l with waiting := ps, grants := l.grants ++ [⟨p, c⟩] : License }
      = grantedUnits l + c.weight := e
  rw [e']
  show grantedUnits l + c.weight ≤ poolTotal l
  omega

theorem consistent_regrade (l : License) (p : Port) (c : PortClass) (g : Grant)
    (hg : grantOf l p = some g) (h : l.consistent)
    (hw : c.weight ≤ g.cls.weight ∨ c.weight - g.cls.weight ≤ freeUnits l) :
    { l with grants := l.grants.map fun g => if g.port = p then ⟨p, c⟩ else g : License }.consistent := by
  refine ⟨noTwice_regrade l p c h.1, ?_⟩
  have hn : (l.grants.map Grant.port).Nodup := (List.nodup_append.1 h.1).1
  have e := regrade_units l.grants p c g hn hg
  have k := h.2
  unfold freeUnits at hw
  unfold grantedUnits at *
  show ((l.grants.map fun g => if g.port = p then (⟨p, c⟩ : Grant) else g).map
    fun g => g.cls.weight).sum ≤ poolTotal l
  omega

theorem consistent_ports (l : License) (v : Vector PortConfig 256) (h : l.consistent) :
    { l with ports := v : License }.consistent := h

theorem consistent_install (l : License) (e : Entitlement) (h : l.consistent) :
    { l with table := l.table ++ [e] : License }.consistent := by
  refine ⟨h.1, Nat.le_trans h.2 ?_⟩
  simp only [poolTotal, unitSum, List.map_append, List.sum_append]
  omega

/-- A port of license state NONE is on neither list. -/
theorem onNeither (l : License) (p : Port) (h : licenseState l p = .none) :
    p ∉ l.grants.map Grant.port ∧ p ∉ l.waiting := by
  unfold licenseState at h
  split at h
  · cases h
  · rename_i hg
    split at h
    · cases h
    · rename_i hw
      refine ⟨fun k => ?_, fun k => hw (List.contains_iff_mem.2 k)⟩
      obtain ⟨g, hm, rfl⟩ := List.mem_map.1 k
      exact absurd (List.find?_eq_none.1 hg g hm) (by simp)

/-- A port of license state GRANTED has its grant on the list. -/
theorem granted_grantOf (l : License) (p : Port) (c : PortClass)
    (h : licenseState l p = .granted c) : ∃ g, grantOf l p = some g ∧ g.cls = c := by
  unfold licenseState at h
  split at h
  · rename_i g hg
    cases h
    exact ⟨g, hg, rfl⟩
  · split at h <;> cases h

/-! ### Removal (R106, R107), on the license records alone -/

/-- The revocation on the license records. -/
def License.revoked : List Grant → License → License
  | [], l => l
  | g :: gs, l =>
    if grantedUnits l ≤ poolTotal l then l
    else
      License.revoked gs
        { l with grants := l.grants.filter fun x => x.port ≠ g.port, waiting := g.port :: l.waiting }

theorem noTwice_revokeOne (l : License) (g : Grant) (hg : g ∈ l.grants) (h : l.noTwice) :
    { l with grants := l.grants.filter fun x => x.port ≠ g.port
             waiting := g.port :: l.waiting : License }.noTwice := by
  unfold License.noTwice at *
  rw [List.nodup_append] at h ⊢
  obtain ⟨h1, h2, h3⟩ := h
  refine ⟨List.Nodup.sublist (List.filter_sublist.map _) h1, ?_, ?_⟩
  · rw [List.nodup_cons]
    exact ⟨fun k => h3 _ (List.mem_map_of_mem hg) _ k rfl, h2⟩
  · intro a ha b hb
    obtain ⟨x, hx, rfl⟩ := List.mem_map.1 ha
    have hx' := List.mem_filter.1 hx
    rcases List.mem_cons.1 hb with rfl | hb
    · simpa using hx'.2
    · exact h3 _ (List.mem_map_of_mem hx'.1) _ hb

/-- After the revocation over the whole list, no port stands twice and the units fit the total. -/
theorem revoked_consistent (gs : List Grant) :
    ∀ l : License, l.noTwice → (∀ g ∈ l.grants, g ∈ gs)
      → (∀ g ∈ gs, ∀ h ∈ gs, g.port = h.port → g = h) → (gs.map Grant.port).Nodup
      → (∀ g ∈ gs, g ∈ l.grants) → (License.revoked gs l).consistent := by
  induction gs with
  | nil =>
    intro l h hsub _ _ _
    refine ⟨h, ?_⟩
    have : l.grants = [] := by
      cases hl : l.grants with
      | nil => rfl
      | cons g gs => exact absurd (hsub g (by simp [hl])) (by simp)
    simp [License.revoked, grantedUnits, this]
  | cons g gs ih =>
    intro l h hsub huniq hnd hin
    unfold License.revoked
    split
    · rename_i hle; exact ⟨h, hle⟩
    · simp only [List.map_cons, List.nodup_cons] at hnd
      refine ih _ (noTwice_revokeOne l g (hin g List.mem_cons_self) h) ?_ ?_ hnd.2 ?_
      · intro x hx
        have hx' := List.mem_filter.1 hx
        rcases List.mem_cons.1 (hsub x hx'.1) with rfl | k
        · simp at hx'
        · exact k
      · exact fun a ha b hb => huniq a (List.mem_cons_of_mem _ ha) b (List.mem_cons_of_mem _ hb)
      · intro x hx
        refine List.mem_filter.2 ⟨hin x (List.mem_cons_of_mem _ hx), ?_⟩
        have : x.port ≠ g.port := fun e => hnd.1 (e ▸ List.mem_map_of_mem hx)
        simpa using this

theorem ports_unique (gs : List Grant) (h : (gs.map Grant.port).Nodup) :
    ∀ g ∈ gs, ∀ k ∈ gs, g.port = k.port → g = k := by
  induction gs with
  | nil => simp
  | cons x xs ih =>
    simp only [List.map_cons, List.nodup_cons] at h
    intro g hg k hk e
    rcases List.mem_cons.1 hg with g1 | g1 <;> rcases List.mem_cons.1 hk with k1 | k1
    · rw [g1, k1]
    · exact absurd (g1 ▸ e ▸ List.mem_map_of_mem k1) h.1
    · exact absurd (k1 ▸ e ▸ List.mem_map_of_mem g1) h.1
    · exact ih h.2 g g1 k k1 e

/-- The revocation over the grant list from its tail leaves the license records consistent. -/
theorem revoked_all (l : License) (h : l.noTwice) :
    (License.revoked l.grants.reverse l).consistent := by
  have hn : (l.grants.map Grant.port).Nodup := (List.nodup_append.1 h).1
  have hr : (l.grants.reverse.map Grant.port).Nodup := by
    rw [List.map_reverse]; exact List.nodup_reverse.2 hn
  refine revoked_consistent _ l h (fun g hg => List.mem_reverse.2 hg) (ports_unique _ hr) hr
    (fun g hg => List.mem_reverse.1 hg)

end Sys2Proof.Machine
end

