-- ==== Sys2Proof/Laws/Requests.lean ====
section
/-! SUPPORT. What a request does on a port that takes it at once: the reading of its parameter bytes, and
the one lemma that every statement about a request row rests on. -/

namespace Sys2Proof.Machine

/-! ### Numbers on the wire (R192) -/

@[simp] theorem be_length (k n : Nat) : (be k n).length = k := by
  induction k generalizing n with
  | zero => rfl
  | succ k ih => simp [be, ih]

theorem beNum_append (xs : List Byte) (b : Byte) : beNum (xs ++ [b]) = beNum xs * 256 + b.toNat := by
  simp [beNum]

/-- A number in `k` bytes reads back modulo its range. -/
theorem beNum_be (k n : Nat) : beNum (be k n) = n % 256 ^ k := by
  induction k generalizing n with
  | zero => simp [be, beNum, Nat.mod_one]
  | succ k ih =>
    have h : 256 ^ (k + 1) = 256 * 256 ^ k := by rw [Nat.pow_succ, Nat.mul_comm]
    rw [be, beNum_append, ih, h, Nat.mod_mul]
    simp only [BitVec.toNat_ofNat]
    omega

/-- A word of `w` bits at most `8 k` reads back from its bytes, wherever they stand. -/
theorem wordAt_be (w k : Nat) (x : BitVec w) (pre post : List Byte) (h : 2 ^ w ≤ 256 ^ k) :
    wordAt w (pre ++ (be k x.toNat ++ post)) pre.length k = x := by
  unfold wordAt
  have e : ((pre ++ (be k x.toNat ++ post)).drop pre.length).take k = be k x.toNat := by
    rw [List.drop_left]
    conv_lhs => rw [← be_length k x.toNat]
    rw [be_length, List.take_append_of_le_length (by simp), List.take_of_length_le (by simp)]
  rw [e, beNum_be, Nat.mod_eq_of_lt (Nat.lt_of_lt_of_le x.isLt h)]
  simp

theorem byteAt_cons_zero (b : Byte) (bs : List Byte) : byteAt (b :: bs) 0 = b := by
  simp [byteAt, wordAt, beNum]

theorem byteAt_cons_succ (b : Byte) (bs : List Byte) (k : Nat) :
    byteAt (b :: bs) (k + 1) = byteAt bs k := by
  simp [byteAt, wordAt]

theorem byteAt_append (pre post : List Byte) (b : Byte) :
    byteAt (pre ++ b :: post) pre.length = b := by
  simp [byteAt, wordAt, beNum]

theorem words32_flatMap (ws : List (BitVec 32)) :
    words32 ws.length (ws.flatMap fun w => be 4 w.toNat) = ws := by
  induction ws with
  | nil => rfl
  | cons w ws ih =>
    have h1 : ((be 4 w.toNat) ++ ws.flatMap fun w => be 4 w.toNat).take 4 = be 4 w.toNat := by
      rw [List.take_append_of_le_length (by simp), List.take_of_length_le (by simp)]
    have h2 : ((be 4 w.toNat) ++ ws.flatMap fun w => be 4 w.toNat).drop 4
        = ws.flatMap fun w => be 4 w.toNat := by
      have := List.drop_left (l₁ := be 4 w.toNat) (l₂ := ws.flatMap fun w => be 4 w.toNat)
      rwa [be_length] at this
    simp only [List.length_cons, List.flatMap_cons, words32, h1, h2, ih, beNum_be]
    have hw := w.isLt
    rw [Nat.mod_eq_of_lt (by omega)]
    simp

/-! ### Reading the parameters of each request -/

/-- The parameters of READ-only and one-field requests, by computation on their bytes. -/
theorem wordAt_two (x : BitVec 16) (post : List Byte) :
    wordAt 16 (be 2 x.toNat ++ post) 0 2 = x :=
  wordAt_be 16 2 x [] post (by decide)

theorem wordAt_four (x : BitVec 32) (post : List Byte) :
    wordAt 32 (be 4 x.toNat ++ post) 0 4 = x :=
  wordAt_be 32 4 x [] post (by decide)

theorem wordAt_skip (w k n : Nat) (b : Byte) (bs : List Byte) :
    wordAt w (b :: bs) (n + 1) k = wordAt w bs n k := by simp [wordAt]

theorem wordAt_skip_be (w k n j m : Nat) (bs : List Byte) :
    wordAt w (be j m ++ bs) (j + n) k = wordAt w bs n k := by
  unfold wordAt
  have : (be j m ++ bs).drop (j + n) = bs.drop n := by
    rw [← List.drop_drop]
    have := List.drop_left (l₁ := be j m) (l₂ := bs)
    rw [be_length] at this
    rw [this]
  rw [this]

theorem wordAt_two_all (x : BitVec 16) : wordAt 16 (be 2 x.toNat) 0 2 = x := by
  have := wordAt_two x []; simpa using this

theorem wordAt_four_all (x : BitVec 32) : wordAt 32 (be 4 x.toNat) 0 4 = x := by
  have := wordAt_four x []; simpa using this

theorem wordAt_over (w k n j m : Nat) (bs : List Byte) (h : j ≤ n) :
    wordAt w (be j m ++ bs) n k = wordAt w bs (n - j) k := by
  obtain ⟨d, rfl⟩ := Nat.exists_eq_add_of_le h
  rw [wordAt_skip_be]; simp

theorem byteAt_over (n j m : Nat) (bs : List Byte) (h : j ≤ n) :
    byteAt (be j m ++ bs) n = byteAt bs (n - j) := wordAt_over 8 1 n j m bs h

theorem Entitlement.bytes_length (e : Entitlement) : e.bytes.length = 20 := by
  simp [Entitlement.bytes, Entitlement.head]

theorem parseEntitlement_bytes (e : Entitlement) : parseEntitlement e.bytes = e := by
  obtain ⟨id, units, ceiling, flags, serial, check⟩ := e
  have e1 : Entitlement.bytes ⟨id, units, ceiling, flags, serial, check⟩
      = be 4 id.toNat ++ (be 2 units.toNat ++ (ceiling :: flags ::
        (be 8 serial.toNat ++ (be 4 check.toNat).reverse))) := by
    simp [Entitlement.bytes, Entitlement.head]
  have hd : (be 4 id.toNat ++ (be 2 units.toNat ++ (ceiling :: flags ::
      (be 8 serial.toNat ++ (be 4 check.toNat).reverse)))).drop 16 = (be 4 check.toNat).reverse := by
    have : be 4 id.toNat ++ (be 2 units.toNat ++ (ceiling :: flags ::
        (be 8 serial.toNat ++ (be 4 check.toNat).reverse)))
        = (be 4 id.toNat ++ be 2 units.toNat ++ [ceiling, flags] ++ be 8 serial.toNat)
          ++ (be 4 check.toNat).reverse := by simp
    rw [this]
    exact List.drop_left' (by simp)
  have h2 : wordAt 16 (be 2 units.toNat ++ ceiling :: flags ::
      (be 8 serial.toNat ++ (be 4 check.toNat).reverse)) 0 2 = units := wordAt_two _ _
  have h3 : wordAt 64 (be 8 serial.toNat ++ (be 4 check.toNat).reverse) 0 8 = serial :=
    wordAt_be 64 8 serial [] _ (by decide)
  have h4 : (be 4 check.toNat).reverse.take 4 = (be 4 check.toNat).reverse :=
    List.take_of_length_le (by simp)
  have h5 : BitVec.ofNat 32 (check.toNat % 256 ^ 4) = check := by
    have := check.isLt
    rw [Nat.mod_eq_of_lt (by omega)]; simp
  unfold parseEntitlement
  rw [e1, hd, h4, List.reverse_reverse, beNum_be, h5]
  rw [wordAt_over 16 2 4 4 _ _ (by decide), wordAt_over 64 8 8 4 _ _ (by decide),
    byteAt_over 6 4 _ _ (by decide), byteAt_over 7 4 _ _ (by decide)]
  rw [wordAt_four, h2, wordAt_over 64 8 4 2 _ _ (by decide), byteAt_over 2 2 _ _ (by decide),
    byteAt_over 3 2 _ _ (by decide)]
  simp only [Nat.sub_self, byteAt_cons_zero, byteAt_cons_succ, wordAt_skip, Nat.reduceSub]
  rw [h3]

/-- A request reads back from the code and the parameter bytes by which it travels. -/
theorem Request.parse_params (r : Request) (h : r.fits = true) :
    Request.parse r.code r.params = some r := by
  cases r
  case writeHandover first count words =>
    simp only [Request.fits, handoverFits, Bool.and_eq_true, decide_eq_true_eq] at h
    have hw := words32_flatMap words
    rw [h.1] at hw
    have hl : (words.flatMap fun w => be 4 w.toNat).length = 4 * count.toNat := by
      rw [← h.1]; clear hw h
      induction words with
      | nil => rfl
      | cons w ws ih => simp [List.flatMap_cons, ih]; omega
    simp [Request.parse, Request.code, Request.params, byteAt_cons_zero, byteAt_cons_succ, hw, hl]
    omega
  case installEntitlement e =>
    simp [Request.parse, Request.code, Request.params, e.bytes_length, parseEntitlement_bytes]
  case setAlarmMask flags =>
    simp [Request.parse, Request.code, Request.params]
    rfl
  all_goals simp [Request.parse, Request.code, Request.params, byteAt_cons_zero, byteAt_cons_succ,
    wordAt_two, wordAt_two_all, wordAt_four_all, wordAt_skip, wordAt_over, byteAt_over]

theorem Request.code_ne_heartbeat (r : Request) : r.code ≠ heartbeatCode := by
  cases r <;> simp [Request.code, heartbeatCode]

/-! ### A request on a port that takes it at once -/

/-- The row of a request is the arrival of its good frame. -/
theorem exec_command (c : Cp) (tag : BitVec 4) (r : Request) (s : State) :
    exec (r.command c tag) s = .next (arbitrate (handleFrame c (r.frame tag) s)) := by
  cases r <;> rfl

/-- A frame other than HEARTBEAT on a port that takes it at once. -/
theorem handleFrame_ready (c : Cp) (f : Frame) (s : State) (hc : f.code ≠ heartbeatCode)
    (hu : (s.link.get c).up = true) (hr : (s.link.get c).resetHeld = false)
    (hi : (s.link.get c).current = none) (he : (s.link.get c).queue = []) :
    handleFrame c f s = settleRequest c f (judgeRequest c f (s.heard c)) := by
  have h1 : linkUp c s = s.heard c := by unfold linkUp State.heard; rw [if_pos hu]
  have h2 : (s.heard c).modLink c (fun p => { p with queue := p.queue ++ [f] })
      = s.modLink c fun p => { p with badFrames := 0, queue := [f] } := by
    unfold State.heard State.modLink
    simp [he]
  have h3 : (s.modLink c fun p => { p with badFrames := 0, queue := [f] }).modLink c
      (fun p => { p with queue := [] }) = s.heard c := by
    unfold State.heard State.modLink
    simp only [PerCp.get_put_self, PerCp.put_put]
    rw [← he]
  unfold handleFrame
  rw [if_neg (by simp [hr]), if_neg hc, h1]
  unfold requestFrame serveQueue
  rw [if_neg (by simp [State.heard, he]), h2]
  have h4 : ((s.modLink c fun p => { p with badFrames := 0, queue := [f] }).link.get c).queue
      = [f] := by simp
  have h5 : ((s.modLink c fun p => { p with badFrames := 0, queue := [f] }).link.get c).current
      = none := by simp [hi]
  rw [h4]
  show takeRequests c 1 _ = _
  unfold takeRequests
  rw [if_neg (by simp [hi]), h4]
  dsimp only
  rw [h3]
  rfl

/-- The request passes fencing and goes to the block that owns it (R16, R185). -/
theorem exec_ready (c : Cp) (tag : BitVec 4) (r : Request) (s : State) (h : Ready c s)
    (hf : r.fits = true) (hh : r.holderOnly = true → s.isHolder c = true) :
    exec (r.command c tag) s
      = .next (arbitrate (settleRequest c (r.frame tag) (serveRequest c r (s.heard c)))) := by
  rw [exec_command, handleFrame_ready c _ s r.code_ne_heartbeat h.up h.released h.idle h.empty]
  have h1 : ¬ (s.heard c).auth.presence.get c = .silent := h.audible
  have h2 : (r.holderOnly && !(s.heard c).isHolder c) = false := by
    have : (s.heard c).isHolder c = s.isHolder c := rfl
    rw [this]
    cases hr : r.holderOnly
    · rfl
    · simp [hh hr]
  unfold judgeRequest
  rw [if_neg h1]
  show Host.Outcome.next (arbitrate (settleRequest c _
    (match Request.parse r.code r.params with
      | none => _
      | some r => _))) = _
  rw [r.parse_params hf]
  dsimp only
  rw [h2]
  rfl

/-- A request that its block completes when it takes it. -/
theorem exec_reply (c : Cp) (tag : BitVec 4) (r : Request) (s u : State) (o : OutcomeCode)
    (bs : List Byte) (h : Ready c s) (hf : r.fits = true)
    (hh : r.holderOnly = true → s.isHolder c = true)
    (hs : serveRequest c r (s.heard c) = (u, .reply o bs)) :
    exec (r.command c tag) s = .next (arbitrate (u.answered c tag r.code o bs)) := by
  rw [exec_ready c tag r s h hf hh, hs]; rfl

/-- A data-transfer read: its response is formed, and it stays in execution (R188). -/
theorem exec_transfer (c : Cp) (tag : BitVec 4) (r : Request) (s u : State) (o : OutcomeCode)
    (bs : List Byte) (h : Ready c s) (hf : r.fits = true)
    (hh : r.holderOnly = true → s.isHolder c = true)
    (hs : serveRequest c r (s.heard c) = (u, .transfer o bs)) :
    exec (r.command c tag) s
      = .next (arbitrate ((u.answered c tag r.code o bs).inExecution c tag r.code .transfer)) := by
  rw [exec_ready c tag r s h hf hh, hs]; rfl

/-- A request that waits for the bus or for the Reach Engine (R188). -/
theorem exec_waits (c : Cp) (tag : BitVec 4) (r : Request) (s u : State) (ph : Phase)
    (h : Ready c s) (hf : r.fits = true) (hh : r.holderOnly = true → s.isHolder c = true)
    (hs : serveRequest c r (s.heard c) = (u, .waits ph)) :
    exec (r.command c tag) s = .next (arbitrate (u.inExecution c tag r.code ph)) := by
  rw [exec_ready c tag r s h hf hh, hs]; rfl

end Sys2Proof.Machine
end

