-- ==== Sys2Proof/Laws/Moves.lean ====
section
/-! SUPPORT. What a command other than POWER_ON_RESET can do, said once: every such `exec` is a chain of the
moves listed here. Each operation has one lemma, tagged simp, that carries a chain over it; what a chain
keeps, every such command keeps. -/

namespace Sys2Proof.Machine

/-! ### The moves -/

/-- The states that differ only in their alarm records. -/
def OnlyAlarm (s t : State) : Prop := t = s.modAlarm fun _ => t.alarm

/-- The records of the scan and of its class of the arbiter are the same. -/
def SameScan (b d : Bus) : Prop :=
  d.scan = b.scan ∧ d.startPending = b.startPending ∧ d.class4 = b.class4 ∧ d.slotSeen = b.slotSeen
    ∧ d.baySeen = b.baySeen ∧ d.traySeen = b.traySeen

/-- One move of the part. The moves of `Move false` leave the link ports, the scan and its last mark, and
the serial as they are: a block makes no other when it serves a request or is handed a reading. -/
inductive Move : Bool → State → State → Prop where
  | link (c : Cp) (f : LinkPort → LinkPort) (s : State)
      (h : (s.link.get c).queue.length ≤ 4 → (f (s.link.get c)).queue.length ≤ 4) :
      Move true s (s.modLink c f)
  | bus {o : Bool} (f : Bus → Bus) (s : State) (h : s.bus.grants ≤ 16 → (f s.bus).grants ≤ 16)
      (k : o = false → SameScan s.bus (f s.bus)) : Move o s (s.modBus f)
  | cool {o : Bool} (f : Cooling → Cooling) (s : State) (h : (f s.cool).duty = s.cool.duty) :
      Move o s (s.modCool f)
  | power {o : Bool} (f : Power → Power) (s : State) : Move o s (s.modPower f)
  | lic {o : Bool} (f : License → License) (s : State)
      (h : s.lic.consistent → (f s.lic).consistent) : Move o s (s.modLic f)
  | zone {o : Bool} (f : Zoning → Zoning) (s : State) : Move o s (s.modZone f)
  | duty {o : Bool} (s : State) : Move o s (recomputeDuty s)
  | alarm {o : Bool} (f : Alarm → Alarm) (s : State) : Move o s (reevaluate (s.modAlarm f))
  /-- A change of the history ring alone. -/
  | ring {o : Bool} (f : Alarm → Alarm) (s : State)
      (h : ∀ a, (f a).classes = a.classes ∧ (f a).conds = a.conds ∧ (f a).events = a.events
        ∧ (f a).mask = a.mask ∧ (f a).stack = a.stack ∧ (f a).attn = a.attn) :
      Move o s (s.modAlarm f)
  | presence {o : Bool} (c : Cp) (p : Presence) (s : State) : Move o s (setPresence c p s)
  /-- A change of the authority record that leaves holder and presences as they are. -/
  | record {o : Bool} (f : Authority → Authority) (s : State)
      (h : ∀ a, (f a).holder = a.holder ∧ (f a).presence = a.presence) : Move o s (s.modAuth f)
  /-- A change of holder: the duty is formed again, and the alarm rows are evaluated again. -/
  | holder {o : Bool} (f : Authority → Authority) (g : Alarm → Alarm) (s : State) :
      Move o s (reevaluate ((recomputeDuty (s.modAuth f)).modAlarm g))
  | mark (m : Time) (s : State) : Move true s { s with lastMark := m }
  | serial (v : Option (BitVec 64)) (s : State) : Move true s { s with serial := v }

/-- A chain of moves. -/
inductive Moves (o : Bool) : State → State → Prop where
  | rfl {s : State} : Moves o s s
  | tail {s t u : State} (h : Moves o s t) (m : Move o t u) : Moves o s u

theorem Moves.trans {o : Bool} {s t u : State} (h : Moves o s t) (k : Moves o t u) : Moves o s u := by
  induction k with
  | rfl => exact h
  | tail _ m ih => exact ih.tail m

/-- What every move keeps, a chain keeps. -/
theorem Moves.keeps {o : Bool} {P : State → Prop} (hP : ∀ s t, Move o s t → P s → P t) {s t : State}
    (h : Moves o s t) (hs : P s) : P t := by
  induction h with
  | rfl => exact hs
  | tail _ m ih => exact hP _ _ m ih

@[simp] theorem Moves.refl {o : Bool} (s : State) : Moves o s s := .rfl

/-! ### Chains over the parts of the state -/

section
variable {o : Bool} {s t : State}

@[simp] theorem moves_modBus (f : Bus → Bus) (hf : ∀ b, b.grants ≤ 16 → (f b).grants ≤ 16)
    (hk : ∀ b, (f b).scan = b.scan ∧ (f b).startPending = b.startPending ∧ (f b).class4 = b.class4
      ∧ (f b).slotSeen = b.slotSeen ∧ (f b).baySeen = b.baySeen ∧ (f b).traySeen = b.traySeen)
    (h : Moves o s t) : Moves o s (t.modBus f) :=
  h.tail (.bus f t (hf _) fun _ => hk _)

/-- A change of the scan's own records. -/
@[simp] theorem moves_modScan (f : Bus → Bus) (hf : ∀ b, b.grants ≤ 16 → (f b).grants ≤ 16)
    (h : Moves true s t) : Moves true s (t.modBus f) := h.tail (.bus f t (hf _) (nomatch ·))

@[simp] theorem moves_modPower (f : Power → Power) (h : Moves o s t) : Moves o s (t.modPower f) :=
  h.tail (.power f t)

theorem moves_modLic (f : License → License) (hf : t.lic.consistent → (f t.lic).consistent)
    (h : Moves o s t) : Moves o s (t.modLic f) := h.tail (.lic f t hf)

@[simp] theorem moves_modZone (f : Zoning → Zoning) (h : Moves o s t) : Moves o s (t.modZone f) :=
  h.tail (.zone f t)

@[simp] theorem moves_modCool (f : Cooling → Cooling) (hf : ∀ c, (f c).duty = c.duty)
    (h : Moves o s t) : Moves o s (t.modCool f) := h.tail (.cool f t (hf _))

theorem moves_modLink (c : Cp) (f : LinkPort → LinkPort)
    (hf : ∀ p, p.queue.length ≤ 4 → (f p).queue.length ≤ 4) (h : Moves true s t) :
    Moves true s (t.modLink c f) := h.tail (.link c f t (hf _))

@[simp] theorem moves_recomputeDuty (h : Moves o s t) : Moves o s (recomputeDuty t) := h.tail (.duty t)

@[simp] theorem moves_setPresence (c : Cp) (p : Presence) (h : Moves o s t) :
    Moves o s (setPresence c p t) := h.tail (.presence c p t)

theorem moves_foldl {α : Type} (f : State → α → State) (hf : ∀ u x, Moves o s u → Moves o s (f u x))
    (xs : List α) : ∀ t, Moves o s t → Moves o s (xs.foldl f t) := by
  induction xs with
  | nil => exact fun _ h => h
  | cons x xs ih => exact fun t h => ih _ (hf t x h)

@[simp] theorem moves_joinClass1 (e : Class1) (h : Moves o s t) : Moves o s (joinClass1 e t) := by
  simp [joinClass1, h]

@[simp] theorem moves_joinHeld (f : HeldField) (h : Moves o s t) : Moves o s (joinHeld f t) := by
  unfold joinHeld; split <;> simp [h]

/-! ### The Alarm Unit -/

@[simp] theorem onlyAlarm_refl (s : State) : OnlyAlarm s s := rfl

theorem OnlyAlarm.trans {u : State} (h : OnlyAlarm s t) (k : OnlyAlarm t u) : OnlyAlarm s u := by
  unfold OnlyAlarm at *; rw [k, h]; rfl

@[simp] theorem onlyAlarm_modAlarm (f : Alarm → Alarm) (h : OnlyAlarm s t) :
    OnlyAlarm s (t.modAlarm f) := h.trans rfl

@[simp] theorem onlyAlarm_modCond (c : AlarmClass) (n : Nat) (f : CondRow → CondRow)
    (h : OnlyAlarm s t) : OnlyAlarm s (modCond c n f t) := by simp [modCond, h]

@[simp] theorem onlyAlarm_modEvent (c : AlarmClass) (n : Nat) (f : EventRow → EventRow)
    (h : OnlyAlarm s t) : OnlyAlarm s (modEvent c n f t) := by simp [modEvent, h]

@[simp] theorem onlyAlarm_latchEvent (c : AlarmClass) (n : Nat) (i : Bool) (h : OnlyAlarm s t) :
    OnlyAlarm s (latchEvent c n i t) := by simp [latchEvent, h]

@[simp] theorem onlyAlarm_closeHalf (k : Fin 2) (h : OnlyAlarm s t) :
    OnlyAlarm s (closeHalf k t) := by simp (maxDischargeDepth := 5) [closeHalf, h]

@[simp] theorem onlyAlarm_appendHistory (c : AlarmClass) (n : Nat) (tr : Transition) (i : Bool)
    (h : OnlyAlarm s t) : OnlyAlarm s (appendHistory c n tr i t) := by
  unfold appendHistory
  split
  · exact h
  · split
    · simp [h]
    · dsimp only; split <;> simp [h]

@[simp] theorem onlyAlarm_markTaken (c : Cp) (e : StackEntry) (h : OnlyAlarm s t) :
    OnlyAlarm s (markTaken c e t) := by unfold markTaken; split <;> simp [h]

/-- Any change of the alarm records that ends in a re-evaluation is a move. -/
theorem moves_reevaluate {u : State} (h : Moves o s t) (k : OnlyAlarm t u) :
    Moves o s (reevaluate u) := by
  rw [k]; exact h.tail (.alarm _ t)

@[simp] theorem moves_occurCondition (c : AlarmClass) (n : Nat) (v : Bool) (h : Moves o s t) :
    Moves o s (occurCondition c n v t) := by
  unfold occurCondition; exact moves_reevaluate h (by simp)

@[simp] theorem moves_occurEvent (c : AlarmClass) (n : Nat) (i : Bool) (h : Moves o s t) :
    Moves o s (occurEvent c n i t) := by
  unfold occurEvent; exact moves_reevaluate h (by simp)

@[simp] theorem moves_occurForced (c : AlarmClass) (n : Nat) (v : Bool) (h : Moves o s t) :
    Moves o s (occurForced c n v t) := by
  unfold occurForced; exact moves_reevaluate h (by simp)

@[simp] theorem moves_handCondition (c : AlarmClass) (n : Nat) (h : Moves o s t) :
    Moves o s (handCondition c n t) := by
  unfold handCondition; dsimp only; split <;> simp [h]

@[simp] theorem moves_handSettled (c : AlarmClass) (n : Nat) (h : Moves o s t) :
    Moves o s (handSettled c n t) := by unfold handSettled; split <;> simp [h]

@[simp] theorem moves_eventSettled (c : AlarmClass) (n : Nat) (h : Moves o s t) :
    Moves o s (eventSettled c n t) := by unfold eventSettled; split <;> simp [h]

@[simp] theorem moves_clearService (c : Cp) (h : Moves o s t) : Moves o s (clearService c t) := by
  unfold clearService; exact moves_reevaluate h (by simp)

@[simp] theorem moves_fetchNotice (c : Cp) (h : Moves o s t) : Moves o s (fetchNotice c t).1 := by
  unfold fetchNotice; split
  · exact h
  · exact moves_reevaluate h (by simp)

@[simp] theorem moves_retireNotice (c : Cp) (h : Moves o s t) : Moves o s (retireNotice c t).1 := by
  unfold retireNotice; dsimp only; split
  · exact h
  · exact moves_reevaluate h (by simp)

@[simp] theorem moves_setAlarmMask (c : Cp) (flags : Vector Byte 20) (h : Moves o s t) :
    Moves o s (setAlarmMask c flags t).1 := moves_reevaluate h (by simp)

@[simp] theorem moves_setAlarmLevel (cls level : Byte) (h : Moves o s t) :
    Moves o s (setAlarmLevel cls level t).1 := by
  unfold setAlarmLevel; split
  · exact h
  · exact moves_reevaluate h (by simp)

@[simp] theorem moves_setAlarmRoute (cls route : Byte) (h : Moves o s t) :
    Moves o s (setAlarmRoute cls route t).1 := by
  unfold setAlarmRoute; split
  · exact h
  · dsimp only
    split
    · exact h
    · split
      · exact h
      · exact moves_reevaluate h (by simp)

@[simp] theorem moves_injectAlarm (cls : Byte) (n : BitVec 16) (h : Moves o s t) :
    Moves o s (injectAlarm cls n t).1 := by
  unfold injectAlarm; split
  · exact h
  · split
    · simp [h]
    · split <;> simp [h]

@[simp] theorem moves_withdrawInjection (cls : Byte) (n : BitVec 16) (h : Moves o s t) :
    Moves o s (withdrawInjection cls n t).1 := by
  unfold withdrawInjection; split
  · exact h
  · split
    · exact h
    · split <;> simp [h]

@[simp] theorem moves_readAlarm (cls : Byte) (n : BitVec 16) (h : Moves o s t) :
    Moves o s (readAlarm cls n t).1 := by
  unfold readAlarm; split
  · exact h
  · split <;> exact h

@[simp] theorem moves_releaseHistoryHalf (half : Byte) (h : Moves o s t) :
    Moves o s (releaseHistoryHalf half t).1 := by
  unfold releaseHistoryHalf; dsimp only; split
  · exact h
  · split
    · dsimp only
      refine h.tail (.ring _ t fun a => ?_)
      unfold putHalf; split <;> simp
    · exact h

@[simp] theorem moves_readHistory (half first count : Byte) (h : Moves o s t) :
    Moves o s (readHistory half first count t).1 := by
  unfold readHistory; dsimp only; split
  · exact h
  · split <;> exact h

end

end Sys2Proof.Machine
end

