-- ==== Sys2Proof/Laws/ZoneMoves.lean ====
section
/-! SUPPORT. Chains of moves over the operations of the Zoning Unit and of the Cooling Controller. -/

namespace Sys2Proof.Machine

variable {o : Bool} {s t : State}

/-! ### The Distribution Engine -/

@[simp] theorem moves_modZoneSlot (i : Slot) (f : ZoneSlot → ZoneSlot) (h : Moves o s t) :
    Moves o s (modZoneSlot i f t) := by simp [modZoneSlot, h]

@[simp] theorem moves_modZoneSlots (f : ZoneSlot → ZoneSlot) (h : Moves o s t) :
    Moves o s (modZoneSlots f t) := by simp [modZoneSlots, h]

@[simp] theorem moves_requestLoad (h : Moves o s t) : Moves o s (requestLoad t) := by
  unfold requestLoad; split
  · exact h
  · split <;> simp [h]

@[simp] theorem moves_beginLoad (i : Slot) (m : Bool) (h : Moves o s t) :
    Moves o s (beginLoad i m t) := by simp [beginLoad, h]

@[simp] theorem moves_judgeComplete (h : Moves o s t) : Moves o s (judgeComplete t) := by
  unfold judgeComplete; split
  · exact h
  · split
    · simp [h]
    · split <;> simp [h]

@[simp] theorem moves_serveCatchUp (h : Moves o s t) : Moves o s (serveCatchUp t) := by
  unfold serveCatchUp; split
  · exact h
  · split <;> simp [h]

@[simp] theorem moves_goOn (h : Moves o s t) : Moves o s (goOn t) := by
  unfold goOn; split
  · simp [h]
  · split
    · exact h
    · split <;> simp [h]
  · exact h

@[simp] theorem moves_endJob (h : Moves o s t) : Moves o s (endJob t) := by simp [endJob, h]

@[simp] theorem moves_awaitAck (i : Slot) (h : Moves o s t) : Moves o s (awaitAck i t) := by
  simp [awaitAck, h]

@[simp] theorem moves_endCatchUp (i : Slot) (r : CatchUpResult) (h : Moves o s t) :
    Moves o s (endCatchUp i r t) := by simp (maxDischargeDepth := 9) [endCatchUp, h]

@[simp] theorem moves_failCatchUp (i : Slot) (h : Moves o s t) : Moves o s (failCatchUp i t) := by
  simp (maxDischargeDepth := 9) [failCatchUp, h]

@[simp] theorem moves_failSlot (i : Slot) (h : Moves o s t) : Moves o s (failSlot i t) := by
  simp [failSlot, h]

@[simp] theorem moves_loadingEnded (ignored : Bool) (e : BusEnd) (h : Moves o s t) :
    Moves o s (loadingEnded ignored e t) := by
  unfold loadingEnded
  repeat' split
  all_goals simp (maxDischargeDepth := 9) [h]

@[simp] theorem moves_ackValue (i : Slot) (v : BitVec 16) (h : Moves o s t) :
    Moves o s (ackValue i v t) := by
  unfold ackValue; dsimp only
  repeat' split
  all_goals simp (maxDischargeDepth := 9) [h]

@[simp] theorem moves_judgeAckDeadline (i : Slot) (h : Moves o s t) :
    Moves o s (judgeAckDeadline i t) := by
  unfold judgeAckDeadline
  repeat' split
  all_goals simp (maxDischargeDepth := 9) [h]

@[simp] theorem moves_judgeAckDeadlines (h : Moves o s t) : Moves o s (judgeAckDeadlines t) :=
  moves_foldl _ (fun _ _ k => moves_judgeAckDeadline _ k) _ _ h

@[simp] theorem moves_pulseEnded (i : Slot) (ignored : Bool) (e : BusEnd) (h : Moves o s t) :
    Moves o s (pulseEnded i ignored e t) := by
  unfold pulseEnded
  repeat' split
  all_goals simp (maxDischargeDepth := 9) [h]

@[simp] theorem moves_forget (i : Slot) (h : Moves o s t) : Moves o s (t.modBus (Bus.forget i)) :=
  moves_modBus _ (fun _ k => k) (fun _ => ⟨rfl, rfl, rfl, rfl, rfl, rfl⟩) h

@[simp] theorem moves_slotLeft (i : Slot) (h : Moves o s t) : Moves o s (slotLeft i t) := by
  simp (maxDischargeDepth := 9) [slotLeft, h]

@[simp] theorem moves_slotEntered (i : Slot) (h : Moves o s t) : Moves o s (slotEntered i t) := by
  simp [slotEntered, h]

@[simp] theorem moves_startMain (hold : Bool) (h : Moves o s t) : Moves o s (startMain hold t) := by
  unfold startMain
  simp [moves_foldl _ (fun _ _ k => moves_modZoneSlot _ _ k) _ _ h]

@[simp] theorem moves_activateFieldEnded (e : BusEnd) (h : Moves o s t) :
    Moves o s (activateFieldEnded e t) := by
  unfold activateFieldEnded; split <;> simp [h]

@[simp] theorem moves_activate (h : Moves o s t) : Moves o s (activate t) := by
  unfold activate; split
  · exact h
  · simp (maxDischargeDepth := 9) [h]

@[simp] theorem moves_strobeEnded (e : BusEnd) (h : Moves o s t) : Moves o s (strobeEnded e t) := by
  unfold strobeEnded; split <;> simp [h]

@[simp] theorem moves_activateZones (h : Moves o s t) : Moves o s (activateZones t).1 := by
  unfold activateZones; dsimp only; split <;> simp [h]

@[simp] theorem moves_retryDistribution (h : Moves o s t) : Moves o s (retryDistribution t).1 := by
  unfold retryDistribution; split <;> simp (maxDischargeDepth := 9) [h]

@[simp] theorem moves_stopMainLoad (h : Moves o s t) : Moves o s (stopMainLoad t) := by
  unfold stopMainLoad
  repeat' split
  all_goals simp (maxDischargeDepth := 9) [h]

@[simp] theorem moves_abort (h : Moves o s t) : Moves o s (abort t) := by
  unfold abort
  simp [moves_foldl _ (fun _ _ k => moves_modZoneSlot _ _ k) _ _ (moves_stopMainLoad h)]

@[simp] theorem moves_abortDistribution (h : Moves o s t) : Moves o s (abortDistribution t).1 := by
  unfold abortDistribution; split <;> simp [h]

@[simp] theorem moves_queryReach (p q : BitVec 16) (h : Moves o s t) :
    Moves o s (queryReach p q t).1 := by
  unfold queryReach; dsimp only; split <;> exact h

/-! ### The Zone Store -/

@[simp] theorem moves_closeTxn (h : Moves o s t) : Moves o s (closeTxn t) := by simp [closeTxn, h]

@[simp] theorem moves_putStaging (x : ZoneTable) (h : Moves o s t) : Moves o s (putStaging x t) := by
  simp [putStaging, h]

@[simp] theorem moves_beginZoneEdit (c : Cp) (m : Byte) (h : Moves o s t) :
    Moves o s (beginZoneEdit c m t).1 := by
  unfold beginZoneEdit; dsimp only
  repeat' split
  all_goals simp [h]

@[simp] theorem moves_cancelZoneEdit (h : Moves o s t) : Moves o s (cancelZoneEdit t).1 := by
  unfold cancelZoneEdit; split <;> simp [h]

theorem moves_whenOpen (counts : List Byte) (e : State × Took) (h : Moves o s t) (k : Moves o s e.1) :
    Moves o s (whenOpen t counts e).1 := by
  unfold whenOpen; split
  · exact h
  · exact k

@[simp] theorem moves_createZone (z : BitVec 16) (k : Byte) (h : Moves o s t) :
    Moves o s (createZone z k t).1 := by
  refine moves_whenOpen _ _ h ?_
  repeat' split
  all_goals simp [h]

@[simp] theorem moves_deleteZone (z : BitVec 16) (h : Moves o s t) :
    Moves o s (deleteZone z t).1 := by
  refine moves_whenOpen _ _ h ?_
  repeat' split
  all_goals simp [h]

@[simp] theorem moves_addMember (z p : BitVec 16) (k : Byte) (h : Moves o s t) :
    Moves o s (addMember z p k t).1 := by
  refine moves_whenOpen _ _ h ?_
  dsimp only
  repeat' split
  all_goals simp [h]

@[simp] theorem moves_removeMember (z p : BitVec 16) (h : Moves o s t) :
    Moves o s (removeMember z p t).1 := by
  refine moves_whenOpen _ _ h ?_
  repeat' split
  all_goals simp [h]

@[simp] theorem moves_commitZones (hold : Byte) (h : Moves o s t) :
    Moves o s (commitZones hold t).1 := by
  unfold commitZones; dsimp only
  repeat' split
  all_goals simp [h]

@[simp] theorem moves_completeCommit (h : Moves o s t) : Moves o s (completeCommit t).1 := by
  unfold completeCommit; split
  · simp (maxDischargeDepth := 9) [h]
  · exact h

@[simp] theorem moves_readZone (l : Byte) (z : BitVec 16) (p : Byte) (h : Moves o s t) :
    Moves o s (readZone l z p t).1 := by
  unfold readZone
  repeat' split
  all_goals exact h

@[simp] theorem moves_readZoneStatus (h : Moves o s t) : Moves o s (readZoneStatus t).1 := h

/-! ### The Cooling Controller -/

@[simp] theorem moves_giveDemand (d : Nat) (h : Moves o s t) : Moves o s (giveDemand d t) := by
  simp [giveDemand, h]

@[simp] theorem moves_readSupply (h : Moves o s t) : Moves o s (readSupply t).1 := h

@[simp] theorem moves_readTray (x : Byte) (h : Moves o s t) : Moves o s (readTray x t).1 := by
  unfold readTray; split <;> exact h

@[simp] theorem moves_readTemperature (h : Moves o s t) : Moves o s (readTemperature t).1 := h

end Sys2Proof.Machine
end

