-- ==== Sys2Proof/Laws/PowerMoves.lean ====
section
/-! SUPPORT. Chains of moves over the operations of the Power Budget Unit, the License Unit and the
readings of the Cooling Controller. -/

namespace Sys2Proof.Machine

variable {o : Bool} {s t : State}

/-! ### The Power Budget Unit -/

@[simp] theorem moves_modSlot (i : Slot) (f : SlotRec → SlotRec) (h : Moves o s t) :
    Moves o s (modSlot i f t) := by simp [modSlot, h]

@[simp] theorem moves_setSlotPower (i : Slot) (st : SlotPower) (h : Moves o s t) :
    Moves o s (setSlotPower i st t) := by simp [setSlotPower, h]

@[simp] theorem moves_setPort (p : Port) (st : PortPower) (h : Moves o s t) :
    Moves o s (setPort p st t) := by unfold setPort; dsimp only; split <;> simp [h]

@[simp] theorem moves_portsOff (i : Slot) (h : Moves o s t) : Moves o s (portsOff i t) := by
  unfold portsOff; dsimp only
  repeat' split
  all_goals simp (maxDischargeDepth := 9) [h]

@[simp] theorem moves_leaveDraw (i : Slot) (st : SlotPower) (h : Moves o s t) :
    Moves o s (leaveDraw i st t) := by
  unfold leaveDraw; dsimp only; refine moves_portsOff _ ?_; split <;> simp [h]

@[simp] theorem moves_evalTight (h : Moves o s t) : Moves o s (evalTight t) := by simp [evalTight, h]

@[simp] theorem moves_tellDemand (h : Moves o s t) : Moves o s (tellDemand t) := by simp [tellDemand, h]

@[simp] theorem moves_leavePower (i : Slot) (st : SlotPower) (h : Moves o s t) :
    Moves o s (leavePower i st t) := by
  unfold leavePower; dsimp only; split <;> simp (maxDischargeDepth := 9) [h]

theorem moves_shedPass (is : List Slot) : ∀ t, Moves o s t → Moves o s (shedPass is t).1 := by
  induction is with
  | nil => exact fun _ h => h
  | cons i is ih =>
    intro t h
    unfold shedPass; split
    · exact h
    · exact ih _ (by simp [h])

@[simp] theorem moves_admitSlot (i : Slot) (h : Moves o s t) : Moves o s (admitSlot i t) := by
  unfold admitSlot; split <;> simp [h]

@[simp] theorem moves_admitPort (p : Port) (h : Moves o s t) : Moves o s (admitPort p t) := by
  unfold admitPort; split
  · split <;> simp [h]
  · exact h

@[simp] theorem moves_admissionPass (h : Moves o s t) : Moves o s (admissionPass t) :=
  moves_foldl _ (fun _ _ k => moves_admitPort _ k) _ _
    (moves_foldl _ (fun _ _ k => moves_admitSlot _ k) _ _ h)

@[simp] theorem moves_handOn (k : RecomputeKind) (left shed : List Slot) (h : Moves o s t) :
    Moves o s (handOn k left shed t) := by
  unfold handOn
  have h1 := moves_foldl _ (fun _ i k => moves_slotLeft i k) left _ h
  have h2 := moves_foldl (fun t i => eventSettled .budgetShed (i.val + 1) t)
    (fun _ i k => moves_eventSettled _ _ k) shed _ h1
  simp (maxDischargeDepth := 9) [h2]

@[simp] theorem moves_recomputeShed (h : Moves o s t) : Moves o s (recomputeShed t).1 := by
  unfold recomputeShed; dsimp only; split
  · exact moves_handOn _ _ _ (moves_shedPass _ _ (by simp [h]))
  · simp (maxDischargeDepth := 9) [h]

@[simp] theorem moves_recompute (h : Moves o s t) : Moves o s (recompute t) := moves_recomputeShed h

@[simp] theorem moves_testPort (p : Port) (c : PortClass) (h : Moves o s t) :
    Moves o s (testPort p c t) := by
  unfold testPort; split <;> simp (maxDischargeDepth := 9) [h]

@[simp] theorem moves_takeNotice (n : Notice) (h : Moves o s t) : Moves o s (takeNotice n t).1 := by
  unfold takeNotice takeGrant takeRelease takeRegrade
  repeat' split
  all_goals simp (maxDischargeDepth := 9) [h]

theorem moves_takeAll (ns : List Notice) : ∀ t, Moves o s t → Moves o s (takeAll ns t).1 := by
  induction ns with
  | nil => exact fun _ h => h
  | cons n ns ih => exact fun t h => ih _ (by simp [h])

@[simp] theorem moves_handNotices (ns : List Notice) (h : Moves o s t) :
    Moves o s (handNotices ns t) := by
  unfold handNotices; dsimp only; split <;> simp [moves_takeAll ns t h]

@[simp] theorem moves_handSlotFault (i : Slot) (h : Moves o s t) : Moves o s (handSlotFault i t) := by
  simp [handSlotFault, h]

@[simp] theorem moves_setReservePolicy (p : Byte) (h : Moves o s t) :
    Moves o s (setReservePolicy p t).1 := by
  unfold setReservePolicy; dsimp only
  repeat' split
  all_goals simp [h]

@[simp] theorem moves_moveSlot (i : Slot) (st : SlotPower) (h : Moves o s t) :
    Moves o s (moveSlot i st t) := by simp (maxDischargeDepth := 9) [moveSlot, h]

@[simp] theorem moves_slotOff (i : Slot) (h : Moves o s t) : Moves o s (slotOff i t) := by
  unfold slotOff; split <;> simp [h]

@[simp] theorem moves_slotOn (i : Slot) (h : Moves o s t) : Moves o s (slotOn i t) := by
  unfold slotOn; split <;> simp [h]

@[simp] theorem moves_slotPower (x a : Byte) (h : Moves o s t) : Moves o s (slotPower x a t).1 := by
  unfold slotPower; split
  · exact h
  · split
    · exact h
    · dsimp only; split <;> simp [h]

@[simp] theorem moves_setShedPriority (x p : Byte) (h : Moves o s t) :
    Moves o s (setShedPriority x p t).1 := by
  unfold setShedPriority
  repeat' split
  all_goals simp [h]

@[simp] theorem moves_readBudget (h : Moves o s t) : Moves o s (readBudget t).1 := h

@[simp] theorem moves_readSlot (x : Byte) (h : Moves o s t) : Moves o s (readSlot x t).1 := by
  unfold readSlot; split <;> exact h

/-! ### The License Unit -/

theorem moves_grantPort (p : Port) (c : PortClass)
    (hp : p ∉ t.lic.grants.map Grant.port ∧ p ∉ t.lic.waiting) (hw : c.weight ≤ freeUnits t.lic)
    (h : Moves o s t) : Moves o s (grantPort p c t) :=
  moves_joinHeld _ (moves_modLic _ (fun k => consistent_grant _ p c k hp hw) h)

@[simp] theorem moves_releasePort (p : Port) (h : Moves o s t) : Moves o s (releasePort p t) :=
  moves_joinHeld _ (moves_modLic _ (fun k => consistent_release _ _ k) h)

theorem moves_regradePort (p : Port) (c : PortClass) (g : Grant) (hg : grantOf t.lic p = some g)
    (hw : c.weight ≤ g.cls.weight ∨ c.weight - g.cls.weight ≤ freeUnits t.lic) (h : Moves o s t) :
    Moves o s (regradePort p c t) :=
  moves_joinHeld _ (moves_modLic _ (fun k => consistent_regrade _ p c g hg k hw) h)

theorem moves_queuePort (p : Port) (hp : p ∉ t.lic.grants.map Grant.port ∧ p ∉ t.lic.waiting)
    (h : Moves o s t) : Moves o s (queuePort p t) :=
  moves_modLic _ (fun k => consistent_queue _ p k hp) h

@[simp] theorem moves_unqueuePort (p : Port) (h : Moves o s t) : Moves o s (unqueuePort p t) :=
  moves_modLic _ (fun k => consistent_unqueue _ _ k) h

@[simp] theorem moves_modPort (p : Port) (f : PortConfig → PortConfig) (h : Moves o s t) :
    Moves o s (modPort p f t) := moves_modLic _ (fun k => consistent_ports _ _ k) h

theorem moves_serve (ps : List Port) :
    ∀ t, t.lic.waiting = ps → Moves o s t → Moves o s (serve ps t).1 := by
  induction ps with
  | nil => exact fun _ _ h => h
  | cons p ps ih =>
    intro t hw h
    unfold serve; split
    · exact h
    · rename_i c _
      split
      · rename_i hf
        have k : Moves o s (t.modLic fun l =>
            { l with waiting := ps, grants := l.grants ++ [⟨p, c⟩] }) :=
          moves_modLic _ (fun k => consistent_serve _ p ps c hw k hf) h
        exact ih _ (by simp [grantPort, joinClassField])
          (moves_joinHeld (classFieldOf p) k)
      · exact h

@[simp] theorem moves_serveAfter (l : License) (h : Moves o s t) : Moves o s (serveAfter l t).1 := by
  unfold serveAfter; split
  · exact moves_serve _ _ rfl h
  · exact h

@[simp] theorem moves_endStep (l : License) (ns : List Notice) (h : Moves o s t) :
    Moves o s (endStep l ns t).1 := by simp (maxDischargeDepth := 9) [endStep, h]

@[simp] theorem moves_installEntitlement (e : Entitlement) (h : Moves o s t) :
    Moves o s (installEntitlement e t).1 := by
  unfold installEntitlement; dsimp only; split
  · exact h
  · exact moves_endStep _ _ (moves_modLic _ (fun k => consistent_install _ e k) h)

/-- The states that differ only in the license records and in arbiter class 1. -/
def OnlyLicJoin (s t : State) : Prop :=
  t = (s.modBus fun b => { b with class1 := t.bus.class1 }).modLic fun _ => t.lic

theorem OnlyLicJoin.trans {u : State} (h : OnlyLicJoin s t) (k : OnlyLicJoin t u) :
    OnlyLicJoin s u := by
  unfold OnlyLicJoin at *; rw [k, h]; rfl

theorem onlyLicJoin_joinHeld (f : HeldField) (s : State) : OnlyLicJoin s (joinHeld f s) := by
  unfold joinHeld; split <;> rfl

theorem onlyLicJoin_joinField (p : Port) (f : License → License) (s : State) :
    OnlyLicJoin s (joinClassField p (s.modLic f)) :=
  OnlyLicJoin.trans (t := s.modLic f) rfl (onlyLicJoin_joinHeld _ _)

theorem onlyLicJoin_regrades (c : PortClass) (ps : List Port) :
    ∀ s, OnlyLicJoin s (ps.foldl (fun t p => regradePort p c t) s) := by
  induction ps with
  | nil => exact fun _ => rfl
  | cons p ps ih => exact fun s => (onlyLicJoin_joinField p _ s).trans (ih _)

theorem onlyLicJoin_regradeByCeiling (l : License) (s : State) :
    OnlyLicJoin s (regradeByCeiling l s).1 := by
  unfold regradeByCeiling; split
  · rfl
  · split
    · exact onlyLicJoin_regrades _ _ _
    · rfl

theorem regradePort_lic (p : Port) (c : PortClass) (s : State) :
    (regradePort p c s).lic
      = { s.lic with grants := s.lic.grants.map fun g => if g.port = p then ⟨p, c⟩ else g } := by
  simp [regradePort, joinClassField]

theorem noTwice_regrades (c : PortClass) (ps : List Port) :
    ∀ s : State, s.lic.noTwice → (ps.foldl (fun t p => regradePort p c t) s).lic.noTwice := by
  induction ps with
  | nil => exact fun _ h => h
  | cons p ps ih =>
    intro s h
    refine ih _ ?_
    rw [regradePort_lic]
    exact noTwice_regrade _ p c h

theorem noTwice_regradeByCeiling (l : License) (s : State) (h : s.lic.noTwice) :
    (regradeByCeiling l s).1.lic.noTwice := by
  unfold regradeByCeiling; split
  · exact h
  · split
    · exact noTwice_regrades _ _ _ h
    · exact h

theorem revoke_spec (gs : List Grant) :
    ∀ s, OnlyLicJoin s (revoke gs s).1 ∧ (revoke gs s).1.lic = License.revoked gs s.lic := by
  induction gs with
  | nil => exact fun _ => ⟨rfl, rfl⟩
  | cons g gs ih =>
    intro s
    unfold revoke License.revoked
    split
    · exact ⟨rfl, rfl⟩
    · have k := ih ((releasePort g.port s).modLic fun l => { l with waiting := g.port :: l.waiting })
      refine ⟨?_, ?_⟩
      · have h1 : OnlyLicJoin s (releasePort g.port s) := onlyLicJoin_joinField g.port _ s
        have h2 : OnlyLicJoin (releasePort g.port s) ((releasePort g.port s).modLic
            fun l => { l with waiting := g.port :: l.waiting }) := rfl
        exact (h1.trans h2).trans k.1
      · rw [k.2]
        congr 1
        simp [releasePort, joinClassField]

@[simp] theorem moves_raiseRevoked (ps : List Port) (h : Moves o s t) :
    Moves o s (raiseRevoked ps t) := moves_foldl _ (fun _ _ k => moves_occurEvent _ _ _ k) _ _ h

@[simp] theorem moves_removeEntitlement (id : BitVec 32) (h : Moves o s t) :
    Moves o s (removeEntitlement id t).1 := by
  unfold removeEntitlement; dsimp only; split
  · refine moves_handCondition _ _ (moves_raiseRevoked _ (moves_handNotices _
      (moves_serveAfter _ ?_)))
    generalize hu : (t.modLic fun l => { l with table := l.table.filter fun e => e.id ≠ id }) = u
    have hut : OnlyLicJoin t u := by rw [← hu]; rfl
    have hun : t.lic.noTwice → u.lic.noTwice := by rw [← hu]; exact fun k => k
    generalize hv : (regradeByCeiling t.lic u).1 = v
    have huv : OnlyLicJoin u v := by rw [← hv]; exact onlyLicJoin_regradeByCeiling _ _
    have hvn : t.lic.noTwice → v.lic.noTwice := fun k => by
      rw [← hv]; exact noTwice_regradeByCeiling _ _ (hun k)
    have hr := revoke_spec v.lic.grants.reverse v
    have hj := (hut.trans huv).trans hr.1
    rw [hj]
    refine moves_modLic _ (fun k => ?_) (moves_modBus _ (fun _ k => k) (fun _ => ⟨rfl, rfl, rfl, rfl, rfl, rfl⟩) h)
    rw [hr.2]
    exact revoked_all _ (hvn k.1)
  · exact h

@[simp] theorem moves_requestLicense (p : Port) (hp : licenseState t.lic p = .none)
    (h : Moves o s t) : Moves o s (requestLicense p t).1 := by
  have hn := onNeither _ _ hp
  unfold requestLicense
  split
  · exact moves_queuePort p hn h
  · split
    · rename_i c _ hf
      have hf' : c.weight ≤ freeUnits t.lic := by
        have := (Bool.and_eq_true_iff.1 hf).2
        exact of_decide_eq_true this
      exact moves_grantPort p c hn hf' h
    · exact moves_queuePort p hn h

theorem licenseState_modPort (p q : Port) (f : PortConfig → PortConfig) (s : State) :
    licenseState (modPort q f s).lic p = licenseState s.lic p := rfl

theorem moves_upGranted (p : Port) (old cls : PortClass) (hp : licenseState t.lic p = .granted old)
    (h : Moves o s t) : Moves o s (upGranted p old cls t).1 := by
  obtain ⟨g, hg, hc⟩ := granted_grantOf _ _ _ hp
  unfold upGranted; dsimp only
  have k : Moves o s (modPort p (fun r => { r with requested := cls }) t) := moves_modPort _ _ h
  split
  · exact h
  · split
    · exact k
    · split
      · rename_i hlt
        exact moves_regradePort p _ g hg (Or.inl (by rw [hc]; omega)) k
      · split
        · rename_i hf
          refine moves_regradePort p _ g hg (Or.inr ?_) k
          have := (Bool.and_eq_true_iff.1 hf).2
          rw [hc]; exact of_decide_eq_true this
        · exact h

@[simp] theorem moves_portUp (p : Port) (c : PortClass) (h : Moves o s t) :
    Moves o s (portUp p c t).1 := by
  unfold portUp; split
  · rename_i hp
    dsimp only; split
    · exact moves_requestLicense p hp (moves_modPort _ _ h)
    · exact moves_modPort _ _ h
  · exact moves_modPort _ _ h
  · rename_i old hp
    exact moves_upGranted p old c hp h

@[simp] theorem moves_portDown (p : Port) (h : Moves o s t) : Moves o s (portDown p t).1 := by
  unfold portDown; dsimp only
  split <;> simp [h]

@[simp] theorem moves_adminPort (up : Bool) (c : PortClass) (p : Port) (h : Moves o s t) :
    Moves o s (adminPort up c p t).1 := by
  unfold adminPort; dsimp only; split <;> simp [h]

theorem moves_adminPorts (up : Bool) (c : PortClass) (ps : List (Port × Bool)) :
    ∀ t, Moves o s t → Moves o s (adminPorts up c ps t).1 := by
  induction ps with
  | nil => exact fun _ h => h
  | cons x ps ih =>
    intro t h
    unfold adminPorts; dsimp only
    exact ih _ (by split <;> simp [h])

@[simp] theorem moves_portAdmin (g m a c : Byte) (h : Moves o s t) :
    Moves o s (portAdmin g m a c t).1 := by
  unfold portAdmin; split
  · exact h
  · dsimp only; split
    · exact moves_adminPorts _ _ _ _ h
    · exact h

@[simp] theorem moves_riseStep (p : Port) (h : Moves o s t) : Moves o s (riseStep p t) := by
  unfold riseStep; split
  · rename_i hc
    have hp : licenseState t.lic p = .none := of_decide_eq_true (Bool.and_eq_true_iff.1 hc).2
    exact moves_endStep _ _ (moves_requestLicense p hp h)
  · exact h

@[simp] theorem moves_licenseRise (i : Slot) (h : Moves o s t) : Moves o s (licenseRise i t) :=
  moves_foldl _ (fun _ _ k => moves_riseStep _ k) _ _ h

@[simp] theorem moves_losePort (p : Port) (h : Moves o s t) : Moves o s (losePort p t).1 := by
  unfold losePort; split <;> simp [h]

theorem moves_losePorts (ps : List Port) : ∀ t, Moves o s t → Moves o s (losePorts ps t).1 := by
  induction ps with
  | nil => exact fun _ h => h
  | cons p ps ih => exact fun t h => ih _ (by simp [h])

@[simp] theorem moves_licenseLoss (i : Slot) (h : Moves o s t) : Moves o s (licenseLoss i t) := by
  simp [licenseLoss, moves_losePorts _ _ h]

@[simp] theorem moves_readPortGroup (g : Byte) (h : Moves o s t) : Moves o s (readPortGroup g t).1 := by
  unfold readPortGroup; split <;> exact h

@[simp] theorem moves_readPool (h : Moves o s t) : Moves o s (readPool t).1 := h

@[simp] theorem moves_readGrantList (p : BitVec 16) (h : Moves o s t) :
    Moves o s (readGrantList p t).1 := by unfold readGrantList; split <;> exact h

@[simp] theorem moves_readWaitQueue (p : BitVec 16) (h : Moves o s t) :
    Moves o s (readWaitQueue p t).1 := by unfold readWaitQueue; split <;> exact h

@[simp] theorem moves_readEntitlements (h : Moves o s t) : Moves o s (readEntitlements t).1 := h

/-! ### Slot events -/

@[simp] theorem moves_raiseSlotChange (i : Slot) (h : Moves o s t) :
    Moves o s (raiseSlotChange i t) := by simp [raiseSlotChange, h]

@[simp] theorem moves_slotRise (i : Slot) (c : Card) (h : Moves o s t) :
    Moves o s (slotRise i c t) := by simp (maxDischargeDepth := 9) [slotRise, h]

@[simp] theorem moves_emptySlot (i : Slot) (h : Moves o s t) : Moves o s (emptySlot i t) := by
  unfold emptySlot; split <;> simp (maxDischargeDepth := 9) [dropCard, h]

@[simp] theorem moves_slotLoss (i : Slot) (h : Moves o s t) : Moves o s (slotLoss i t) := by
  simp (maxDischargeDepth := 9) [slotLoss, h]

@[simp] theorem moves_testSlotPort (p : Port) (h : Moves o s t) : Moves o s (testSlotPort p t) := by
  unfold testSlotPort; split
  · split <;> simp [h]
  · exact h

@[simp] theorem moves_enterPowered (i : Slot) (h : Moves o s t) : Moves o s (enterPowered i t) := by
  exact moves_recompute (moves_raiseSlotChange _ (moves_slotEntered _
    (moves_foldl _ (fun _ p k => moves_testSlotPort p k) _ _ (by simp [h]))))

@[simp] theorem moves_faultSlot (i : Slot) (h : Moves o s t) : Moves o s (faultSlot i t) := by
  simp (maxDischargeDepth := 9) [faultSlot, h]

@[simp] theorem moves_powerGood (i : Slot) (v : Bool) (h : Moves o s t) :
    Moves o s (powerGood i v t) := by
  unfold powerGood
  repeat' split
  all_goals simp [h]

@[simp] theorem moves_powerGoodExpiry (i : Slot) (h : Moves o s t) :
    Moves o s (powerGoodExpiry i t) := by
  unfold powerGoodExpiry
  repeat' split
  all_goals simp [h]

/-! ### What the scan hands to the Cooling Controller -/

@[simp] theorem moves_coolingNotice (h : Moves o s t) : Moves o s (coolingNotice t) := by
  simp [coolingNotice, h]

@[simp] theorem moves_modSupply (b : Bay) (f : Supply → Supply) (h : Moves o s t) :
    Moves o s (modSupply b f t) := by simp [modSupply, h]

@[simp] theorem moves_handSupply (b : Bay) (h : Moves o s t) : Moves o s (handSupply b t) := by
  simp [handSupply, h]

@[simp] theorem moves_supplyRise (b : Bay) (r : Nat) (k : InputKind) (i j : Bool)
    (h : Moves o s t) : Moves o s (supplyRise b r k i j t) := by
  simp (maxDischargeDepth := 9) [supplyRise, h]

@[simp] theorem moves_supplyLines (b : Bay) (i j : Bool) (h : Moves o s t) :
    Moves o s (supplyLines b i j t) := by
  unfold supplyLines; dsimp only; split <;> simp (maxDischargeDepth := 9) [h]

@[simp] theorem moves_supplyLoss (b : Bay) (h : Moves o s t) : Moves o s (supplyLoss b t) := by
  simp (maxDischargeDepth := 9) [supplyLoss, h]

@[simp] theorem moves_sensorReading (w : Fin 2) (r : SensorReading) (h : Moves o s t) :
    Moves o s (sensorReading w r t) := by simp [sensorReading, h]

@[simp] theorem moves_updateTIn (h : Moves o s t) : Moves o s (updateTIn t) := by
  unfold updateTIn; dsimp only
  have hr : ∀ c, (reformUsable c).duty = c.duty := fun _ => rfl
  repeat' split
  all_goals simp (maxDischargeDepth := 12) [h, hr]

@[simp] theorem moves_modTray (x : Tray) (f : TrayRec → TrayRec) (h : Moves o s t) :
    Moves o s (modTray x f t) := by simp [modTray, h]

@[simp] theorem moves_handRotors (x : Tray) (h : Moves o s t) : Moves o s (handRotors x t) :=
  moves_foldl _ (fun _ _ k => moves_handSettled _ _ k) _ _ h

@[simp] theorem moves_handTray (x : Tray) (h : Moves o s t) : Moves o s (handTray x t) := by
  simp [handTray, h]

@[simp] theorem moves_trayRise (x : Tray) (m : Nat) (h : Moves o s t) : Moves o s (trayRise x m t) := by
  simp (maxDischargeDepth := 9) [trayRise, h]

@[simp] theorem moves_trayLoss (x : Tray) (h : Moves o s t) : Moves o s (trayLoss x t) := by
  simp (maxDischargeDepth := 9) [trayLoss, h]

@[simp] theorem moves_modRotor (x : Tray) (r : Rotor) (f : RotorRec → RotorRec) (h : Moves o s t) :
    Moves o s (modRotor x r f t) := by simp [modRotor, h]

@[simp] theorem moves_rotorAtRise (x : Tray) (r : Rotor) (v : Option Nat) (h : Moves o s t) :
    Moves o s (rotorAtRise x r v t) := by
  unfold rotorAtRise; dsimp only; split <;> simp (maxDischargeDepth := 9) [h]

@[simp] theorem moves_rotorSpeed (x : Tray) (r : Rotor) (v : Option Nat) (h : Moves o s t) :
    Moves o s (rotorSpeed x r v t) := by
  unfold rotorSpeed; split
  · exact h
  · dsimp only; split <;> simp (maxDischargeDepth := 9) [h]

@[simp] theorem moves_settle (h : Moves o s t) : Moves o s (settle t) :=
  moves_foldl _ (fun _ _ k => moves_handCondition _ _ k) _ _ (by simp [h])

@[simp] theorem moves_coolingPass (h : Moves o s t) : Moves o s (coolingPass t) := by
  unfold coolingPass; dsimp only; split <;> simp (maxDischargeDepth := 9) [h]

end Sys2Proof.Machine
end

