-- ==== Sys2Proof/Laws/StepMoves.lean ====
section
/-! SUPPORT. Chains of moves over authority, the bus, the scan and the links; and with them over every
command and every step. -/

namespace Sys2Proof.Machine

variable {o : Bool} {s t : State}

/-! ### The Authority Unit -/

@[simp] theorem moves_handPeer (c : Cp) (h : Moves o s t) : Moves o s (handPeer c t) := by
  simp [handPeer, h]

@[simp] theorem moves_fallSilent (c : Cp) (h : Moves o s t) : Moves o s (fallSilent c t) := by
  simp [fallSilent, h]

/-- The states that differ only in the authority record and the zoning records. -/
def OnlyAuthZone (s t : State) : Prop :=
  t = (s.modZone fun _ => t.zone).modAuth fun _ => t.auth

theorem OnlyAuthZone.trans {u : State} (h : OnlyAuthZone s t) (k : OnlyAuthZone t u) :
    OnlyAuthZone s u := by
  unfold OnlyAuthZone at *; rw [k, h]; rfl

theorem onlyAuthZone_adoptTxn (c : Cp) (e : BitVec 32) (s : State) :
    OnlyAuthZone s (adoptTxn c e s) := by unfold adoptTxn; split <;> rfl

theorem onlyAuthZone_discardTxn (s : State) : OnlyAuthZone s (discardTxn s) := by
  unfold discardTxn; split <;> rfl

theorem onlyAuthZone_resolveDeparted (h : Option Cp) (s : State) :
    OnlyAuthZone s (resolveDeparted h s) := by
  unfold resolveDeparted; split
  · rfl
  · dsimp only
    split
    · rfl
    · split
      · exact OnlyAuthZone.trans (t := removeDeparted s) rfl (onlyAuthZone_adoptTxn _ _ _)
      · exact OnlyAuthZone.trans (t := removeDeparted s) rfl (onlyAuthZone_discardTxn _)

theorem onlyAuthZone_createDeparted (c : Cp) (e : BitVec 32) (k : Cause) (s : State) :
    OnlyAuthZone s (createDeparted c e k s) := by
  unfold createDeparted; dsimp only; split
  · split
    · unfold holdTxn; split <;> rfl
    · rfl
  · rfl

/-- A change of holder that ends in a re-evaluation is a chain. -/
theorem moves_moveAuthority {u : State} (h : Option Cp) (k : Cause) (m : Moves o s t)
    (a : OnlyAlarm (moveAuthority h k t) u) : Moves o s (reevaluate u) := by
  have hx : ∃ x, OnlyAuthZone t x ∧ moveAuthority h k t = recomputeDuty (joinHeld .indicator x) := by
    refine ⟨_, ?_, rfl⟩
    have h0 : OnlyAuthZone t (resolveDeparted h (setHolder h k t)) :=
      OnlyAuthZone.trans (t := setHolder h k t) rfl (onlyAuthZone_resolveDeparted _ _)
    split
    · exact h0
    · exact h0.trans (onlyAuthZone_createDeparted _ _ _ _)
  obtain ⟨x, hx, e⟩ := hx
  have swap : joinHeld .indicator x
      = (joinHeld .indicator (t.modZone fun _ => x.zone)).modAuth fun _ => x.auth := by
    rw [hx]; unfold joinHeld
    by_cases hc : t.bus.class1.contains (.held .indicator) = true
    · rw [if_pos (by simpa using hc), if_pos (by simpa using hc)]; rfl
    · rw [if_neg (by simpa using hc), if_neg (by simpa using hc)]; rfl
  rw [a, e, swap]
  exact ((moves_joinHeld _ (moves_modZone _ m)).tail (.holder _ _ _))

@[simp] theorem moves_changeHolder (h : Option Cp) (k : Cause) (m : Moves o s t) :
    Moves o s (changeHolder h k t) := by
  unfold changeHolder occurEvent; exact moves_moveAuthority h k m (by simp)

theorem moves_record (f : Authority → Authority)
    (hf : ∀ a, (f a).holder = a.holder ∧ (f a).presence = a.presence) (h : Moves o s t) :
    Moves o s (t.modAuth f) := h.tail (.record f t hf)

@[simp] theorem moves_peerExpiry (c : Cp) (h : Moves o s t) : Moves o s (peerExpiry c t) := by
  unfold peerExpiry
  repeat' split
  all_goals simp [h]

@[simp] theorem moves_holderExpiry (h : Moves o s t) : Moves o s (holderExpiry t) := by
  unfold holderExpiry; dsimp only
  repeat' split
  all_goals simp (maxDischargeDepth := 9) [h]

@[simp] theorem moves_presenceUp (c : Cp) (h : Moves o s t) : Moves o s (presenceUp c t) := by
  simp [presenceUp, h]

@[simp] theorem moves_presenceDown (c : Cp) (h : Moves o s t) : Moves o s (presenceDown c t) := by
  unfold presenceDown; dsimp only
  by_cases hc : t.isHolder c = true
  · rw [if_pos hc]
    refine moves_occurEvent _ _ _ (moves_handPeer _ ?_)
    unfold clearService
    exact moves_moveAuthority _ _ (moves_setPresence c .absent h) (onlyAlarm_modAlarm _ rfl)
  · rw [if_neg hc]
    exact moves_handPeer _ (moves_clearService _ (moves_setPresence _ _ h))

@[simp] theorem moves_takeHeartbeat (c : Cp) (h : Moves o s t) : Moves o s (takeHeartbeat c t) := by
  simp [takeHeartbeat, h]

@[simp] theorem moves_claimAuthority (c : Cp) (e : BitVec 32) (h : Moves o s t) :
    Moves o s (claimAuthority c e t).1 := by
  unfold claimAuthority; dsimp only
  repeat' split
  all_goals simp [h]

@[simp] theorem moves_yieldAuthority (c : Cp) (h : Moves o s t) : Moves o s (yieldAuthority c t).1 := by
  simp [yieldAuthority, h]

@[simp] theorem moves_takeOver (c : Cp) (e : BitVec 32) (h : Moves o s t) :
    Moves o s (takeOver c e t).1 := by
  unfold takeOver; dsimp only
  repeat' split
  all_goals simp [h]

@[simp] theorem moves_readAuthority (h : Moves o s t) : Moves o s (readAuthority t).1 := h

@[simp] theorem moves_removeDeparted (h : Moves o s t) : Moves o s (removeDeparted t) :=
  moves_record _ (fun _ => ⟨rfl, rfl⟩) h

@[simp] theorem moves_adoptTxn (c : Cp) (e : BitVec 32) (h : Moves o s t) :
    Moves o s (adoptTxn c e t) := by unfold adoptTxn; split <;> simp [h]

@[simp] theorem moves_discardTxn (h : Moves o s t) : Moves o s (discardTxn t) := by
  unfold discardTxn; split <;> simp [h]

@[simp] theorem moves_adoptDeparted (c : Cp) (h : Moves o s t) : Moves o s (adoptDeparted c t).1 := by
  unfold adoptDeparted; split
  · exact h
  · dsimp only; refine moves_removeDeparted ?_; split <;> simp [h]

@[simp] theorem moves_discardDeparted (h : Moves o s t) : Moves o s (discardDeparted t).1 := by
  unfold discardDeparted; split
  · exact h
  · dsimp only; refine moves_removeDeparted ?_; split <;> simp [h]

@[simp] theorem moves_writeHandover (c : Cp) (f n : Byte) (ws : List (BitVec 32))
    (h : Moves o s t) : Moves o s (writeHandover c f n ws t).1 := by
  unfold writeHandover; dsimp only
  split
  · exact h
  · split
    · exact h
    · dsimp only; exact moves_record _ (fun _ => ⟨rfl, rfl⟩) h

@[simp] theorem moves_readHandover (x f n : Byte) (h : Moves o s t) :
    Moves o s (readHandover x f n t).1 := by
  unfold readHandover; split
  · exact h
  · dsimp only; split <;> exact h

/-! ### The Line Bus Controller -/

theorem moves_putOnBus (x : OnBus) (n : Nat) (hn : n ≤ 16) (h : Moves o s t) :
    Moves o s (putOnBus x n t) := by simp [putOnBus, h, hn]

@[simp] theorem moves_grantScan (h : Moves true s t) : Moves true s (grantScan t) := by
  unfold grantScan; split
  · simp [h]
  · exact moves_putOnBus _ _ (by omega) (by simp [h])

@[simp] theorem moves_grantLow (h : Moves true s t) : Moves true s (grantLow t) := by
  unfold grantLow; split
  · exact moves_putOnBus _ _ (by omega) (by simp [h])
  · split <;> simp [h]

@[simp] theorem moves_arbitrate (h : Moves true s t) : Moves true s (arbitrate t) := by
  unfold arbitrate grantByClass; dsimp only
  split
  · exact h
  · split
    · simp [h]
    · split
      · exact moves_putOnBus _ _ (by omega) (by simp [h])
      · split
        · exact moves_putOnBus _ _ (by omega) (by simp [h])
        · simp [h]

@[simp] theorem moves_freeBus (x : OnBus) (e : BusEnd) (h : Moves o s t) :
    Moves o s (freeBus x e t) := by unfold freeBus; dsimp only; split <;> simp [h]

@[simp] theorem moves_setMaintenanceField (x : Byte) (b l : BitVec 16) (h : Moves o s t) :
    Moves o s (setMaintenanceField x b l t).1 := by
  unfold setMaintenanceField
  repeat' split
  all_goals simp [h]

@[simp] theorem moves_maintLine (c : Cp) (k : MaintKind) (x : Nat → Txn) (l : BitVec 16)
    (h : Moves o s t) : Moves o s (maintLine c k x l t).1 := by
  unfold maintLine joinMaint; dsimp only; split <;> simp [h]

@[simp] theorem moves_maintRange (c : Cp) (k : MaintKind) (x : Nat → Nat → Txn) (f : BitVec 16)
    (n : Byte) (h : Moves o s t) : Moves o s (maintRange c k x f n t).1 := by
  unfold maintRange joinMaint; dsimp only
  repeat' split
  all_goals simp [h]

@[simp] theorem moves_senseRead (c : Cp) (f : BitVec 16) (n : Byte) (h : Moves o s t) :
    Moves o s (senseRead c f n t).1 := by
  unfold senseRead joinMaint; dsimp only
  repeat' split
  all_goals simp [h]

/-! ### The scan -/

@[simp] theorem moves_putSlotSeen (i : Slot) (d : Debounce) (h : Moves true s t) :
    Moves true s (putSlotSeen i d t) := by simp [putSlotSeen, h]

@[simp] theorem moves_putBaySeen (i : Bay) (d : Debounce) (h : Moves true s t) :
    Moves true s (putBaySeen i d t) := by simp [putBaySeen, h]

@[simp] theorem moves_putTraySeen (i : Tray) (d : Debounce) (h : Moves true s t) :
    Moves true s (putTraySeen i d t) := by simp [putTraySeen, h]

@[simp] theorem moves_scanTo (x : ScanStep) (h : Moves true s t) : Moves true s (scanTo x t) := by
  simp [scanTo, h]

@[simp] theorem moves_startPass (h : Moves true s t) : Moves true s (startPass t) := by simp [startPass, h]

@[simp] theorem moves_startScan (h : Moves true s t) : Moves true s (startScan t) := by
  unfold startScan startAttempt; split <;> simp [h]

theorem moves_endScan (go : State → State) (hg : ∀ u, Moves true s u → Moves true s (go u))
    (h : Moves true s t) : Moves true s (endScan go t) := by
  unfold endScan; split
  · exact hg _ (by simp [h])
  · simp [h]

@[simp] theorem moves_completePass (h : Moves true s t) : Moves true s (completePass t) :=
  moves_endScan _ (fun _ k => moves_startScan k) (by simp [h])

@[simp] theorem moves_rewriteFrom (fs : List HeldField) (h : Moves true s t) :
    Moves true s (rewriteFrom fs t) := by unfold rewriteFrom; split <;> simp [h]

@[simp] theorem moves_afterTray (x : Tray) (h : Moves true s t) : Moves true s (afterTray x t) := by
  unfold afterTray; split <;> simp [h]

@[simp] theorem moves_afterBay (x : Bay) (h : Moves true s t) : Moves true s (afterBay x t) := by
  unfold afterBay; split <;> simp [h]

@[simp] theorem moves_reachSlot (x : Slot) (h : Moves true s t) : Moves true s (reachSlot x t) := by
  simp [reachSlot, h]

@[simp] theorem moves_afterSlot (x : Slot) (h : Moves true s t) : Moves true s (afterSlot x t) := by
  unfold afterSlot; split <;> simp [h]

@[simp] theorem moves_afterSlotReads (x : Slot) (a : Bool) (h : Moves true s t) :
    Moves true s (afterSlotReads x a t) := by
  unfold afterSlotReads; split <;> simp [h]

theorem moves_slotIdentityEnded (i : Slot) (a : Bool) (got : List (Option (BitVec 16)))
    (e : BusEnd) (h : Moves true s t) : Moves true s (slotIdentityEnded i a got e t) := by
  unfold slotIdentityEnded
  split
  · split
    · exact moves_afterSlotReads _ _ (moves_slotRise _ _ (moves_putSlotSeen _ _ h))
    · exact moves_afterSlotReads _ _ h
  · exact moves_scanTo _ h

@[simp] theorem moves_scanStepEnded (x : ScanStep) (e : BusEnd) (h : Moves true s t) :
    Moves true s (scanStepEnded x e t) := by
  cases x with
  | sensor w =>
    simp only [scanStepEnded, sensorEnded]; split <;> simp (maxDischargeDepth := 9) [h]
  | slotLines i a =>
    simp only [scanStepEnded, slotLinesEnded]
    have k := moves_putSlotSeen i ((t.bus.slotSeen.get i).take (readingOf e)).1 h
    split
    · exact moves_afterSlotReads _ _ k
    · exact moves_afterSlotReads _ _ (moves_powerGood _ _ k)
    · exact moves_afterSlotReads _ _ (moves_slotLoss _ k)
    · exact moves_scanTo _ k
  | slotIdentity i a got =>
    exact moves_slotIdentityEnded _ _ _ _ h
  | slotAck i =>
    simp only [scanStepEnded, slotAckEnded]; split <;> simp (maxDischargeDepth := 9) [h]
  | bayLines b =>
    simp only [scanStepEnded, bayLinesEnded]
    have k := moves_putBaySeen b ((t.bus.baySeen.get b).take (readingOf e)).1 h
    split
    · exact moves_afterBay _ k
    · exact moves_afterBay _ (moves_supplyLines _ _ _ k)
    · exact moves_afterBay _ (moves_supplyLoss _ k)
    · exact moves_scanTo _ k
  | bayIdentity b i j got =>
    simp only [scanStepEnded, bayIdentityEnded]
    repeat' split
    all_goals simp (maxDischargeDepth := 9) [h]
  | trayLine y =>
    simp only [scanStepEnded, trayLineEnded]; split <;> simp (maxDischargeDepth := 9) [h]
  | trayIdentity y =>
    simp only [scanStepEnded, trayIdentityEnded]; split <;> simp (maxDischargeDepth := 9) [h]
  | rotor y r rise =>
    simp only [scanStepEnded, rotorEnded]
    repeat' split
    all_goals simp (maxDischargeDepth := 9) [h]
  | rewrite f rest => simp [scanStepEnded, h]

@[simp] theorem moves_scanEnded (e : BusEnd) (h : Moves true s t) : Moves true s (scanEnded e t) := by
  unfold scanEnded; split <;> simp [h]

@[simp] theorem moves_endAttempt (owed : Bool) (h : Moves true s t) : Moves true s (endAttempt owed t) := by
  unfold endAttempt; split
  · simp [h]
  · exact moves_endScan _ (fun _ k => moves_startPass k) h

@[simp] theorem moves_serialEnded (e : BusEnd) (h : Moves true s t) : Moves true s (serialEnded e t) := by
  unfold serialEnded; dsimp only
  repeat' split
  all_goals first
    | exact moves_endAttempt _ (h.tail (.serial _ _))
    | simp [h]

@[simp] theorem moves_takeMark (h : Moves true s t) : Moves true s (takeMark t) := by
  unfold takeMark; dsimp only
  have k := h.tail (.mark t.time t)
  repeat' split
  all_goals simp [h, k]

/-! ### The links -/

theorem moves_serveRequest (c : Cp) (r : Request) (h : Moves o s t) :
    Moves o s (serveRequest c r t).1 := by
  cases r <;> simp only [serveRequest] <;> first | exact h | simp [h]

theorem moves_judgeRequest (c : Cp) (f : Frame) (h : Moves o s t) :
    Moves o s (judgeRequest c f t).1 := by
  unfold judgeRequest
  repeat' split
  all_goals first | exact h | exact moves_serveRequest _ _ h

theorem moves_settleRequest (c : Cp) (f : Frame) (r : State × Took) (h : Moves true s r.1) :
    Moves true s (settleRequest c f r) := by
  unfold settleRequest hold placeResponse
  split
  · exact moves_modLink _ _ (fun _ k => k) h
  · exact moves_modLink _ _ (fun _ k => k) (moves_modLink _ _ (fun _ k => k) h)
  · exact moves_modLink _ _ (fun _ k => k) h

theorem moves_takeRequests (c : Cp) : ∀ n t, Moves true s t → Moves true s (takeRequests c n t) := by
  intro n
  induction n with
  | zero => exact fun _ h => h
  | succ n ih =>
    intro t h
    unfold takeRequests
    split
    · exact h
    · split
      · exact h
      · rename_i f rest hq
        exact ih _ (moves_settleRequest _ _ _ (moves_judgeRequest _ _
          (h.tail (.link c _ t (by rw [hq]; simp only [List.length_cons]; omega)))))

@[simp] theorem moves_serveQueue (c : Cp) (h : Moves true s t) : Moves true s (serveQueue c t) :=
  moves_takeRequests _ _ _ h

@[simp] theorem moves_completeRequest (c : Cp) (x : OutcomeCode) (bs : List Byte)
    (h : Moves true s t) : Moves true s (completeRequest c x bs t) := by
  unfold completeRequest placeResponse; split
  · exact h
  · dsimp only
    refine moves_serveQueue _ ?_
    split
    · exact moves_modLink _ _ (fun _ k => k) h
    · exact moves_modLink _ _ (fun _ k => k) (moves_modLink _ _ (fun _ k => k) h)

@[simp] theorem moves_linkUp (c : Cp) (h : Moves true s t) : Moves true s (linkUp c t) := by
  unfold linkUp; split
  · exact moves_modLink _ _ (fun _ k => k) h
  · exact moves_presenceUp _ (moves_modLink _ _ (fun _ k => k) h)

@[simp] theorem moves_placeImmediate (c : Cp) (r : Response) (h : Moves true s t) :
    Moves true s (placeImmediate c r t) := moves_modLink _ _ (fun _ k => k) h

@[simp] theorem moves_heartbeatFrame (c : Cp) (f : Frame) (h : Moves true s t) :
    Moves true s (heartbeatFrame c f t) := by unfold heartbeatFrame; dsimp only; split <;> simp [h]

@[simp] theorem moves_requestFrame (c : Cp) (f : Frame) (h : Moves true s t) :
    Moves true s (requestFrame c f t) := by
  unfold requestFrame; split
  · simp [h]
  · rename_i hq
    exact moves_serveQueue _ (h.tail (.link c _ t (by
      intro _; simp only [List.length_append, List.length_singleton]; omega)))

@[simp] theorem moves_handleFrame (c : Cp) (f : Frame) (h : Moves true s t) :
    Moves true s (handleFrame c f t) := by
  unfold handleFrame
  repeat' split
  all_goals simp [h]

@[simp] theorem moves_linkDown (c : Cp) (h : Moves true s t) : Moves true s (linkDown c t) :=
  moves_presenceDown _ (moves_modLink _ _ (fun _ _ => by simp [LinkPort.down]) h)

@[simp] theorem moves_handleBadFrame (c : Cp) (h : Moves true s t) : Moves true s (handleBadFrame c t) := by
  unfold handleBadFrame; dsimp only
  split
  · exact h
  · split
    · simp [h]
    · exact moves_modLink _ _ (fun _ k => k) h

@[simp] theorem moves_handleBytes (c : Cp) (bytes : List Byte) (h : Moves true s t) :
    Moves true s (handleBytes c bytes t) := by
  refine moves_foldl _ (fun u x k => ?_) _ _ h
  unfold frameArrived; split <;> simp [k]

@[simp] theorem moves_assertReset (c : Cp) (h : Moves true s t) : Moves true s (assertReset c t) := by
  unfold assertReset; dsimp only
  split
  · exact moves_linkDown _ (moves_modLink _ _ (fun _ k => k) h)
  · exact moves_modLink _ _ (fun _ k => k) h

@[simp] theorem moves_completeTransfer (c : Cp) (h : Moves true s t) :
    Moves true s (completeTransfer c t) := by
  unfold completeTransfer; split
  · refine moves_serveQueue _ (moves_modLink _ _ (fun p k => ?_) h)
    unfold LinkPort.transferred
    repeat' split
    all_goals exact k
  · exact h

theorem moves_advance (c : Cp) (h : Moves true s t) : Moves true s (t.modLink c LinkPort.advance) := by
  refine moves_modLink _ _ (fun p k => ?_) h
  unfold LinkPort.advance
  repeat' split
  all_goals exact k

/-! ### Every command, and every step -/

theorem moves_endOf (mine : Owner → Bool) (first again : Answer)
    (act : OnBus → BusEnd → State → State) (ha : ∀ x e u, Moves true s u → Moves true s (act x e u))
    (h : Moves true s t) {u : State} (hu : endOf mine first again act t = .next u) : Moves true s u := by
  unfold endOf finish at hu
  repeat' split at hu
  all_goals cases hu
  · exact h
  · exact moves_arbitrate (ha _ _ _ (moves_freeBus _ _ h))
  · exact h

theorem moves_request (c : Cp) (tag : BitVec 4) (r : Request) {u : State}
    (hu : request c tag r s = .next u) : Moves true s u := by
  unfold request finish sendRequest at hu
  cases hu
  simp

/-- Every command but POWER_ON_RESET is a chain of moves. -/
theorem exec_moves (i : Instr) (s u : State) (hi : ∀ lines, i ≠ .powerOnReset lines)
    (hu : exec i s = .next u) : Moves true s u := by
  cases i
  case powerOnReset lines => exact absurd rfl (hi lines)
  case serialReadEnd a b =>
    unfold exec execSerialReadEnd at hu
    exact moves_endOf _ _ _ _ (fun _ e _ k => moves_serialEnded e k) .rfl hu
  case maintTransactionEnd a b =>
    unfold exec execMaintTransactionEnd at hu
    refine moves_endOf _ _ _ _ (fun x e v k => ?_) .rfl hu
    unfold maintEnded
    repeat' split
    all_goals simp [k]
  case scanTransactionEnd a b =>
    unfold exec execScanTransactionEnd at hu
    exact moves_endOf _ _ _ _ (fun _ e _ k => moves_scanEnded e k) .rfl hu
  case heldFieldWriteEnd a b =>
    unfold exec execHeldFieldWriteEnd at hu
    exact moves_endOf _ _ _ _ (fun _ _ _ k => k) .rfl hu
  case loadingWriteEnd a b =>
    unfold exec execLoadingWriteEnd at hu
    exact moves_endOf _ _ _ _ (fun _ e _ k => moves_loadingEnded _ e k) .rfl hu
  case activateFieldWriteEnd a b =>
    unfold exec execActivateFieldWriteEnd at hu
    exact moves_endOf _ _ _ _ (fun _ e _ k => moves_activateFieldEnded e k) .rfl hu
  case activationStrobeEnd a =>
    unfold exec execActivationStrobeEnd at hu
    exact moves_endOf _ _ _ _ (fun _ e _ k => moves_strobeEnded e k) .rfl hu
  case slotActivatePulseEnd a =>
    unfold exec execSlotActivatePulseEnd at hu
    refine moves_endOf _ _ _ _ (fun x e v k => ?_) .rfl hu
    unfold pulseOf; split <;> simp [k]
  case commitComputationComplete =>
    simp only [exec, execCommitComputationComplete, finish] at hu
    split at hu
    · cases hu; exact .rfl
    · cases hu; exact moves_arbitrate (moves_completeRequest _ _ _ (moves_completeCommit .rfl))
  case goodFrame c bs => cases hu; simp
  case badFrame c => cases hu; simp
  case linkResetAssert c => cases hu; simp
  case linkResetRelease c =>
    cases hu; exact moves_arbitrate (moves_modLink _ _ (fun _ k => k) .rfl)
  case dataTransferReadComplete c => cases hu; simp
  case heartbeat c tag => cases hu; simp
  case peerDeadlineExpiry c => cases hu; simp
  case heartbeatExpiry => cases hu; simp
  case scanMark => cases hu; simp
  case ackTimeout i =>
    cases hu; exact moves_arbitrate (moves_judgeAckDeadline _ .rfl)
  case powerGoodDeadlineExpiry i =>
    cases hu; exact moves_arbitrate (moves_powerGoodExpiry _ .rfl)
  all_goals exact moves_request _ _ _ hu

/-- Every command answers a next state. -/
theorem exec_next (i : Instr) (s : State) : ∃ u, exec i s = .next u := by
  have he : ∀ m a b act, ∃ u, endOf m a b act s = .next u := by
    intro m a b act
    unfold endOf finish
    repeat' split
    all_goals exact ⟨_, rfl⟩
  cases i
  case commitComputationComplete =>
    simp only [exec, execCommitComputationComplete, finish]
    split <;> exact ⟨_, rfl⟩
  all_goals first
    | exact ⟨_, rfl⟩
    | (simp only [exec, execSerialReadEnd, execScanTransactionEnd, execHeldFieldWriteEnd,
        execLoadingWriteEnd, execActivateFieldWriteEnd, execActivationStrobeEnd,
        execSlotActivatePulseEnd, execMaintTransactionEnd]; exact he _ _ _ _)

/-- A step is a chain of moves, but for the queue of commands, the time base of an idle step, and a
POWER_ON_RESET. -/
theorem step_moves (s u : State) (hu : step s = .next u) :
    ∃ x q r v, u = v.setPending r
      ∧ (Moves true ((s.setTime x).setPending q) v ∨ ∃ lines held, v = State.powerOn lines held) := by
  unfold step at hu
  split at hu
  · cases hu
    unfold tick
    split
    · have ha : Moves true ((s.setTime (s.time + 1)).setPending s.pending)
          (advanceLinks (s.setTime (s.time + 1))) := moves_advance _ (moves_advance _ .rfl)
      exact ⟨_, _, s.pending, _, rfl, .inl ha⟩
    · exact ⟨s.time, s.pending, _, s, rfl, .inl .rfl⟩
  · rename_i i is _
    by_cases h : ∃ lines, i = .powerOnReset lines
    · obtain ⟨lines, rfl⟩ := h
      cases hu
      exact ⟨s.time, is, _, _, rfl, .inr ⟨_, _, rfl⟩⟩
    · exact ⟨s.time, is, u.pending, u, rfl,
        .inl (exec_moves _ _ _ (fun lines e => h ⟨lines, e⟩) hu)⟩

/-- A move leaves the time base and the straps as they are. -/
theorem Move.time_straps {o : Bool} {s t : State} (h : Move o s t) :
    t.time = s.time ∧ t.straps = s.straps := by
  cases h <;> simp

/-- No command but POWER_ON_RESET moves the time base or the straps (R199, R197). -/
theorem exec_time (i : Instr) (s u : State) (hi : ∀ lines, i ≠ .powerOnReset lines)
    (hu : exec i s = .next u) : u.time = s.time ∧ u.straps = s.straps :=
  (exec_moves i s u hi hu).keeps (P := fun v => v.time = s.time ∧ v.straps = s.straps)
    (fun _ _ m hs => ⟨m.time_straps.1.trans hs.1, m.time_straps.2.trans hs.2⟩) ⟨rfl, rfl⟩

end Sys2Proof.Machine
end

