-- ==== Sys2Proof/Laws/Links.lean ====
section
/-! SUPPORT. The link ports: what a block that serves a request leaves as it was, how the queue is taken, how
a run of bytes is cut into frames, and that the arbiter has nothing more to do after itself. -/

namespace Sys2Proof.Machine

/-! ### What the inner moves keep -/

theorem sameScan_joinHeld (f : HeldField) (s : State) : SameScan s.bus (joinHeld f s).bus := by
  unfold joinHeld joinClass1 SameScan; split <;> simp

theorem SameScan.trans {a b d : Bus} (h : SameScan a b) (k : SameScan b d) : SameScan a d := by
  unfold SameScan at *; simp [h, k]

theorem sameScan_reevaluate (s : State) : SameScan s.bus (reevaluate s).bus := by
  unfold reevaluate; dsimp only; split
  · simp [SameScan]
  · exact sameScan_joinHeld .indicator _

theorem sameScan_recomputeDuty (s : State) : SameScan s.bus (recomputeDuty s).bus := by
  unfold recomputeDuty; dsimp only; split
  · simp [SameScan]
  · unfold joinAll; simp only [List.foldl]
    refine SameScan.trans ?_ (sameScan_joinHeld (.duty 2) _)
    refine SameScan.trans ?_ (sameScan_joinHeld (.duty 1) _)
    refine SameScan.trans ?_ (sameScan_joinHeld (.duty 0) _)
    simp [SameScan]

/-- What no inner move changes: the link ports, the queue of commands, the clock, the straps, the chassis
serial and the records of the scan. -/
structure Kept (s t : State) : Prop where
  link : t.link = s.link
  pending : t.pending = s.pending
  time : t.time = s.time
  lastMark : t.lastMark = s.lastMark
  straps : t.straps = s.straps
  serial : t.serial = s.serial
  scan : SameScan s.bus t.bus

theorem Kept.trans {s t u : State} (h : Kept s t) (k : Kept t u) : Kept s u :=
  ⟨k.link.trans h.link, k.pending.trans h.pending, k.time.trans h.time, k.lastMark.trans h.lastMark,
    k.straps.trans h.straps, k.serial.trans h.serial, h.scan.trans k.scan⟩

theorem Move.kept {s t : State} (h : Move false s t) : Kept s t := by
  have hs : ∀ b : Bus, SameScan b b := fun _ => by simp [SameScan]
  cases h with
  | bus f _ _ k => exact ⟨rfl, rfl, rfl, rfl, rfl, rfl, k rfl⟩
  | duty => exact ⟨by simp, by simp, by simp, by simp, by simp, by simp, sameScan_recomputeDuty s⟩
  | alarm f =>
    exact ⟨by simp, by simp, by simp, by simp, by simp, by simp, sameScan_reevaluate (s.modAlarm f)⟩
  | presence c p =>
    exact ⟨by simp, by simp, by simp, by simp, by simp, by simp, sameScan_reevaluate (s.modAuth _)⟩
  | holder f g =>
    exact ⟨by simp, by simp, by simp, by simp, by simp, by simp,
      (sameScan_recomputeDuty (s.modAuth f)).trans
        (sameScan_reevaluate ((recomputeDuty (s.modAuth f)).modAlarm g))⟩
  | cool | power | lic | zone | ring | record => exact ⟨rfl, rfl, rfl, rfl, rfl, rfl, hs _⟩

/-- What a chain of inner moves keeps. -/
theorem Moves.kept {s t : State} (h : Moves false s t) : Kept s t := by
  induction h with
  | rfl =>
    exact ⟨Eq.refl _, Eq.refl _, Eq.refl _, Eq.refl _, Eq.refl _, Eq.refl _, by simp [SameScan]⟩
  | tail _ m ih => exact ih.trans m.kept

/-- A block that serves a request changes no link port, and nothing of the clock or the scan. -/
theorem kept_serveRequest (c : Cp) (r : Request) (s : State) : Kept s (serveRequest c r s).1 :=
  (moves_serveRequest c r (.refl s)).kept

theorem kept_judgeRequest (c : Cp) (f : Frame) (s : State) : Kept s (judgeRequest c f s).1 :=
  (moves_judgeRequest c f (.refl s)).kept

/-- The completion of a pass leaves what the next pass is started by. -/
theorem kept_passEnd (s : State) : Kept s (judgeAckDeadlines (coolingPass s)) :=
  (moves_judgeAckDeadlines (moves_coolingPass (.refl s))).kept

/-! ### The queue (R187) -/

/-- Settling a request leaves the port's queue as it is. -/
theorem settleRequest_queue (c : Cp) (f : Frame) (r : State × Took) :
    ((settleRequest c f r).link.get c).queue = (r.1.link.get c).queue := by
  unfold settleRequest hold placeResponse
  split <;> simp

/-- Judging and settling the request at the head leaves the rest of the queue. -/
theorem taken_queue (c : Cp) (f : Frame) (s : State) :
    ((settleRequest c f (judgeRequest c f s)).link.get c).queue = (s.link.get c).queue := by
  rw [settleRequest_queue, (kept_judgeRequest c f s).link]

/-- Taking over no more requests than needed is taking over as many as the queue holds. -/
theorem takeRequests_eq (c : Cp) :
    ∀ (n : Nat) (s : State), (s.link.get c).queue.length ≤ n → takeRequests c n s = serveQueue c s := by
  have key : ∀ (n m : Nat) (s : State), (s.link.get c).queue.length ≤ n →
      (s.link.get c).queue.length ≤ m → takeRequests c n s = takeRequests c m s := by
    intro n
    induction n with
    | zero =>
      intro m s h _
      have hq : (s.link.get c).queue = [] := List.eq_nil_of_length_eq_zero (Nat.le_zero.1 h)
      cases m <;> simp [takeRequests, hq]
    | succ n ih =>
      intro m s h k
      cases m with
      | zero =>
        have hq : (s.link.get c).queue = [] := List.eq_nil_of_length_eq_zero (Nat.le_zero.1 k)
        simp [takeRequests, hq]
      | succ m =>
        unfold takeRequests
        split
        · rfl
        · split
          · rfl
          · rename_i f rest hq
            rw [hq, List.length_cons] at h k
            refine ih m _ ?_ ?_ <;> rw [taken_queue] <;> simp <;> omega
  exact fun n s h => key n _ s h (Nat.le_refl _)

/-! ### Runs of bytes (R193) -/

@[simp] theorem framesIn_nil (n : Nat) : framesIn n [] = [] := by cases n <;> rfl

/-- Any fuel that covers the bytes gives the same frames. -/
theorem framesIn_eq : ∀ (n : Nat) (bs : List Byte), bs.length ≤ n → framesIn n bs = received bs := by
  have key : ∀ (n m : Nat) (bs : List Byte), bs.length ≤ n → bs.length ≤ m →
      framesIn n bs = framesIn m bs := by
    intro n
    induction n with
    | zero => intro m bs h _; rw [List.eq_nil_of_length_eq_zero (Nat.le_zero.1 h)]; simp
    | succ n ih =>
      intro m bs h k
      cases bs with
      | nil => simp
      | cons b bs =>
        cases m with
        | zero => simp at k
        | succ m =>
          simp only [List.length_cons, Nat.add_le_add_iff_right] at h k
          unfold framesIn
          split
          · exact ih m bs h k
          · cases bs with
            | nil => rfl
            | cons len rest =>
              simp only [List.length_cons] at h k
              dsimp only
              split
              · rw [ih m rest (by omega) (by omega)]
              · have hd : (rest.drop (len.toNat + 2)).length ≤ rest.length := by simp
                rw [ih m _ (by omega) (by omega)]
  exact fun n bs h => key n _ bs h (Nat.le_refl _)

@[simp] theorem received_nil : received [] = [] := rfl

/-- A byte other than 0xA5 between frames is skipped. -/
theorem received_idle (b : Byte) (bs : List Byte) (h : b ≠ 0xA5) : received (b :: bs) = received bs := by
  show framesIn (bs.length + 1) (b :: bs) = _
  unfold framesIn
  rw [if_pos h, framesIn_eq _ _ (Nat.le_refl _)]

/-- A length byte below 2 makes a bad frame that ends with it. -/
theorem received_short (len : Byte) (bs : List Byte) (h : len.toNat < 2) :
    received (0xA5 :: len :: bs) = none :: received bs := by
  show framesIn (bs.length + 1 + 1) (0xA5 :: len :: bs) = _
  unfold framesIn
  rw [if_neg (by simp)]; dsimp only; rw [if_pos h, framesIn_eq _ _ (by omega)]

/-- From 0xA5 the length byte, as many bytes and the two of the CRC belong to the frame. -/
theorem received_frame (len : Byte) (body bs : List Byte) (h : 2 ≤ len.toNat)
    (k : body.length = len.toNat + 2) :
    received (0xA5 :: len :: (body ++ bs)) = parseFrame (0xA5 :: len :: body) :: received bs := by
  show framesIn ((body ++ bs).length + 1 + 1) (0xA5 :: len :: (body ++ bs)) = _
  unfold framesIn
  rw [if_neg (by simp)]; dsimp only
  rw [if_neg (by omega), ← k, List.take_left, List.drop_left, framesIn_eq _ _ (by simp; omega)]

/-- The run ends before the frame does. -/
theorem received_cut (len : Byte) (body : List Byte) (h : 2 ≤ len.toNat)
    (k : body.length < len.toNat + 2) :
    received (0xA5 :: len :: body) = [parseFrame (0xA5 :: len :: body)] := by
  show framesIn (body.length + 1 + 1) (0xA5 :: len :: body) = _
  unfold framesIn
  rw [if_neg (by simp)]; dsimp only
  rw [if_neg (by omega), List.take_of_length_le (by omega),
    List.drop_eq_nil_of_le (by omega), framesIn_nil]

/-! ### The arbiter after itself (R33, R35) -/

/-- With a transaction on the bus the arbiter waits. -/
theorem arbitrate_busy (s : State) (h : s.bus.current.isSome = true) : arbitrate s = s := by
  unfold arbitrate; rw [if_pos h]

/-- With nothing waiting the arbiter grants nothing. -/
theorem arbitrate_quiet (s : State) (h1 : s.bus.class1 = []) (h2 : s.bus.class2 = none)
    (h3 : pickMaint s s.bus.class3 = none) (h4 : s.bus.class4 = false) : arbitrate s = s := by
  have e : (s.modBus fun b => { b with class1 := [] }) = s := by
    unfold State.modBus; rw [← h1]
  unfold arbitrate
  split
  · rfl
  · rw [if_neg (by simp [h4])]
    unfold grantByClass
    rw [h1]
    simp only [nextClass1, e, h2]
    unfold grantLow
    simp only [h3, h4]
    rfl

theorem grantScan_busy (s : State) (h : (scanGrant s).isSome = true) :
    (grantScan s).bus.current.isSome = true := by
  unfold grantScan
  split
  · rename_i e; rw [e] at h; cases h
  · rfl

/-- The arbiter does nothing more at once: it granted, or nothing waits. -/
theorem arbitrate_arbitrate (s : State) : arbitrate (arbitrate s) = arbitrate s := by
  by_cases h0 : s.bus.current.isSome = true
  · rw [arbitrate_busy s h0, arbitrate_busy s h0]
  · by_cases h16 : s.bus.grants = 16 ∧ s.bus.class4 = true ∧ (scanGrant s).isSome = true
    · have e : arbitrate s = grantScan s := by unfold arbitrate; rw [if_neg h0, if_pos h16]
      rw [e, arbitrate_busy _ (grantScan_busy s h16.2.2)]
    · have e : arbitrate s = grantByClass s := by unfold arbitrate; rw [if_neg h0, if_neg h16]
      rw [e]
      unfold grantByClass
      split
      · exact arbitrate_busy _ rfl
      · dsimp only
        split
        · exact arbitrate_busy _ rfl
        · rename_i h2
          unfold grantLow
          split
          · exact arbitrate_busy _ rfl
          · rename_i h3
            split
            · unfold grantScan
              split
              · exact arbitrate_quiet _ rfl h2 h3 rfl
              · exact arbitrate_busy _ rfl
            · rename_i h4
              exact arbitrate_quiet _ rfl h2 h3 (by simpa using h4)

/-! ### What arrives (R184, R193) -/

/-- A run of bytes that brings one frame does what that frame does. -/
theorem exec_goodFrame_one (c : Cp) (bytes : List Byte) (f : Option Frame) (s : State)
    (h : received bytes = [f]) :
    exec (.goodFrame c bytes) s = .next (arbitrate (frameArrived c f s)) := by
  show Host.Outcome.next (arbitrate (handleBytes c bytes s)) = _
  unfold handleBytes
  rw [h, List.foldl, List.foldl, arbitrate_arbitrate]

/-- The first frame of a run, then the rest of the run. -/
theorem exec_goodFrame_cons (c : Cp) (bytes rest : List Byte) (f : Option Frame) (s : State)
    (h : received bytes = f :: received rest) :
    exec (.goodFrame c bytes) s
      = exec (.goodFrame c rest) (arbitrate (frameArrived c f s)) := by
  show Host.Outcome.next (arbitrate (handleBytes c bytes s))
    = Host.Outcome.next (arbitrate (handleBytes c rest _))
  unfold handleBytes
  rw [h, List.foldl]

end Sys2Proof.Machine
end

