-- ==== Sys2Proof/Laws/Shared.lean ====
section
/-! SUPPORT. What the operations that every block uses can do: chassis times and presence deadlines, and the
joining of arbiter class 1. -/

namespace Sys2Proof.Machine

/-! ### Chassis times (log 13) -/

theorem timeAfter_toNat (d : Time) (n : Nat) : (timeAfter d n).toNat = (d.toNat + n) % 2 ^ 48 := by
  simp [timeAfter, BitVec.toNat_add]

theorem reached_after (d : Time) (n : Nat) (h : n < 2 ^ 47) : reached (timeAfter d n) d = true := by
  simp [reached, timeAfter]; omega

theorem not_reached_before (d : Time) (n : Nat) (pos : 0 < n) (h : n ≤ 2 ^ 47) :
    reached d (timeAfter d n) = false := by
  simp [reached, timeAfter]; omega

/-! ### Presence deadlines (R4, R5, R10) -/

theorem deadlineReached_iff (c : Cp) (s : State) :
    deadlineReached c s = true ↔ ∃ d, s.auth.presence.get c = .live d ∧ reached s.time d = true := by
  unfold deadlineReached
  split <;> simp_all

theorem deadlineReached_live {c : Cp} {d : Time} {s : State} (h : s.auth.presence.get c = .live d) :
    deadlineReached c s = reached s.time d := by
  simp [deadlineReached, h]

/-- A HEARTBEAT leaves a deadline that is not reached (R3, R5). -/
theorem not_reached_renewed (t : Time) (p : HeartbeatPeriod) : reached t (timeAfter t p.ms) = false := by
  cases p <;> exact not_reached_before _ _ (by decide) (by decide)

/-- A change of holder leaves the presences as they are (R9). -/
theorem changeHolder_presence (h : Option Cp) (k : Cause) (s : State) :
    (changeHolder h k s).auth.presence = s.auth.presence := by
  have resolved : ∀ u : State, (resolveDeparted h u).auth.presence = u.auth.presence := by
    intro u
    unfold resolveDeparted
    repeat' split
    all_goals simp [removeDeparted]
  simp only [changeHolder, occurEvent_auth, moveAuthority, recomputeDuty_auth]
  split <;> simp only [joinHeld_auth]
  · exact resolved _
  · unfold createDeparted
    dsimp only
    repeat' split
    all_goals simp [resolved, setHolder]

/-! ### Class 1 (R34): an entry joins at the tail, and none leaves before the arbiter grants -/

theorem joinHeld_prefix (f : HeldField) (s : State) : s.bus.class1 <+: (joinHeld f s).bus.class1 := by
  unfold joinHeld joinClass1
  split
  · exact List.prefix_rfl
  · exact List.prefix_append _ _

theorem mem_joinHeld (f : HeldField) (s : State) : Class1.held f ∈ (joinHeld f s).bus.class1 := by
  unfold joinHeld joinClass1
  split
  · rename_i h
    exact List.contains_iff_mem.1 h
  · simp [State.modBus]

theorem joinAll_prefix : ∀ (fs : List HeldField) (s : State), s.bus.class1 <+: (joinAll fs s).bus.class1
  | [], _ => List.prefix_rfl
  | f :: fs, s => (joinHeld_prefix f s).trans (joinAll_prefix fs _)

/-- What joins depends on the Line Bus Controller's records alone. -/
theorem joinHeld_bus_congr (f : HeldField) (s t : State) (h : s.bus = t.bus) :
    (joinHeld f s).bus = (joinHeld f t).bus := by
  unfold joinHeld joinClass1
  rw [h]
  split
  · exact h
  · simp [State.modBus, h]

theorem recomputeDuty_prefix (s : State) : s.bus.class1 <+: (recomputeDuty s).bus.class1 := by
  unfold recomputeDuty
  dsimp only
  split
  · exact List.prefix_rfl
  · refine .trans ?_ (joinAll_prefix _ _)
    exact List.prefix_rfl

theorem reevaluate_prefix (s : State) : s.bus.class1 <+: (reevaluate s).bus.class1 := by
  unfold reevaluate
  dsimp only
  split
  · exact List.prefix_rfl
  · exact joinHeld_prefix .indicator (s.modAlarm _)

theorem occurEvent_prefix (k : AlarmClass) (n : Nat) (i : Bool) (s : State) :
    s.bus.class1 <+: (occurEvent k n i s).bus.class1 := by
  simpa [occurEvent] using reevaluate_prefix (appendHistory k n .event i (latchEvent k n i s))

/-- At a change of holder the indicator field joins ahead of whatever else the change makes join (R9, R28;
log 6). -/
theorem changeHolder_prefix (h : Option Cp) (k : Cause) (s : State) :
    (joinHeld .indicator s).bus.class1 <+: (changeHolder h k s).bus.class1 := by
  refine .trans (.trans ?_ (recomputeDuty_prefix _)) (occurEvent_prefix _ _ _ _)
  rw [joinHeld_bus_congr .indicator s]
  split <;> simp [setHolder, State.modAuth]

end Sys2Proof.Machine
end

