-- ==== Sys2Proof/Laws/Tables.lean ====
section
/-! SUPPORT. What the ordered lists of the part hold after an insertion: zone tables, member lists, and the
lines that the part has driven; and what a walk over slots leaves in the zone records. -/

namespace Sys2Proof.Machine

/-- A table in ascending zone number. -/
abbrev ZoneTable.ascending (tbl : ZoneTable) : Prop :=
  tbl.Pairwise fun a b => a.number.val < b.number.val

/-- An insertion keeps a table ascending, and puts the zone in the place of one of its number. -/
theorem insertZone_spec (x : Zone) : ∀ tbl : ZoneTable, tbl.ascending →
    (insertZone x tbl).ascending
    ∧ ∀ y, y ∈ insertZone x tbl ↔ y = x ∨ (y ∈ tbl ∧ y.number ≠ x.number)
  | [], _ => by simp [insertZone]
  | a :: tbl, h => by
    obtain ⟨h1, h2⟩ := List.pairwise_cons.1 h
    obtain ⟨ih, mem⟩ := insertZone_spec x tbl h2
    have after {n : Nat} (hn : n ≤ a.number.val) (y : Zone) (hy : y ∈ tbl) : y.number.val ≠ n := by
      have := h1 y hy; omega
    simp only [insertZone]
    split
    · rename_i hlt
      have hlt : x.number.val < a.number.val := hlt
      refine ⟨List.pairwise_cons.2 ⟨fun y hy => ?_, h⟩, fun y => ?_⟩
      · rcases List.mem_cons.1 hy with rfl | hy
        · exact hlt
        · exact lt_trans hlt (h1 y hy)
      · constructor
        · intro hy
          rcases List.mem_cons.1 hy with rfl | hy
          · exact .inl rfl
          · refine .inr ⟨hy, fun e => ?_⟩
            rcases List.mem_cons.1 hy with rfl | hy
            · rw [e] at hlt; omega
            · exact after (le_of_lt hlt) y hy (by rw [e])
        · rintro (rfl | ⟨hy, -⟩)
          · exact List.mem_cons_self
          · exact List.mem_cons_of_mem _ hy
    · split
      · rename_i he
        refine ⟨List.pairwise_cons.2 ⟨fun y hy => by rw [he]; exact h1 y hy, h2⟩, fun y => ?_⟩
        simp only [List.mem_cons]
        constructor
        · rintro (rfl | hy)
          · exact .inl rfl
          · exact .inr ⟨.inr hy, fun e => after le_rfl y hy (by rw [e, he])⟩
        · rintro (rfl | ⟨rfl | hy, hn⟩)
          · exact .inl rfl
          · exact absurd he.symm hn
          · exact .inr hy
      · rename_i hlt he
        have hlt : ¬ x.number.val < a.number.val := hlt
        have hne : x.number.val ≠ a.number.val := fun e => he (Fin.ext e)
        refine ⟨List.pairwise_cons.2 ⟨fun y hy => ?_, ih⟩, fun y => ?_⟩
        · rcases (mem y).1 hy with rfl | hy
          · omega
          · exact h1 y hy.1
        · simp only [List.mem_cons, mem]
          constructor
          · rintro (rfl | rfl | hy)
            · exact .inr ⟨.inl rfl, fun e => he e.symm⟩
            · exact .inl rfl
            · exact .inr ⟨.inr hy.1, hy.2⟩
          · rintro (rfl | ⟨rfl | hy, hn⟩)
            · exact .inr (.inl rfl)
            · exact .inl rfl
            · exact .inr (.inr ⟨hy, hn⟩)

/-- Of an ascending table, the first zone whose number has a property is the lowest that has it. -/
theorem find_lowest (q : Nat → Bool) (y : Zone) : ∀ tbl : ZoneTable, tbl.ascending →
    ((tbl.find? fun z => q z.number.val) = some y ↔
      y ∈ tbl ∧ q y.number.val = true
        ∧ ∀ z ∈ tbl, q z.number.val = true → y.number.val ≤ z.number.val)
  | [], _ => by simp
  | a :: tbl, h => by
    obtain ⟨h1, h2⟩ := List.pairwise_cons.1 h
    rw [List.find?_cons]
    cases hq : q a.number.val
    · simp only [find_lowest q y tbl h2, List.mem_cons]
      constructor
      · rintro ⟨hy, hqy, low⟩
        refine ⟨.inr hy, hqy, ?_⟩
        rintro z (rfl | hz) hqz
        · rw [hq] at hqz; cases hqz
        · exact low z hz hqz
      · rintro ⟨rfl | hy, hqy, low⟩
        · rw [hq] at hqy; cases hqy
        · exact ⟨hy, hqy, fun z hz => low z (.inr hz)⟩
    · simp only [Option.some.injEq, List.mem_cons]
      constructor
      · rintro rfl
        refine ⟨.inl rfl, hq, ?_⟩
        rintro z (rfl | hz) _
        · exact le_rfl
        · exact le_of_lt (h1 z hz)
      · rintro ⟨rfl | hy, -, low⟩
        · rfl
        · have := low a (.inl rfl) hq
          have := h1 y hy
          omega

/-- An insertion keeps a member list ascending, and adds the port. -/
theorem insertPort_spec (p : Port) : ∀ ps : List Port, ps.Pairwise (· < ·) →
    (insertPort p ps).Pairwise (· < ·) ∧ ∀ q, q ∈ insertPort p ps ↔ q = p ∨ q ∈ ps
  | [], _ => by simp [insertPort]
  | a :: ps, h => by
    obtain ⟨h1, h2⟩ := List.pairwise_cons.1 h
    obtain ⟨ih, mem⟩ := insertPort_spec p ps h2
    simp only [insertPort]
    split
    · rename_i hlt
      refine ⟨List.pairwise_cons.2 ⟨fun q hq => ?_, h⟩, fun q => by simp⟩
      rcases List.mem_cons.1 hq with rfl | hq
      · exact hlt
      · exact lt_trans hlt (h1 q hq)
    · split
      · rename_i he
        subst he
        exact ⟨h, fun q => by simp⟩
      · rename_i hlt he
        refine ⟨List.pairwise_cons.2 ⟨fun q hq => ?_, ih⟩, fun q => by simp only [List.mem_cons, mem]; tauto⟩
        rcases (mem q).1 hq with rfl | hq
        · exact lt_of_le_of_ne (not_lt.1 hlt) fun e => he e.symm
        · exact h1 q hq

/-- An inserted line is driven, and the others stay. -/
theorem mem_insertLine (l m : Nat) : ∀ ms : List Nat, m ∈ insertLine l ms ↔ m = l ∨ m ∈ ms
  | [] => by simp [insertLine]
  | a :: ms => by
    simp only [insertLine]
    split
    · simp
    · split
      · subst l; simp
      · simp only [List.mem_cons, mem_insertLine l m ms]; tauto

/-- A line driven to a level, among the others. -/
theorem mem_driveLine (l m : Nat) (level : Bool) (ms : List Nat) :
    m ∈ driveLine l level ms ↔ if m = l then level = true else m ∈ ms := by
  cases level <;> simp only [driveLine] <;> by_cases h : m = l <;> simp [mem_insertLine, h]

/-- A walk over slots leaves each slot's record as its own update gives it (R143, R152). -/
theorem foldl_modZoneSlot_get (g : Slot → ZoneSlot → ZoneSlot) (k : Slot) : ∀ (l : List Slot) (s : State),
    l.Nodup → (l.foldl (fun t i => modZoneSlot i (g i) t) s).zone.slots.get k
      = if k ∈ l then g k (s.zone.slots.get k) else s.zone.slots.get k
  | [], s, _ => by simp
  | i :: l, s, h => by
    obtain ⟨h1, h2⟩ := List.nodup_cons.1 h
    rw [List.foldl_cons, foldl_modZoneSlot_get g k l _ h2]
    simp only [modZoneSlot, State.modZone, List.mem_cons]
    by_cases e : k = i
    · subst e; simp [h1]
    · simp [e, updAt_ne _ _ _ _ e]

end Sys2Proof.Machine
end

