-- ==== Sys2Proof/Tests/Slice0.lean ====
section
/-! SUPPORT. Tests: the checks of WellFormed on ill-formed commands, values that the manual works out, and
for every statement with hypotheses concrete states and operands that meet them, clause by clause, with
operands at the ends of their ranges. -/

section
open Sys2Proof Sys2Proof.Machine

/-! ### Helpers -/

/-- CP-A's link is UP, CP-A is LIVE and holds authority at epoch 1. -/
def testLive : State :=
  (State.reset.modLink .a fun p => { p with up := true }).modAuth fun a =>
    { a with presence := ⟨.live 2000, .absent⟩, holder := some .a, epoch := 1, claimed := true }

/-- As `testLive`, and CP-B holds authority with this presence. -/
def testPeer (p : Presence) : State :=
  testLive.modAuth fun a => { a with presence := ⟨.live 2000, p⟩, holder := some .b }

/-- A request of CP-A is in execution with this phase, and this many requests wait. -/
def testBusy (phase : Phase) (dropped : Bool) (n : Nat) : State :=
  testLive.modLink .a fun p =>
    { p with current := some ⟨3, 0x44, phase, dropped⟩, queue := List.replicate n ⟨0, 0x05, []⟩ }

/-- A transaction is on the bus. -/
def testOnBus (t : OnBus) (s : State) : State := s.modBus fun b => { b with current := some t }

/-- A zone transaction of CP-A. -/
def testTxn : TxnInfo := ⟨.a, 1, some 0, 0⟩

/-- Zone 7 with 64 members. -/
def testFullZone : Zone := ⟨7, .standard, allPorts.take 64⟩

/-- PEER zone 9 with members 0 and 255. -/
def testPeerZone : Zone := ⟨9, .peer [0], [0, 255]⟩

/-- Staging holds zones 7 and 9 in an OPEN transaction. -/
def testStaged : State :=
  testLive.modZone fun z => { z with txn := .opened testTxn, staging := [testFullZone, testPeerZone] }

/-- A card of this base draw in a slot, in this power state. -/
def testSlot (i : Slot) (base : Nat) (st : SlotPower) (s : State) : State :=
  s.modPower fun p =>
    { p with slots := updAt p.slots i fun r => { r with card := some ⟨1, base, 32⟩, power := st } }

/-- An entitlement of `units` H units with a correct check code for chassis serial 5. -/
def testEntitlement (id : BitVec 32) (units : BitVec 16) : Entitlement :=
  let e : Entitlement := ⟨id, units, 3, 0, 5, 0⟩
  { e with check := crc32 e.head }

/-- The part with the serial read and these entitlements. -/
def testPool (es : List Entitlement) : State :=
  ({ testLive with serial := some 5 }).modLic fun l => { l with table := es }

/-- A CP whose request is taken at once, from what `decide` can see. -/
theorem ready_of {s : State} (up : s.link.a.up = true) (released : s.link.a.resetHeld = false)
    (idle : s.link.a.current = none) (empty : s.link.a.queue = [])
    (audible : s.auth.presence.a ≠ .silent) : Ready .a s :=
  ⟨up, released, idle, empty, audible⟩

/-! ### WellFormed -/

theorem test_wellFormed_refuses_bad_frame :
    (Instr.goodFrame .a [0xA5, 2, 0, 5, 0, 0]).wellFormed = false := by decide +kernel
theorem test_wellFormed_accepts_good_frame :
    (Instr.goodFrame .a (0x00 :: Frame.bytes ⟨4, 0x05, []⟩)).wellFormed = true := by decide +kernel
theorem test_wellFormed_refuses_two_frames :
    (Instr.goodFrame .a (Frame.bytes ⟨4, 0x05, []⟩ ++ Frame.bytes ⟨5, 0x05, []⟩)).wellFormed = false := by
  decide +kernel
theorem test_wellFormed_refuses_handover_count :
    (Instr.writeHandover .a 0 0 2 [1]).wellFormed = false := by decide
theorem test_wellFormed_refuses_handover_length :
    (Instr.writeHandover .a 0 0 63 (List.replicate 63 0)).wellFormed = false := by decide
theorem test_wellFormed_accepts_longest_handover :
    (Instr.writeHandover .a 0 0 62 (List.replicate 62 0)).wellFormed = true := by decide

/-- An answer of 18 bits is refused by every command that carries one, first or again. -/
theorem test_wellFormed_refuses_long_answers :
    let a : Answer := .bits (List.replicate 18 true)
    let ok : Answer := .silent
    ∀ i ∈ [Instr.maintTransactionEnd a ok, .maintTransactionEnd ok a, .loadingWriteEnd a ok,
      .loadingWriteEnd ok a, .activateFieldWriteEnd a ok, .activateFieldWriteEnd ok a,
      .activationStrobeEnd a, .slotActivatePulseEnd a, .scanTransactionEnd a ok,
      .scanTransactionEnd ok a, .heldFieldWriteEnd a ok, .heldFieldWriteEnd ok a, .serialReadEnd a ok,
      .serialReadEnd ok a], i.wellFormed = false := by decide

/-! ### The two check codes: their values over the nine digits -/

theorem test_crc16_of_digits :
    crc16 [0x31, 0x32, 0x33, 0x34, 0x35, 0x36, 0x37, 0x38, 0x39] = 0x29B1 := by decide +kernel
theorem test_crc32_of_digits :
    crc32 [0x31, 0x32, 0x33, 0x34, 0x35, 0x36, 0x37, 0x38, 0x39] = 0xCBF43926 := by decide +kernel

/-! ### Values the manual works out -/

/-- R64: T_in 43, demand 2256 W and eleven GOOD rotors give duty 71 by the temperature term. -/
theorem test_duty_of_the_manual :
    (let good : RotorRec := ⟨.good, 0, 0, 0⟩
     let full : TrayRec := ⟨some 9000, 0, Vector.replicate 4 good⟩
     let last : TrayRec := ⟨some 9000, 0, #v[good, good, good, ⟨.notFitted, 0, 0, 0⟩]⟩
     dutyOf testLive.auth { State.reset.cool with
       tIn := 43, assumed := false, demand := 2256, trays := #v[full, full, last] })
    = ⟨71, .temperature, some 71, some 50⟩ := by decide

/-- R71: a grid-A pair of 2730 and 2730 under GRID gives S 2730, a single GOOD supply 0. -/
theorem test_supply_of_the_manual :
    supplyBudget .grid [⟨.good, 2730⟩, ⟨.good, 2730⟩, ⟨.absent, 0⟩, ⟨.absent, 0⟩] = (2730, true)
    ∧ supplyBudget .grid [⟨.good, 2730⟩, ⟨.absent, 0⟩, ⟨.absent, 0⟩, ⟨.absent, 0⟩] = (0, true) := by
  decide

/-- R39: readings 1, 0, 1 leave an ABSENT record at count 1, and a fourth 1 reports the rise. -/
theorem test_debounce_of_the_manual :
    (let d1 := (Debounce.take (some true) ⟨false, false⟩).1
     let d2 := (Debounce.take (some false) d1).1
     let d3 := (Debounce.take (some true) d2).1
     (d3, (Debounce.take (some true) d3).2)) = (⟨false, true⟩, .riseDue) := by decide

/-- R14: a TAKE OVER with the epoch from before a change is refused STALE and changes nothing. -/
theorem test_stale_take_over :
    (match step (testLive.setPending [.takeOver .a 9 0]) with
     | .next t => decide (t.auth = testLive.auth
        ∧ t.link.a.waiting = [⟨9, 0x04, .stale, [1, 0, 0, 0, 1, 0]⟩])
     | _ => false) = true := by decide

/-! ### Steps, reset and links -/

theorem test_witness_IdleStepPassesAMillisecond :
    State.reset.pending = [] ∧ due State.reset = []
    ∧ due (State.reset.setTime 20) = [.scanMark]
    ∧ due { State.reset with time := 20, lastMark := 20 } = []
    ∧ due (testLive.setTime 2000) = [.scanMark, .heartbeatExpiry]
    ∧ due (testLive.setTime 1999) = []
    ∧ due ((testPeer .absent).setTime 2000) = [.scanMark, .peerDeadlineExpiry .a]
    ∧ due (testSlot 7 1 (.powering 2) (State.reset.setTime 2)) = [.powerGoodDeadlineExpiry 7]
    ∧ (∀ lines, Instr.scanMark ≠ .powerOnReset lines) := by
  refine ⟨by decide, by decide, by decide, by decide, by decide, by decide, by decide, by decide, nofun⟩

theorem test_witness_ResetStateIsSound :
    State.reset.pending = [] ∧ State.reset.link.a.resetHeld = false
    ∧ State.reset.link.b.resetHeld = false := by decide

theorem test_witness_FirstGoodFrameBringsLinkUp :
    (State.reset.link.get .b).up = false ∧ (State.reset.link.get .b).resetHeld = false
    ∧ (State.reset.link.get .b).current = none ∧ (State.reset.link.get .b).queue = []
    ∧ State.reset.auth.presence.get .b = .absent ∧ Request.readTime.fits = true
    ∧ (let s := State.reset.modLink .b fun p => { p with current := some ⟨3, 0x44, .transfer, true⟩ }
       (s.link.get .b).up = false ∧ (s.link.get .b).resetHeld = false ∧ (s.link.get .b).queue = []
       ∧ s.auth.presence.get .b = .absent
       ∧ (s.link.get .b).current = some ⟨3, 0x44, .transfer, true⟩) := by decide

theorem test_witness_HeartbeatRenewsPresence :
    (testLive.link.get .a).up = true ∧ (testLive.link.get .a).resetHeld = false
    ∧ testLive.auth.presence.get .a ≠ .absent := by decide

theorem test_witness_LinksGoDown :
    (let held := State.reset.modLink .a fun p => { p with resetHeld := true }
     let counted (n : Nat) := testLive.modLink .a fun p => { p with badFrames := n }
     (held.link.get .a).resetHeld = true ∧ (held.link.get .a).up = false
     ∧ ∀ n ∈ [6, 7], ((counted n).link.get .a).resetHeld = false
       ∧ ((counted n).link.get .a).up = true ∧ ((counted n).link.get .a).badFrames = n) := by
  decide

theorem test_witness_LinkDownClearsTheCp :
    State.reset.auth.holder ≠ some .a ∧ testLive.auth.holder = some .a := by decide

theorem test_witness_GoodFrameCarriesTheRequest :
    (Request.writeHandover 0 62 (List.replicate 62 0)).fits = true
    ∧ Request.yieldAuthority.holderOnly = true ∧ testLive.auth.holder = some .a
    ∧ (0x00 : Byte) ≠ 0xA5 ∧ (Frame.mk 0 0x08 (List.replicate 253 0)).params.length = 253
    ∧ 2 ≤ (2 : Byte).toNat ∧ ([0, 5, 0] : List Byte).length < (2 : Byte).toNat + 2
    ∧ (1 : Byte).toNat < 2 ∧ ([0, 5] : List Byte).length = (2 : Byte).toNat
    ∧ beNum [0, 0] ≠ (crc16 [2, 0, 5]).toNat := by decide +kernel

/-- R193: idle bytes are skipped, a length byte below 2 spoils its own two bytes alone, a frame with a wrong
CRC-16 is bad, and so is one that the run cuts short. -/
theorem test_received :
    (let f : Frame := ⟨4, 0x05, []⟩
     received ([0x00, 0x5A] ++ f.bytes ++ [0x00] ++ f.bytes) = [some f, some f]
     ∧ received ([0xA5, 1] ++ f.bytes) = [none, some f]
     ∧ received ([0xA5, 2, 0, 5, 0, 0] ++ f.bytes) = [none, some f]
     ∧ received (f.bytes ++ [0xA5]) = [some f, none] ∧ received (f.bytes ++ [0xA5, 2, 0]) = [some f, none]
     ∧ received [0x00, 0x00] = []) := by decide +kernel

theorem test_witness_FramesReadBack :
    (Frame.mk 0 0x08 (List.replicate 253 0)).params.length ≤ 253 := by decide +kernel

theorem test_witness_QueueTakesFourRequests :
    ∀ n ∈ [0, 3, 4],
      let s := testBusy .commit false n
      (s.link.get .a).up = true ∧ (s.link.get .a).resetHeld = false
      ∧ (s.link.get .a).current.isSome = true ∧ (s.link.get .a).queue.length = n
      ∧ (Frame.mk 0 0x99 [1]).code ≠ 0x01 ∧ (Frame.mk 0 0x99 [1]).params.length ≤ 253 := by decide

theorem test_witness_RequestsAreFenced :
    (let silent := testLive.modAuth fun a => { a with presence := ⟨.silent, .absent⟩ }
     Request.yieldAuthority.fits = true ∧ Request.yieldAuthority.holderOnly = true
     ∧ (∀ s ∈ [silent, testPeer .absent, testLive], (s.link.get .a).up = true
        ∧ (s.link.get .a).resetHeld = false ∧ (s.link.get .a).current = none
        ∧ (s.link.get .a).queue = [])
     ∧ silent.auth.presence.get .a = .silent
     ∧ (testPeer .absent).auth.presence.get .a ≠ .silent ∧ (testPeer .absent).auth.holder ≠ some .a
     ∧ testLive.auth.presence.get .a ≠ .silent ∧ testLive.auth.holder = some .a)
    ∧ Request.parse 0x99 [] = none ∧ Request.parse 0x08 [0, 1, 0, 0, 0] = none
    ∧ Request.parse 0x05 [0] = none ∧ (Frame.mk 0 0x01 [0]).params ≠ []
    ∧ (Frame.mk 0 0x99 []).code ≠ 0x01 := by decide

theorem test_ready_of_testLive : Ready .a testLive :=
  ready_of rfl rfl rfl rfl (by decide)

/-- No request of CP-A is in execution, and these frames wait. -/
def testQueue (fs : List Frame) (s : State) : State := s.modLink .a fun p => { p with queue := fs }

theorem test_witness_TransferReadCompletes :
    (∀ n ∈ [0, 4],
      let s := testBusy .transfer false n
      let w := s.modLink .a fun p => { p with waiting := [⟨3, 0x44, .done, []⟩] }
      let d := testBusy .transfer true n
      (∀ x ∈ [s, w], (x.link.get .a).current = some ⟨3, 0x44, .transfer, false⟩)
      ∧ (w.link.get .a).waiting ≠ [] ∧ (s.link.get .a).waiting = []
      ∧ (d.link.get .a).current = some ⟨3, 0x44, .transfer, true⟩
      ∧ (s.link.get .a).current.isSome = true)
    ∧ (∀ f ∈ [Frame.mk 0 0x99 [], ⟨0, 0x03, []⟩, ⟨0, 0x05, []⟩],
      ((testQueue [f, f] testLive).link.get .a).current = none
      ∧ ((testQueue [f, f] testLive).link.get .a).queue = [f, f])
    ∧ (testPeer .absent).auth.presence.get .a ≠ .silent ∧ Request.parse 0x99 [] = none
    ∧ Request.parse 0x03 [] = some .yieldAuthority ∧ Request.yieldAuthority.holderOnly = true
    ∧ (testPeer .absent).auth.holder ≠ some .a ∧ testLive.auth.holder = some .a
    ∧ (testLive.modAuth fun a => { a with presence := ⟨.silent, .absent⟩ }).auth.presence.get .a
        = .silent := by decide

theorem test_witness_responses_leave :
    let r : Response := ⟨3, 0x44, .done, [255]⟩
    let p : LinkPort := { LinkPort.powerOn false with up := true }
    let immediate : LinkPort := { p with immediate := [r], waiting := [r, r], leaving := some r }
    (LinkPort.powerOn false).up = false ∧ p.up = true
    ∧ immediate.advance = { immediate with leaving := some r, immediate := [] }
    ∧ { p with waiting := [r] }.advance = { p with leaving := some r }
    ∧ { p with leaving := some r }.advance = p ∧ p.sends = [0x00]
    ∧ { p with leaving := some r }.sends
        = [0x5A, 0, 4, 3, 0x44, 0, 255] ++ be 2 (crc16 [0, 4, 3, 0x44, 0, 255]).toNat
    ∧ { immediate with current := some ⟨3, 0x44, .transfer, false⟩ }.waiting ≠ []
    ∧ { p with current := some ⟨3, 0x44, .transfer, false⟩, immediate := [r] }.waiting = [] := by
  decide +kernel

/-- R187: at the completion both requests that waited are taken and answered. -/
theorem test_queue_is_taken :
    (match exec (.dataTransferReadComplete .a) (testQueue [⟨1, 0x99, []⟩, ⟨2, 0x07, []⟩]
        (testBusy .transfer false 0)) with
     | .next t => decide (t.link.a.waiting = [⟨1, 0x99, .badParam, []⟩, ⟨2, 0x07, .state, []⟩]
        ∧ t.link.a.queue = [] ∧ t.link.a.current = none)
     | _ => false) = true := by decide

/-! ### Authority -/

/-- A departed record of CP-B with this transaction. -/
def testDeparted (x : Option (Nat × Nat)) (frozen : Bool) (s : State) : State :=
  (s.modAuth fun a => { a with departed := some ⟨.b, 0, .linkLost, 0, x, frozen⟩ }).modZone fun z =>
    { z with txn := if x.isSome then .held testTxn else .closed }

theorem test_witness_ChangeOfHolder :
    State.reset.auth.holder = none ∧ testLive.auth.departed = none
    ∧ testLive.auth.holder = some .a ∧ Cause.yielded.involuntary = false
    ∧ Cause.linkLost.involuntary = true ∧ ownsOpenTxn testLive.zone.txn .a = false
    ∧ testStaged.zone.txn = .opened testTxn ∧ testTxn.owner = .a ∧ testStaged.auth.departed = none
    ∧ (let s := testDeparted (some (2, 66)) true testLive
       ∃ d, s.auth.departed = some d ∧ d.transaction = some (2, 66) ∧ s.zone.txn = .held testTxn
        ∧ s.auth.holder ≠ some d.prior ∧ some Cp.b = some d.prior ∧ (none : Option Cp) ≠ some d.prior) :=
  by
    refine ⟨by decide, by decide, by decide, by decide, by decide,
      by decide, by decide, by decide, by decide, _, rfl, rfl, ?_⟩
    decide

/-- A record of CP-B without a transaction, beside an OPEN one of CP-A; a record with a HELD one. -/
theorem test_witness_departing_holder :
    (let s := testStaged.modAuth fun a => { a with departed := some ⟨.b, 0, .linkLost, 0, none, true⟩ }
     s.auth.holder = some .a ∧ s.zone.txn = .opened testTxn
     ∧ s.auth.departed.map Departed.transaction = some none)
    ∧ ownsOpenTxn (testDeparted none true testLive).zone.txn .a = false
    ∧ (let s := testDeparted (some (2, 66)) true testLive
       s.auth.holder = some .a ∧ s.zone.txn = .held testTxn
       ∧ s.auth.departed = some ⟨Cp.a.peer, 0, .linkLost, 0, some (2, 66), true⟩
       ∧ (s.auth.presence.get .b).isLive = false)
    ∧ ((testPeer (.live 0)).auth.presence.get .b).isLive = true := by decide

theorem test_witness_AuthorityRequestsAreJudged :
    (∀ s ∈ [testLive, testPeer (.live 2000), testPeer .silent,
        testLive.modAuth fun a => { a with holder := none }],
      Ready .a s ∧ s.auth.epoch = 1)
    ∧ (0 : BitVec 32) ≠ testLive.auth.epoch ∧ testLive.auth.holder = some .a
    ∧ (testPeer (.live 2000)).auth.holder = some (Cp.a.peer)
    ∧ (testPeer (.live 2000)).auth.presence.get (Cp.a.peer) = .live 2000
    ∧ (testPeer .silent).auth.presence.get (Cp.a.peer) = .silent := by
  refine ⟨?_, by decide⟩
  intro s h
  simp only [List.mem_cons, List.not_mem_nil, or_false] at h
  rcases h with rfl | rfl | rfl | rfl <;> exact ⟨ready_of rfl rfl rfl rfl (by decide), rfl⟩

theorem test_witness_DeadlinesExpire :
    testLive.auth.presence.get .a = .live 2000 ∧ reached (testLive.setTime 1999).time 2000 = false
    ∧ reached (testLive.setTime 2000).time 2000 = true
    ∧ (testLive.link.get .a).up = true ∧ (testLive.link.get .a).resetHeld = false
    ∧ (testPeer .absent).auth.holder ≠ some .a ∧ testLive.auth.holder = some .a
    ∧ testLive.straps.takeover = true
    ∧ ({ testLive with straps := Straps.ofLines 0x3B }).straps.takeover = false := by decide

/-- CP-A's presence, the holder, and what leaves at once on CP-A's link, after two commands at the deadline. -/
def testTogether (i j : Instr) : Option (Presence × Option Cp × List (List Byte)) :=
  match exec i (testLive.setTime 2000) with
  | .next t =>
    match exec j t with
    | .next u => some (u.auth.presence.a, u.auth.holder, u.link.a.immediate.map Response.results)
    | _ => none
  | _ => none

/-- R5: a HEARTBEAT taken first renews the holder's deadline, and the expiry does nothing; the expiry taken
first moves authority, and the HEARTBEAT then finds SILENT. -/
theorem test_heartbeat_and_expiry :
    testTogether (.heartbeat .a 9) .heartbeatExpiry = some (.live 4000, some .a, [[1, 0, 0, 0, 1, 3, 0, 0]])
    ∧ testTogether .heartbeatExpiry (.heartbeat .a 9)
        = some (.live 4000, none, [[0, 0, 0, 0, 2, 2, 1, 1]]) := by decide +kernel

theorem test_witness_DepartedRecordIsResolved :
    (∀ s ∈ [testLive, testDeparted none true testLive, testDeparted (some (2, 66)) true testLive],
      Ready .a s ∧ s.auth.holder = some .a)
    ∧ testLive.auth.departed = none
    ∧ (testDeparted none true testLive).auth.departed = some ⟨.b, 0, .linkLost, 0, none, true⟩
    ∧ (testDeparted (some (2, 66)) true testLive).auth.departed
        = some ⟨.b, 0, .linkLost, 0, some (2, 66), true⟩
    ∧ (testDeparted (some (2, 66)) true testLive).zone.txn = .held testTxn := by
  refine ⟨?_, by decide⟩
  intro s h
  simp only [List.mem_cons, List.not_mem_nil, or_false] at h
  rcases h with rfl | rfl | rfl <;> exact ⟨ready_of rfl rfl rfl rfl (by decide), rfl⟩

/-- CP-B's words are the frozen ones, and CP-B asks. -/
theorem test_witness_HandoverWordsAreKept :
    (let s := (testDeparted none true testLive).modLink .b fun p => { p with up := true }
     Ready .b s ∧ isFrozen s.auth .b = true ∧ isFrozen s.auth .a = false)
    ∧ handoverFits 0 [] = true ∧ handoverFits 16 (List.replicate 16 0) = true
    ∧ handoverFits 1 [0] = true ∧ (0 : Byte).toNat + (16 : Byte).toNat = 16
    ∧ (15 : Byte).toNat + (1 : Byte).toNat = 16 ∧ 16 < (16 : Byte).toNat + (1 : Byte).toNat
    ∧ cpOf 0 = none ∧ cpOf 3 = none ∧ cpOf 1 = some .a ∧ cpOf 2 = some .b :=
  ⟨⟨⟨rfl, rfl, rfl, rfl, by decide⟩, by decide, by decide⟩, by decide⟩

/-! ### Reads -/

theorem test_witness_ReadsLeaveTheRecords :
    Ready .a testLive ∧ AlarmClass.psuFault.number = 1 ∧ AlarmClass.historyHalf.number = 20
    ∧ 20 < (21 : Byte).toNat ∧ AlarmClass.licenseRevoked.count = 256
    ∧ (256 : BitVec 16).toNat ≤ AlarmClass.licenseRevoked.count
    ∧ AlarmClass.licenseRevoked.count < (257 : BitVec 16).toNat
    ∧ (1 : Byte).toNat = (0 : Tray).val + 1 ∧ (3 : Byte).toNat = (2 : Tray).val + 1
    ∧ 3 < (4 : Byte).toNat ∧ (8 : Byte).toNat = (7 : Slot).val + 1 ∧ 8 < (9 : Byte).toNat
    ∧ (31 : Byte).toNat = (31 : Fin 32).val ∧ 31 < (32 : Byte).toNat ∧ (0 : Byte).toNat = 0
    ∧ AlarmClass.psuFault.kind = .condition ∧ AlarmClass.historyHalf.kind = .event
    ∧ (condRow? testLive.alarm .psuFault 4).isSome ∧ (eventRow? testLive.alarm .historyHalf 2).isSome :=
  ⟨test_ready_of_testLive, by decide⟩

theorem test_witness_TransferReadsStayInExecution :
    Ready .a testLive ∧ (255 : BitVec 16).toNat ≤ 255 ∧ 255 < (256 : BitVec 16).toNat
    ∧ levelOf 1 = some .staging ∧ levelOf 3 = some .active ∧ levelOf 0 = none ∧ levelOf 4 = none
    ∧ (63 : Byte).toNat ≤ 63 ∧ 63 < (64 : Byte).toNat ∧ (1 : Byte).toNat ≤ 1 ∧ 1 < (2 : Byte).toNat
    ∧ (0 : Byte).toNat + (32 : Byte).toNat ≤ 32 ∧ 32 < (1 : Byte).toNat + (32 : Byte).toNat
    ∧ (1 : Byte).toNat = (1 : Fin 2).val ∧ (0 : Byte).toNat = 0
    ∧ (testStaged.zone.staging.find? fun y => (9 : BitVec 16).toNat ≤ y.number.val) = some testPeerZone
    ∧ (∀ y ∈ testStaged.zone.staging, y.number.val < (10 : BitVec 16).toNat) :=
  ⟨test_ready_of_testLive, by decide⟩

/-! ### The line bus -/

/-- CP-A's maintenance field is the whole maintenance range. -/
def testField : State := testLive.modBus fun b => { b with maint := ⟨⟨3072, 1024⟩, ⟨3072, 0⟩⟩ }

theorem test_witness_MaintenanceFieldIsSet :
    (let silent := testLive.modAuth fun a => { a with presence := ⟨.silent, .absent⟩ }
     (silent.link.get .a).up = true ∧ (silent.link.get .a).resetHeld = false
     ∧ (silent.link.get .a).current = none ∧ (silent.link.get .a).queue = []
     ∧ silent.auth.presence.get .a = .silent ∧ (testPeer .absent).auth.holder ≠ some .a
     ∧ testLive.auth.holder = some .a ∧ testLive.auth.presence.get .a ≠ .silent)
    ∧ (3072 : BitVec 16).toNat + (1024 : BitVec 16).toNat = 4096
    ∧ (4095 : BitVec 16).toNat + (1 : BitVec 16).toNat = 4096
    ∧ (3071 : BitVec 16).toNat < 3072 ∧ 4095 < (4096 : BitVec 16).toNat
    ∧ 1024 < (1025 : BitVec 16).toNat ∧ (2 : Byte).toNat = cpNumber .b
    ∧ (0 : Byte).toNat ≠ 1 ∧ (3 : Byte).toNat ≠ 2 := by decide

theorem test_witness_LineBusRequests_joining :
    Ready .a testField ∧ (1023 : BitVec 16).toNat < (testField.bus.maint.get .a).length
    ∧ (testField.bus.maint.get .a).length ≤ (1024 : BitVec 16).toNat
    ∧ (1008 : BitVec 16).toNat + 16 = (testField.bus.maint.get .a).length
    ∧ (testField.bus.maint.get .a).length < (1009 : BitVec 16).toNat + 16
    ∧ 16 < (17 : Byte).toNat ∧ fieldFits 3056 16 = true ∧ fieldFits 3071 1 = true
    ∧ fieldFits 3057 16 = false ∧ fieldFits 255 2 = false ∧ fieldFits 255 1 = true
    ∧ 3071 < (3072 : BitVec 16).toNat :=
  ⟨ready_of rfl rfl rfl rfl (by decide), by decide⟩

theorem test_witness_LineBusRequests_ending :
    ∀ dropped, ∀ n ∈ [0, 4],
      let s := testOnBus ⟨.maint .a, .read 3072 16⟩ (testBusy (.lineBus .fieldRead 3072 16) dropped n)
      s.bus.current = some ⟨.maint .a, .read 3072 16⟩
      ∧ (s.link.get .a).current = some ⟨3, 0x44, .lineBus .fieldRead 3072 16, dropped⟩
      ∧ (s.link.get .a).queue.length = n := by decide

/-- Line 3072, one line: the bits sent hold 1s at address bits 11 and 10 and in the count. -/
theorem test_witness_TransactionsEnd :
    ([true].length = 1 ∧ (fieldHead 3072 1 false ++ ([true] ++ [true])).countP id % 2 = 1)
    ∧ ¬ ((fieldHead 3072 1 false ++ ([true] ++ [false])).countP id % 2 = 1)
    ∧ (Txn.read 2944 1).first = 2944 ∧ (Txn.test 3071).first = 3071 ∧ 2943 < 2944 ∧ 3071 < 3072 := by
  decide

theorem test_driven_lines :
    driveTxn (.write 4095 1 1) [7] = [7, 4095] ∧ driveTxn (.write 8 2 1) [7, 8, 9] = [7, 8]
    ∧ driveTxn (.clear 7) [7, 8] = [8] ∧ Owner.returns .strobe = true
    ∧ Owner.returns (.loading 0 true) = false := by decide

/-- R32: nobody answers on lines 2944 to 3071, whatever the answer says; on the lines beside them one does. -/
theorem test_unpopulated_lines :
    busEnd (.test 2944) (.bits [true]) .silent = .noResponse
    ∧ busEnd (.test 3071) (.bits [true]) .silent = .noResponse
    ∧ busEnd (.test 2943) (.bits [true]) .silent = .done 1
    ∧ busEnd (.test 3072) (.bits [true]) .silent = .done 1 := by decide

/-- The bus is free, with these entries and this grant count. -/
def testFree (es : List Class1) (w : Option LoadWrite) (ms : List (Cp × Txn)) (scan : Bool) (n : Nat) :
    State :=
  testLive.modBus fun b =>
    { b with current := none, class1 := es, class2 := w, class3 := ms, class4 := scan, grants := n }

theorem test_witness_ArbiterGrants :
    State.reset.bus.current.isSome = true
    ∧ (let s := testFree [] none [] true 16
       s.bus.current = none ∧ s.bus.grants = 16 ∧ s.bus.class4 = true ∧ (scanGrant s).isSome)
    ∧ (let s := testFree [.strobe, .held (.duty 0)] none [] true 15
       s.bus.current = none ∧ s.bus.grants ≠ 16 ∧ Class1.strobe.due s.bus = true
       ∧ (Class1.held (.duty 0)).due s.bus = false)
    ∧ (let w : LoadWrite := ⟨0, .set 464⟩
       let s := testFree [] (some w) [] false 16
       s.bus.class1 = [] ∧ s.bus.class2 = some w ∧ s.bus.class4 = false)
    ∧ (let s := testFree [] none [(.b, .test 3072), (.a, .test 3073)] false 0
       s.auth.holder = some .a ∧ (Cp.b, Txn.test 3072).1 ≠ Cp.a)
    ∧ (testFree [] none [(.a, .test 3072), (.b, .test 3073)] false 0).auth.holder ≠ some .b
    ∧ (testFree [] none [] false 0).bus.class4 = false := by decide

theorem test_witness_HeldFieldsAreWritten :
    Class1.held (.duty 2) ∈ (testFree [.held (.duty 2)] none [] false 0).bus.class1
    ∧ Class1.held .indicator ∉ testLive.bus.class1
    ∧ (255 : Port).val = 32 * (7 : Slot).val + 16 * (1 : Fin 2).val + (15 : Fin 16).val
    ∧ (255 : Port).val = 32 * (7 : Slot).val + 8 * (3 : Fin 4).val + (7 : Fin 8).val
    ∧ (testOnBus ⟨.held (.duty 0), .write 2656 7 100⟩ testLive).bus.current
        = some ⟨.held (.duty 0), .write 2656 7 100⟩ := by decide

/-! ### The scan -/

theorem test_witness_ScanMarkStartsAPass :
    (let mark (s : State) : Prop := 20 ≤ s.time.toNat ∧ s.time.toNat % 20 = 0 ∧ s.lastMark ≠ s.time
     let s := (testLive.modBus fun b => { b with scan := .idle }).setTime 20
     mark s ∧ s.bus.scan = .idle ∧ s.serial = none ∧ ({ s with serial := some 5 }).serial = some 5
     ∧ mark { s with serial := some 5 } ∧ mark (State.reset.setTime 20)
     ∧ (State.reset.setTime 20).bus.scan ≠ .idle
     ∧ ¬ mark State.reset ∧ ¬ mark (s.setTime 19) ∧ ¬ mark { s with lastMark := 20 }) := by decide

theorem test_reset_portsPowered : State.reset.portsPowered := fun p h =>
  absurd (show (Vector.replicate 256 PortPower.off).get p = .off by simp [Vector.get]) h

theorem test_witness_PresenceIsDebounced :
    (State.reset.portsPowered ∧ State.reset.lic.consistent)
    ∧ (State.reset.slotRec 7).admin = true
    ∧ ((modSlot 7 (fun r => { r with admin := false }) State.reset).slotRec 7).admin = false
    ∧ BusEnd.noResponse.data = none ∧ portSlot 255 = 7 ∧ (6 : Slot) ≠ 7
    ∧ ((testSlot 7 500 .powered testLive).slotRec 7).power.drawing = true
    ∧ ((testSlot 7 500 .off testLive).slotRec 7).power.drawing = false :=
  ⟨⟨test_reset_portsPowered, by decide, by decide⟩, by decide⟩

/-- The scan is at this entry, its transaction on the bus, with the start-pending flag so. -/
def testScan (st : ScanStep) (x : Txn) (again : Bool) : State :=
  testOnBus ⟨.scan, x⟩ (testLive.modBus fun b => { b with scan := .pass st, startPending := again })

/-- Slot 1 waits for its acknowledgement of generation 2: of the main distribution, or of a catch-up. -/
def testAwaiting (catchUp : Bool) : State :=
  (modZoneSlot 0 (fun r => { r with
      status := if catchUp then none else some .awaitAck, ackDeadline := some 200 }) testLive).modZone
    fun z => { z with
      pending := some ⟨[], 2⟩, active := ⟨[], 2⟩, catchUpSlot := if catchUp then some 0 else none }

theorem test_witness_ScanTransactionEnds :
    (let s := testScan (.sensor 0) (.read 72 9) false
     s.bus.current = some ⟨.scan, .read 72 9⟩ ∧ s.bus.scan = .pass (.sensor 0)
     ∧ s.bus.startPending = false)
    ∧ (testScan (.rewrite .indicator []) (.write 128 4 0) true).bus.startPending = true
    ∧ testLive.serial = none ∧ (testPool []).serial ≠ none
    ∧ BusEnd.noResponse.data = none ∧ BusEnd.parity.data = none
    ∧ (7 : Slot).val = (6 : Slot).val + 1 ∧ (3 : Bay).val = (2 : Bay).val + 1
    ∧ (2 : Tray).val = (1 : Tray).val + 1 ∧ (3 : Rotor).val = (2 : Rotor).val + 1
    ∧ rewriteList State.reset.bus = [.indicator]
    ∧ (let s := testAwaiting false
       s.zone.catchUpSlot ≠ some 0 ∧ (s.zone.slots.get 0).status = some .awaitAck
       ∧ (2 : BitVec 16) = pendingGeneration s.zone ∧ (3 : BitVec 16) ≠ pendingGeneration s.zone)
    ∧ (let s := testAwaiting true
       s.zone.catchUpSlot = some 0 ∧ (s.zone.slots.get 0).ackDeadline ≠ none
       ∧ (2 : BitVec 16) = s.zone.active.generation ∧ (3 : BitVec 16) ≠ s.zone.active.generation)
    ∧ (let b := (putSlotSeen 7 risen (putTraySeen 2 risen testLive)).bus
       (b.slotSeen.get 7).present = true ∧ (b.traySeen.get 2).present = true) := by decide

/-- R79: the slot that its rise admits is POWERING at the end of its pass, power-good 1 or not. -/
theorem test_rise_keeps_powering :
    (let st : ScanStep := .slotIdentity 0 false [some 1, some 0]
     let s := (testLive.modBus fun b => { b with scan := .pass st }).modCool fun c => { c with settled := true }
     ((scanStepEnded st (.done 8) s).slotRec 0).power)
    = .powering 1000 := by decide +kernel

theorem test_witness_SerialIsReadInFourPieces :
    State.reset.bus.current = some ⟨.serial, .read 0 16⟩ ∧ State.reset.bus.scan = .serial [] false
    ∧ busEnd (.read 0 16) .silent .silent = .noResponse
    ∧ busEnd (.read 0 16) (.bits (List.replicate 16 false ++ [true])) .silent = .done 0
    ∧ (State.reset.modBus fun b => { b with scan := .serial [1, 2, 3] true }).bus.scan
        = .serial [1, 2, 3] true := by decide

/-! ### Cooling -/

theorem test_witness_UsableOutputOfASupply :
    SupplyState.failed ≠ .good ∧ (6000 : Nat) ≤ 6000 ∧ (40 : Int) ≤ 40
    ∧ usableOf .good (some ⟨6000, .highLine⟩) 41 = 5820
    ∧ usableOf .good (some ⟨6000, .highLine⟩) 74 = 0 := by decide

theorem test_witness_SensorsAndRotorsAreJudged :
    (let sensors (v w : Bool) (m n : Nat) : Vector Sensor 2 := #v[⟨40, v, m⟩, ⟨41, w, n⟩]
     ∀ v w, (sensors v w 4 3).toList = [⟨40, v, 4⟩, ⟨41, w, 3⟩])
    ∧ 2 * 3149 < 9000 * 70 / 100 ∧ ¬ 2 * 3150 < 9000 * 70 / 100
    ∧ reached 2000 2000 = true ∧ reached 1999 2000 = false
    ∧ (let x : TrayRec := ⟨some 9000, 2000, Vector.replicate 4 RotorRec.bare⟩
       let c := { State.reset.cool with trays := Vector.replicate 3 x }
       (c.trays.get 2).maximum = some 9000 ∧ (c.trays.get 2).settle = 2000)
    ∧ (State.reset.cool.supplies.get 3).state = .absent ∧ SupplyState.absent ≠ .good
    ∧ (let s := testLive.modCool fun c => { c with supplies := Vector.replicate 4 ⟨.good, none, 0⟩ }
       (s.cool.supplies.get 3).state = .good)
    ∧ (∀ n ∈ [0, 1], min 3 (n + 1) < 3) ∧ (∀ n ∈ [2, 3], min 3 (n + 1) = 3)
    ∧ State.reset.cool.settled = false
    ∧ (condRow? State.reset.alarm .slotFault 8).isSome ∧ AlarmClass.slotFault.count = 8
    ∧ (let r : RotorRec := ⟨.good, 0, 2, 0⟩
       let c := { State.reset.cool with trays := Vector.replicate 3 ⟨some 9000, 0, Vector.replicate 4 r⟩ }
       (rotorAfter c 0 2 3 9000).fit = .good ∧ (rotorAfter c 0 2 3 0).fit = .failed) := by decide

/-- T_in with its flag: both held at first, the flag alone changed by a sensor that reads the value held, and
T_in changed by another value. -/
theorem test_witness_inlet_temperature :
    let read (v : Int) := (sensorReading 0 (some (v, false)) State.reset).cool
    formTIn State.reset.cool = (State.reset.cool.tIn, State.reset.cool.assumed)
    ∧ formTIn (read 50) = (50, false) ∧ (read 50).tIn = 50 ∧ (read 50).assumed = true
    ∧ formTIn (read (-128)) = (-128, false) ∧ (read (-128)).tIn ≠ -128 := by decide +kernel

/-- Twelve GOOD rotors at an inlet temperature and a demand. -/
def testCooling (tIn : Int) (demand : Nat) : Cooling :=
  { State.reset.cool with
    tIn := tIn, assumed := false, demand := demand
    trays := Vector.replicate 3 ⟨some 9000, 0, Vector.replicate 4 ⟨.good, 9000, 0, 0⟩⟩ }

theorem test_witness_DutyIsFormed :
    State.reset.auth.claimed = false ∧ testLive.auth.claimed = true ∧ State.reset.cool.assumed = true
    ∧ (55 : Int) ≤ (testCooling 55 0).tIn ∧ ¬ (55 : Int) ≤ (testCooling 54 0).tIn
    ∧ goodRotors (testCooling 54 0) = 12
    ∧ (dutyOf testLive.auth (testCooling 54 0)).reason = .temperature
    ∧ (dutyOf testLive.auth (testCooling 25 5220)).reason = .load
    ∧ (dutyOf testLive.auth (testCooling 25 0)).reason = .minimum
    ∧ (dutyOf { testLive.auth with holder := none } (testCooling 25 0)).reason = .noHolder := by
  decide

theorem test_witness_DutyChangesAreWritten :
    (dutyOf State.reset.auth State.reset.cool).value = State.reset.cool.duty
    ∧ (let s := testLive.modCool fun _ => testCooling 25 0
       (dutyOf s.auth s.cool).value ≠ s.cool.duty) := by decide

theorem test_witness_StepsKeepTheFans :
    State.reset.fansKept ∧ ∃ t, step State.reset = .next t :=
  ⟨⟨by decide, by decide, fun _ => by decide⟩, _, rfl⟩

/-! ### Power -/

theorem test_witness_BudgetIsFormed :
    (let good : BayInput := ⟨.good, 2730⟩
     let none_ : BayInput := ⟨.absent, 0⟩
     (good.state = .good ∧ none_.state ≠ .good)
     ∧ 2 ≤ [good, good, none_, none_].countP (fun b => b.state = .good)
     ∧ ¬ 2 ≤ [good, none_, none_, none_].countP (fun b => b.state = .good)
     ∧ (#v[good, none_, good, none_] : Vector BayInput 4).toList = [good, none_, good, none_])
    ∧ ∀ p : Policy, ({ State.reset.power with policy := p }).policy = p :=
  ⟨by decide, fun _ => rfl⟩

theorem test_reset_budgetKept : State.reset.budgetKept := by
  refine ⟨fun i => ⟨?_, ?_, fun _ _ h => ?_⟩, ?_, ?_, ?_⟩
  · revert i; decide
  · revert i; decide
  · cases h
  · exact test_reset_portsPowered
  · decide
  · decide

/-- The part with this available budget, and port 255 in this state. -/
def testPower (avail : Nat) (st : PortPower) (s : State) : State :=
  s.modPower fun p => { p with avail := avail, ports := updAt p.ports 255 fun _ => st }

theorem test_witness_RecomputeFitsTheBudget :
    (State.reset.slotsAgree ∧ State.reset.portsPowered ∧ ∀ i, (State.reset.slotRec i).priority ≤ 3)
    ∧ shedOrder (testSlot 2 500 .powered (testSlot 6 1 (.powering 0) testLive)).power = [6, 2]
    ∧ admitOrder (testSlot 2 500 (.denied .shed) (testSlot 6 1 (.denied .waiting) testLive)).power = [2, 6]
    ∧ heldPorts (testPower 0 (.held .m) testLive).power = [255]
    ∧ (let u := (testSlot 7 500 .powered testLive).modPower formBudget
       u.power.avail < demand u.power)
    ∧ (let u := testLive.modPower formBudget
       demand u.power ≤ u.power.avail)
    ∧ (let s := testPower 100 (.held .m) (testSlot 7 100 (.denied .waiting) testLive)
       demand s.power + (s.slotRec 7).base ≤ s.power.avail
       ∧ demand s.power + PortClass.draw .m ≤ s.power.avail)
    ∧ (let s := testPower 5 (.held .m) (testSlot 7 100 (.denied .waiting) testLive)
       s.power.avail < demand s.power + (s.slotRec 7).base
       ∧ s.power.avail < demand s.power + PortClass.draw .m) :=
  ⟨⟨test_reset_budgetKept.1, test_reset_budgetKept.2.1, test_reset_budgetKept.2.2.1⟩, by decide +kernel⟩

theorem test_witness_StepsKeepTheBudget :
    State.reset.budgetKept ∧ ∃ t, step State.reset = .next t :=
  ⟨test_reset_budgetKept, _, rfl⟩

theorem test_witness_LeavingPowerDropsTheDraw :
    SlotPower.off.drawing = false ∧ SlotPower.empty ≠ .off
    ∧ (let s := (testSlot 7 500 .powered testLive).modPower fun p =>
         { p with ports := updAt p.ports 255 fun _ => .enabled .h }
       portSlot 255 = 7 ∧ (s.power.ports.get 255).isEnabled = true ∧ slotDraw s.power 7 = 509)
    ∧ ((testSlot 7 500 .powered testLive).slotRec 7).power = .powered
    ∧ ((testSlot 7 500 (.powering 9) testLive).slotRec 7).power ≠ .powered := by
  decide

/-- R83 and R146: a POWERED slot that leaves POWERED while its activate pulse waits: the pulse is withdrawn,
and its power enable is to be written. -/
theorem test_slot_leaves :
    (let s := (testSlot 7 500 .powered testLive).modBus fun b => { b with class1 := [.slotActivate 7] }
     (leavePower 7 .off s).bus.class1) = [.held (.powerEnable 7)] := by decide

theorem test_witness_PowerRequestsAreJudged :
    Ready .a testLive ∧ testLive.auth.holder = some .a ∧ policyOf 0 = none ∧ policyOf 4 = none
    ∧ policyOf 2 = some testLive.power.policy ∧ policyOf 3 = some .grid
    ∧ Policy.grid ≠ testLive.power.policy
    ∧ (8 : Byte).toNat = (7 : Slot).val + 1 ∧ (1 : Byte).toNat = (0 : Slot).val + 1
    ∧ 8 < (9 : Byte).toNat ∧ 3 < (4 : Byte).toNat ∧ (testLive.slotRec 0).priority = (2 : Byte).toNat
    ∧ (testLive.slotRec 0).priority ≠ (3 : Byte).toNat :=
  ⟨test_ready_of_testLive, by decide⟩

theorem test_witness_PowerGoodDecidesTheSlot :
    ((testSlot 0 100 (.powering 1000) testLive).slotRec 0).power = .powering 1000
    ∧ reached ((testSlot 0 100 (.powering 1000) testLive).setTime 1000).time 1000 = true
    ∧ reached ((testSlot 0 100 (.powering 1000) testLive).setTime 999).time 1000 = false
    ∧ ((testSlot 7 100 .powered testLive).slotRec 7).power = .powered
    ∧ (State.reset.slotRec 3).power = .empty
    ∧ ((testSlot 0 100 (.denied .shed) testLive).slotRec 0).power = .denied .shed
    ∧ (let s := testPower 104 (.enabled .s) (testSlot 7 100 .powered testLive)
       s.power.ports.get 255 = .enabled .s
       ∧ (s.power.ports.get 255).isEnabled = PortPower.isEnabled (.enabled .h)
       ∧ (s.power.ports.get 255).isEnabled ≠ PortPower.isEnabled .off
       ∧ s.isPowered (portSlot 255) = true ∧ s.isPowered (portSlot 0) = false
       ∧ (s.lic.ports.get 255).up = false
       ∧ ((modPort 255 (fun _ => ⟨true, .h⟩) s).lic.ports.get 255).up = true
       ∧ s.power.avail < demand s.power + (PortClass.draw .m - PortClass.draw .s)
       ∧ PortClass.draw .s < PortClass.draw .m)
    ∧ (let s := testPower 106 (.enabled .s) (testSlot 7 100 .powered testLive)
       demand s.power + (PortClass.draw .m - PortClass.draw .s) ≤ s.power.avail)
    ∧ (let s := testPower 106 (.held .s) (testSlot 7 100 .powered testLive)
       s.power.ports.get 255 = .held .s ∧ demand s.power + PortClass.draw .m ≤ s.power.avail
       ∧ ¬ demand s.power + PortClass.draw .h ≤ s.power.avail ∧ s.power.ports.get 0 = .off) := by decide

/-! ### Licenses -/

theorem test_witness_EntitlementsAreJudged :
    (let e := testEntitlement 1 768
     let full := testPool (List.replicate 16 (testEntitlement 2 1))
     (∀ s ∈ [testLive, testPool [], testPool [e], full], Ready .a s ∧ s.auth.holder = some .a)
     ∧ e.check = crc32 e.head ∧ (testPool []).serial = some e.serial ∧ testLive.serial ≠ some e.serial
     ∧ e.flags.toNat = 0 ∧ 768 < (769 : BitVec 16).toNat ∧ 3 < (4 : Byte).toNat
     ∧ (∃ x ∈ (testPool [e]).lic.table, x.id = e.id)
     ∧ ¬ (∃ x ∈ full.lic.table, x.id = e.id) ∧ 16 ≤ full.lic.table.length
     ∧ (testPool []).lic.table.length < 16) := by
  refine ⟨?_, by decide +kernel⟩
  intro s h
  simp only [List.mem_cons, List.not_mem_nil, or_false] at h
  rcases h with rfl | rfl | rfl | rfl <;> exact ⟨ready_of rfl rfl rfl rfl (by decide), rfl⟩

/-- A pool of 3 units at ceiling M, ports 0 and 1 granted at H, port 2 waiting. -/
def testGranted : State :=
  testLive.modLic fun l =>
    { l with
      table := [⟨1, 3, 2, 0, 5, 0⟩], grants := [⟨0, .h⟩, ⟨1, .h⟩], waiting := [2] }

theorem test_witness_LicensesAreTakenBack :
    (testGranted.lic.grants.map Grant.port ++ testGranted.lic.waiting).Nodup
    ∧ ceilingOf testGranted.lic = some .m
    ∧ ceilingCode testGranted.lic < ceilingCode (testPool [testEntitlement 1 3]).lic
    ∧ ceilingOf testLive.lic = none ∧ ceilingCode testGranted.lic ≤ ceilingCode testGranted.lic
    ∧ (revoke testGranted.lic.grants.reverse testGranted).2 = [1] := by decide

theorem test_witness_QueueIsServedFromItsHead :
    (let s := testGranted.modLic fun l => { l with grants := [], waiting := [2, 1] }
     (s.lic.grants.map Grant.port ++ s.lic.waiting).Nodup ∧ grantedUnits s.lic ≤ poolTotal s.lic
     ∧ effectiveClass s.lic 2 = some .s) := by decide

/-- The clauses on the pool, on a rise and a loss, on the class field and on the deadlines at a pass completion:
a ceiling of each kind; a port of slot 1 that asks at a rise; ports granted, waiting and neither at a loss; an
ACK deadline before and after it is reached, of the distribution and of a catch-up. -/
theorem test_witness_license_parts :
    (testGranted.lic.table ≠ [] ∧ ceilingOf testGranted.lic = some .m
      ∧ ∀ e ∈ testGranted.lic.table, 1 ≤ e.ceiling.toNat ∧ e.ceiling.toNat ≤ 3)
    ∧ ceilingOf State.reset.lic = none ∧ effectiveClass State.reset.lic 0 = none
    ∧ (let s := modPort 31 (fun _ => ⟨true, .h⟩) (testSlot 0 10 .powered testLive)
       (s.lic.ports.get 31).up = true ∧ s.portExists 31 = true ∧ licenseState s.lic 31 = .none)
    ∧ licenseState testGranted.lic 1 = .granted .h ∧ licenseState testGranted.lic 2 = .waiting
    ∧ licenseState testGranted.lic 3 = .none
    ∧ (255 : Port).val / 32 = (7 : Slot).val ∧ (255 : Port).val % 32 / 8 = (3 : Fin 4).val
    ∧ ((testAwaiting false).zone.slots.get 0).ackDeadline = some 200
    ∧ ((testAwaiting false).zone.slots.get 1).ackDeadline = none
    ∧ reached 199 200 = false ∧ reached 200 200 = true
    ∧ (testAwaiting false).zone.catchUpSlot ≠ some 0 ∧ (testAwaiting true).zone.catchUpSlot = some 0 := by
  decide +kernel

/-- Each of the four changes that have the queue served, and none of them. -/
theorem test_witness_serving :
    let l := testGranted.lic
    let one : License := { l with table := [⟨1, 768, 1, 0, 5, 0⟩], grants := [⟨0, .s⟩] }
    freeUnits l < freeUnits one ∧ ceilingCode one < ceilingCode l
    ∧ (∃ p rest, l.waiting = p :: rest ∧ p ∉ ({ l with waiting := [255] } : License).waiting)
    ∧ mustServe { l with ports := updAt l.ports 2 fun _ => ⟨true, .h⟩ } l = true
    ∧ mustServe l l = false
    ∧ (takeAll [.release 0] (testPower 0 (.enabled .h) testGranted)).2 = false
    ∧ (takeAll [.release 255] (testPower 0 (.enabled .h) testGranted)).2 = true :=
  ⟨by decide +kernel, by decide, ⟨2, [], rfl, by decide⟩, by decide +kernel, by decide +kernel,
    by decide +kernel, by decide +kernel⟩

theorem test_witness_PortAdminHandlesItsMask :
    Ready .a testLive ∧ 31 < (32 : Byte).toNat ∧ (31 : Byte).toNat = (31 : Fin 32).val
    ∧ portActionOf 0 = none ∧ classOf 4 = none ∧ (2 : Byte).toNat = (if false then 1 else 2)
    ∧ (3 : Byte).toNat = PortClass.h.code :=
  ⟨test_ready_of_testLive, by decide⟩

theorem test_witness_PortAdmin_ports :
    (let s := testSlot 0 100 .powered testGranted
     licenseState s.lic 255 = .none ∧ s.portExists 255 = false
     ∧ licenseState s.lic 31 = .none ∧ s.portExists 31 = true
     ∧ ceilingOf s.lic = some .m ∧ s.lic.waiting ≠ [] ∧ licenseState s.lic 2 = .waiting
     ∧ licenseState s.lic 0 = .granted .h ∧ (PortClass.h.smaller .m).weight < PortClass.h.weight
     ∧ ceilingOf testLive.lic = none)
    ∧ (let s := testGranted.modLic fun l => { l with grants := [⟨0, .s⟩], waiting := [] }
       licenseState s.lic 0 = .granted .s ∧ s.lic.waiting = []
       ∧ PortClass.s.weight < (PortClass.h.smaller .m).weight
       ∧ (PortClass.h.smaller .m).weight - PortClass.s.weight ≤ freeUnits s.lic
       ∧ PortClass.m.weight ≤ freeUnits s.lic) := by decide

theorem test_witness_StepsKeepTheLicenses :
    State.reset.lic.consistent ∧ ∃ t, step State.reset = .next t :=
  ⟨⟨by decide, by decide⟩, _, rfl⟩

/-! ### Zones -/

/-- A zone transaction in this state. -/
def testZoning (t : ZoneTxn) (m : EngineState) : State :=
  testLive.modZone fun z => { z with txn := t, main := m }

theorem test_witness_ZoneTransactionsAreJudged :
    (∀ t m, Ready .a (testZoning t m) ∧ (testZoning t m).auth.holder = some .a
      ∧ (testZoning t m).zone.txn = t ∧ (testZoning t m).zone.main = m)
    ∧ (0 : Byte).toNat ≠ 1 ∧ (3 : Byte).toNat ≠ 2 ∧ 1 < (2 : Byte).toNat
    ∧ (1 : Byte).toNat = true.toNat ∧ (0 : Byte).toNat = false.toNat :=
  ⟨fun _ _ => ⟨ready_of rfl rfl rfl rfl (nomatch ·), rfl, rfl, rfl⟩, by decide⟩

theorem test_witness_ZoneEditsAreJudged :
    (Ready .a testStaged ∧ testStaged.auth.holder = some .a ∧ testStaged.zone.txn = .opened testTxn)
    ∧ notOpen .closed = some .state ∧ notOpen (.computing testTxn true) = some .busy
    ∧ 255 < (256 : BitVec 16).toNat ∧ (255 : BitVec 16).toNat = (255 : Fin 256).val
    ∧ zoneAt testStaged.zone.staging 7 = some testFullZone
    ∧ zoneAt testStaged.zone.staging 9 = some testPeerZone
    ∧ zoneAt testStaged.zone.staging 255 = none
    ∧ testFullZone.isPeer = false ∧ testPeerZone.isPeer = true
    ∧ testFullZone.members.contains 64 = false ∧ testFullZone.members.length = 64
    ∧ testPeerZone.members.contains 255 = true ∧ testPeerZone.members.contains 1 = false
    ∧ principalOf 2 = some .principal ∧ 3 < (4 : Byte).toNat
    ∧ (9 : BitVec 16).toNat = (9 : Fin 256).val
    ∧ (∀ t ∈ [ZoneTxn.closed, .held testTxn, .computing testTxn true],
      (testStaged.modZone fun z => { z with txn := t }).zone.txn = t
      ∧ zoneAt (testStaged.modZone fun z => { z with txn := t }).zone.staging 9 = some testPeerZone) :=
  ⟨⟨ready_of rfl rfl rfl rfl (by decide), rfl, rfl⟩, by decide⟩

theorem test_witness_zone_tables :
    let tbl : ZoneTable := [⟨0, .standard, [0]⟩, ⟨255, .peer [], []⟩]
    (tbl.Pairwise fun a b => a.number.val < b.number.val)
    ∧ insertZone ⟨7, .standard, []⟩ tbl = [⟨0, .standard, [0]⟩, ⟨7, .standard, []⟩, ⟨255, .peer [], []⟩]
    ∧ insertZone ⟨255, .standard, [1]⟩ tbl = [⟨0, .standard, [0]⟩, ⟨255, .standard, [1]⟩]
    ∧ (tbl.find? fun z => 1 ≤ z.number.val) = some ⟨255, .peer [], []⟩
    ∧ ([0, 255] : List Port).Pairwise (· < ·) ∧ insertPort 9 [0, 255] = [0, 9, 255]
    ∧ principalOf 0 = none ∧ principalOf 3 = some .ordinary ∧ principalOf 4 = none := by decide

theorem test_witness_StepsKeepTheZoneTables :
    State.reset.zonesInOrder ∧ ∃ t, step State.reset = .next t := by
  have h : ZoneTable.inOrder [] := ⟨List.Pairwise.nil, by simp, by decide⟩
  exact ⟨⟨h, fun _ => rfl, fun _ e => (nomatch e), h, fun _ e => (nomatch e)⟩, _, rfl⟩

theorem test_witness_ReachFollowsTheZones :
    (let s := testLive.modZone fun z => { z with active := ⟨[testFullZone, testPeerZone], 1⟩ }
     s.zone.active.generation ≠ 0 ∧ reach s.zone.active.table 0 200 = false
     ∧ reach [testFullZone] 0 255 = false ∧ reach [testPeerZone] 0 255 = true
     ∧ reach [testFullZone] 0 63 = true)
    ∧ testLive.zone.active.generation = 0 ∧ testLive.straps.zoning = .none
    ∧ ({ testLive with straps := Straps.ofLines 0x1F }).straps.zoning = .all
    ∧ 255 < (256 : BitVec 16).toNat ∧ (255 : BitVec 16).toNat = (255 : Port).val := by decide

/-! ### Commit and distribution -/

theorem test_witness_CommitStartsTheDistribution :
    (∀ n ∈ [0, 4],
      let s := ((testBusy .commit true n).modLink .a fun p =>
        { p with current := some ⟨3, 0x58, .commit, true⟩ }).modZone fun z =>
          { z with txn := .computing testTxn true }
      s.zone.txn = .computing testTxn true
      ∧ (s.link.get testTxn.owner).current = some ⟨3, 0x58, .commit, true⟩
      ∧ (s.link.get testTxn.owner).queue.length = n)
    ∧ (∀ i, State.reset.statusOf i = none) ∧ (∀ i, State.reset.isPowered i = false)
    ∧ (let s := testSlot 2 100 .powered (testFree [] none [] false 0)
       s.zone.catchUpSlot = none ∧ s.zone.job = none ∧ s.bus.current = none
       ∧ ∀ j, s.isPowered j = true ↔ j = 2)
    ∧ (State.reset.modZone fun z => { z with catchUpSlot := some 7 }).zone.catchUpSlot.isSome = true :=
  by decide

/-- Slots 3 and 8 in the distribution set with this status, loading for a main distribution. -/
def testSet (st : SetStatus) (hold : Bool) : State :=
  (modZoneSlots (fun r => r) testLive).modZone fun z =>
    { z with
      main := .distributing, hold := some hold
      slots := updAt (updAt z.slots 2 fun r => { r with status := some st, catchUp := true }) 7
        fun r => { r with status := some .loaded } }

theorem test_witness_engine_goes_on :
    (∀ h, (testSet .queued h).statusOf 2 = some .queued
      ∧ ∀ j, j < 2 → (testSet .queued h).statusOf j ≠ some .queued)
    ∧ (∀ st ∈ [SetStatus.loading, .awaitAck, .loaded, .failedLoad],
      (∀ i, (testSet st true).statusOf i ≠ some .queued) ∧ (testSet st true).statusOf 2 = some st)
    ∧ ((testSet .loaded true).zone.main = .distributing ∧ (testSet .loaded true).zone.job = none
      ∧ (testSet .loaded true).zone.catchUpSlot = none)
    ∧ ((testSet .loaded true).zone.slots.get 2).catchUp = true
    ∧ (goOn (testSet .failedLoad true)).zone.main = .failed
    ∧ (goOn (testSet .loaded true)).zone.main = .awaitActivate
    ∧ (goOn (testSet .loaded false)).zone.main = .activating
    ∧ (goOn (testSet .awaitAck true)).zone.main = .distributing
    ∧ (goOn (testSet .queued true)).zone.job = some ⟨2, true, .generation⟩
    ∧ (serveCatchUp (testSet .loaded true)).zone.job = some ⟨2, false, .generation⟩ := by decide +kernel

/-- A load of slot 1 is in progress at this write. -/
def testLoad (main : Bool) (st : LoadStep) (g : BitVec 16) : State :=
  testOnBus ⟨.loading 0 false, .write 432 16 1⟩ <|
    testLive.modZone fun z =>
      { z with job := some ⟨0, main, st⟩, active := ⟨[], g⟩, catchUpSlot := some 0 }

theorem test_witness_LoadsGoOnWriteByWrite :
    (∀ main, (testLoad main .loadDone 0).zone.job = some ⟨0, main, .loadDone⟩)
    ∧ (testLoad true .generation 1).bus.current = some ⟨.loading 0 false, .write 432 16 1⟩
    ∧ (busEnd (.write 432 16 1) (.bits [true]) .silent).data ≠ none
    ∧ (busEnd (.write 432 16 1) .silent .silent).data = none
    ∧ LoadStep.generation.next 32 = some (.piece 0) ∧ (LoadStep.piece 511).next 32 = some .loadDone
    ∧ (testLoad false .loadDone 0).zone.active.generation = 0
    ∧ (testLoad false .loadDone 1).zone.active.generation ≠ 0
    ∧ (let s := testOnBus ⟨.slotActivate 0 false, .set 465⟩ testLive
       s.bus.current = some ⟨.slotActivate 0 false, .set 465⟩
       ∧ (busEnd (.set 465) (.bits []) (.bits [])).data ≠ none
       ∧ (busEnd (.set 465) .silent .silent).data = none)
    ∧ (let s := modZoneSlot 0 (fun r => { r with ackDeadline := some 200 }) testLive
       (s.zone.slots.get 0).ackDeadline = some 200 ∧ s.zone.catchUpSlot ≠ some 0
       ∧ reached (s.setTime 200).time 200 = true ∧ reached (s.setTime 199).time 200 = false)
    ∧ (testLoad false .loadDone 1).zone.catchUpSlot = some 0
    ∧ (testOnBus ⟨.loading 0 true, .write 432 16 1⟩ testLive).bus.current
        = some ⟨.loading 0 true, .write 432 16 1⟩ := by decide

theorem test_witness_load_writes :
    (∀ b, (testOnBus ⟨.slotActivate 7 b, .set 2257⟩ testLive).bus.current
      = some ⟨.slotActivate 7 b, .set 2257⟩)
    ∧ testLive.zone.job = none ∧ ignoredOnBus testLive.bus = false
    ∧ (loadTxn (testLive.modZone fun z => { z with active := ⟨[⟨1, .standard, [0, 17]⟩], 3⟩ })
        ⟨0, false, .piece 1⟩) = .write 448 16 2
    ∧ (LoadStep.piece 511).next 32 = some .loadDone ∧ (LoadStep.piece 510).next 32 = some (.piece 511)
    ∧ LoadStep.generation.next 0 = some .loadDone := by decide +kernel

theorem test_witness_ActivationWritesComplete :
    (let s := testOnBus ⟨.activateField, .write 144 16 1⟩ testLive
     s.bus.current = some ⟨.activateField, .write 144 16 1⟩
     ∧ busEnd (.write 144 16 1) (.bits [false]) (.bits [false]) = .parity)
    ∧ (let s := (testOnBus ⟨.strobe, .set 160⟩ testLive).modZone fun z => { z with pending := some ⟨[], 1⟩ }
       s.bus.current = some ⟨.strobe, .set 160⟩ ∧ s.zone.pending = some ⟨[], 1⟩
       ∧ (busEnd (.set 160) (.bits []) (.bits [])).data ≠ none
       ∧ (busEnd (.set 160) .silent .silent).data = none) := by decide

theorem test_witness_DistributionRequestsAreJudged :
    (∀ m, Ready .a (testZoning .closed m) ∧ (testZoning .closed m).auth.holder = some .a
      ∧ (testZoning .closed m).zone.main = m)
    ∧ EngineState.failed ≠ .idle ∧ EngineState.failed ≠ .activating
    ∧ (testLoad false .generation 0).zone.catchUpSlot = some 0 :=
  ⟨fun _ => ⟨ready_of rfl rfl rfl rfl (nomatch ·), rfl, rfl⟩, by decide⟩

/-- An abort within a main load of slot 1 and within a catch-up of it. -/
theorem test_witness_abort :
    ((testLoad true .generation 0).zone.job = some ⟨0, true, .generation⟩
      ∧ (abort (testLoad true .generation 0)).bus.current = some ⟨.loading 0 true, .write 432 16 1⟩)
    ∧ ((testLoad false .generation 0).zone.job = some ⟨0, false, .generation⟩
      ∧ (abort (testLoad false .generation 0)).bus.current = some ⟨.loading 0 false, .write 432 16 1⟩)
    ∧ testLive.zone.job = none := by decide +kernel

/-! ### Alarms -/

/-- The first half of the history ring with `n` entries. -/
def testRing (st0 : HalfState) (n : Nat) (st1 : HalfState) : State :=
  testLive.modAlarm fun a =>
    { a with
      half0 := ⟨st0, List.replicate n ⟨0, .zoneDone, 1, .event, false, 1, 0⟩⟩, half1 := ⟨st1, []⟩ }

theorem test_witness_OccurrencesAreRecorded :
    AlarmClass.zoneDone ≠ .historyHalf ∧ fillingHalf (testRing .full 32 .full).alarm = none
    ∧ fillingHalf (testRing .filling 30 .free).alarm = some 0
    ∧ (halfAt (testRing .filling 31 .free).alarm 0).entries.length + 1 = 32
    ∧ (halfAt (testRing .filling 31 .free).alarm (otherHalf 0)).state = .free
    ∧ (halfAt (testRing .filling 31 .full).alarm (otherHalf 0)).state ≠ .free := by decide

theorem test_witness_conditions :
    condRow? testLive.alarm .budgetTight 1 = some (CondRow.powerOn .budgetTight 1)
    ∧ conditionNow testLive .budgetTight 1 = false
    ∧ conditionNow (testPower 0 (.held .s) testLive) .budgetTight 1 = true
    ∧ conditionNow testLive .tempWarn 1 = true ∧ conditionNow testLive .tempCrit 1 = false
    ∧ testLive.cool.settled = false
    ∧ (testLive.modCool fun c => { c with settled := true }).cool.settled = true := by decide +kernel

/-- R176: a level 5 condition lights the LED, a level 5 event makes it blink, one of level 1 neither. -/
theorem test_led_modes :
    (occurCondition .fanRotorFail 12 true testLive).alarm.led = .steady
    ∧ (occurEvent .authorityChange 1 false testLive).alarm.led = .blinking
    ∧ (occurEvent .zoneDone 1 false testLive).alarm.led = .off ∧ testLive.alarm.led = .off
    ∧ (occurCondition .fanRotorFail 12 true testLive).bus.class1 = [.held .indicator] := by decide +kernel

theorem test_witness_StepsKeepTheAttentionLines :
    State.reset.attentionAgrees ∧ ∃ t, step State.reset = .next t :=
  ⟨by unfold State.attentionAgrees; decide +kernel, _, rfl⟩

theorem test_witness_StepsKeepTheCounts :
    State.reset.queuesBounded ∧ State.reset.grantsBounded ∧ ∃ t, step State.reset = .next t :=
  ⟨⟨by decide, by decide⟩, by unfold State.grantsBounded; decide, _, rfl⟩

theorem test_witness_NoticesAreFetchedAndRetired :
    Ready .a testLive ∧ candidates testLive .a = []
    ∧ candidates (occurCondition .tempCrit 1 true (occurEvent .zoneDone 1 false testLive)) .a
        = [⟨7, .tempCrit, 1⟩, ⟨1, .zoneDone, 1⟩]
    ∧ testLive.alarm.stack.get .a = []
    ∧ (testLive.modAlarm fun a => { a with stack := ⟨[⟨1, .zoneDone, 1⟩], []⟩ }).alarm.stack.get .a
        = [⟨1, .zoneDone, 1⟩]
    ∧ testLive.auth.holder = some .a ∧ State.reset.auth.holder = none
    ∧ AlarmClass.tempCrit.kind = .condition ∧ AlarmClass.zoneDone.kind = .event
    ∧ (condRow? testLive.alarm .tempCrit 1).isSome ∧ (eventRow? testLive.alarm .zoneDone 1).isSome :=
  ⟨test_ready_of_testLive, by decide +kernel⟩

theorem test_witness_AlarmRequestsAreJudged :
    Ready .a testLive ∧ testLive.auth.holder = some .a
    ∧ (∀ j : Fin 20, (((Vector.replicate 20 1).set 0 0 : Vector Byte 20).get j).toNat ≤ 1)
    ∧ 20 < (21 : Byte).toNat ∧ (20 : Byte).toNat = AlarmClass.historyHalf.number
    ∧ 3 < (4 : Byte).toNat ∧ routeOf 0 = some .none ∧ routeOf 3 = some .both
    ∧ AlarmClass.licenseRevoked.count = (256 : BitVec 16).toNat
    ∧ AlarmClass.peerSilent.count < (3 : BitVec 16).toNat
    ∧ AlarmClass.zoneDone.kind = .event ∧ AlarmClass.psuFault.kind = .condition
    ∧ (condRow? testLive.alarm .psuFault 4).any (fun r => !r.forced)
    ∧ (condRow? (occurForced .psuFault 4 true testLive).alarm .psuFault 4).any (fun r => r.forced)
    ∧ (halfAt (testRing .full 32 .filling).alarm 0).state = .full
    ∧ (halfAt testLive.alarm 1).state ≠ .full ∧ 1 < (2 : Byte).toNat :=
  ⟨test_ready_of_testLive, by decide⟩

end
end

