-- ==== Sys2Proof/Proofs/CommandedDuty.lean ====
section
/-! SUPPORT. The commanded duty of R64: the rows of trays and rotors it reads, whether step 2 forces it,
the two terms of step 3 and which of them is the larger, the bounds of steps 4 and 5, and from these the
statement of the whole rule. -/

namespace Sys2Proof.Machine

/-! ### Rows of records, read by their numbers -/

theorem toList_eq_map_get {α : Type} {n : Nat} (v : Vector α n) :
    v.toList = (List.finRange n).map v.get := by
  refine List.ext_getElem (by simp) fun i _ _ => ?_
  simp [Vector.get_eq_getElem]

theorem any_toList_iff {α : Type} {n : Nat} (v : Vector α n) (p : α → Bool) :
    v.toList.any p = true ↔ ∃ i, p (v.get i) = true := by
  simp [toList_eq_map_get]

theorem TrayRec.good_eq_countP (t : TrayRec) :
    t.good = (List.finRange 4).countP fun r => (t.rotors.get r).fit = .good := by
  rw [TrayRec.good, toList_eq_map_get, List.countP_map]
  rfl

theorem goodRotors_eq_sum (c : Cooling) : goodRotors c =
    (((List.finRange 3).filter fun y => (c.trays.get y).maximum.isSome).map fun y =>
      (List.finRange 4).countP fun r => ((c.trays.get y).rotors.get r).fit = .good).sum := by
  rw [goodRotors, toList_eq_map_get, List.filter_map, List.map_map]
  exact congrArg List.sum (List.map_congr_left fun y _ => (c.trays.get y).good_eq_countP)

/-! ### Step 2 -/

theorem dutyForced_iff (c : Cooling) : dutyForced c = true ↔
    (∃ (y : Tray) (r : Rotor), ((c.trays.get y).rotors.get r).fit = .failed)
      ∨ (∃ y : Tray, (c.trays.get y).maximum = none) ∨ 450 * goodRotors c = 0
      ∨ c.assumed = true ∨ 55 ≤ c.tIn := by
  simp only [dutyForced, Bool.or_eq_true, any_toList_iff, decide_eq_true_eq, Option.isNone_iff_eq_none,
    Nat.mul_eq_zero, OfNat.ofNat_ne_zero, false_or, or_assoc]

/-! ### Step 3: the terms -/

theorem tempTermOf_cold {tIn : Int} (cold : tIn ≤ 25) : tempTermOf tIn = none :=
  if_neg (by omega)

theorem tempTermOf_warm {tIn : Int} (warm : 25 < tIn) :
    ∃ t : Nat, tempTermOf tIn = some t ∧ (t : Int) = 35 + 2 * (tIn - 25) :=
  ⟨_, if_pos warm, by omega⟩

/-- A quotient rounded up is the one whole number whose multiple reaches the dividend by less than one
divisor. -/
theorem loadTermOf_is_ceil (demand : Nat) {full : Nat} (pos : 0 < full) :
    100 * (demand + 180) ≤ loadTermOf demand full * full
      ∧ loadTermOf demand full * full < 100 * (demand + 180) + full := by
  have parts := Nat.div_add_mod (100 * (demand + 180) + full - 1) full
  have rest := Nat.mod_lt (100 * (demand + 180) + full - 1) pos
  rw [Nat.mul_comm] at parts
  unfold loadTermOf
  omega

/-! ### Steps 4 and 5 -/

@[simp] theorem boundDuty_tempTerm (holder : Option Cp) (d : Duty) :
    (boundDuty holder d).tempTerm = d.tempTerm := by
  unfold boundDuty; dsimp only; split_ifs <;> rfl

@[simp] theorem boundDuty_loadTerm (holder : Option Cp) (d : Duty) :
    (boundDuty holder d).loadTerm = d.loadTerm := by
  unfold boundDuty; dsimp only; split_ifs <;> rfl

theorem boundDuty_noHolder {d : Duty} (low : d.value < 60) :
    boundDuty none d = { d with value := 60, reason := .noHolder } := by
  simp [boundDuty, low]

theorem boundDuty_minimum {holder : Option Cp} {d : Duty} (held : holder ≠ none) (low : d.value < 35) :
    boundDuty holder d = { d with value := 35, reason := .minimum } := by
  simp [boundDuty, held, low]

theorem boundDuty_capped {holder : Option Cp} {d : Duty} (enough : holder = none → 60 ≤ d.value)
    (low : 35 ≤ d.value) : boundDuty holder d = { d with value := min d.value 100 } := by
  have stays : ¬ (holder = none ∧ d.value < 60) := fun ⟨h, lt⟩ => absurd (enough h) (by omega)
  by_cases high : 100 < d.value
  · simp [boundDuty, stays, Nat.not_lt.2 low, high, Nat.min_eq_right high.le]
  · simp [boundDuty, stays, Nat.not_lt.2 low, high, Nat.min_eq_left (Nat.not_lt.1 high)]

/-! ### Step 3: the larger term -/

theorem dutyFromTerms_temperature {holder : Option Cp} {c : Cooling} {t : Nat}
    (term : tempTermOf c.tIn = some t)
    (wins : loadTermOf c.demand (coolFullOf (goodRotors c)) ≤ t) :
    dutyFromTerms holder c = boundDuty holder
      ⟨t, .temperature, some t, some (loadTermOf c.demand (coolFullOf (goodRotors c)))⟩ := by
  simp [dutyFromTerms, term, wins]

theorem dutyFromTerms_load {holder : Option Cp} {c : Cooling}
    (wins : ∀ t, tempTermOf c.tIn = some t → t < loadTermOf c.demand (coolFullOf (goodRotors c))) :
    dutyFromTerms holder c = boundDuty holder
      ⟨loadTermOf c.demand (coolFullOf (goodRotors c)), .load, tempTermOf c.tIn,
        some (loadTermOf c.demand (coolFullOf (goodRotors c)))⟩ := by
  unfold dutyFromTerms
  cases term : tempTermOf c.tIn with
  | none => rfl
  | some t => exact if_neg (Nat.not_le.2 (wins t term))

/-- The larger of the terms formed, with its reason, is what steps 4 and 5 bound; equal terms give
TEMPERATURE. -/
theorem dutyFromTerms_eq_boundDuty (holder : Option Cp) (c : Cooling) :
    let load := loadTermOf c.demand (coolFullOf (goodRotors c))
    ∃ (v : Nat) (r : DutyReason),
      dutyFromTerms holder c = boundDuty holder ⟨v, r, tempTermOf c.tIn, some load⟩
      ∧ (25 < c.tIn → (load : Int) ≤ 35 + 2 * (c.tIn - 25) →
          (v : Int) = 35 + 2 * (c.tIn - 25) ∧ r = .temperature)
      ∧ ((c.tIn ≤ 25 ∨ 35 + 2 * (c.tIn - 25) < (load : Int)) → v = load ∧ r = .load) := by
  intro load
  rcases le_or_gt c.tIn 25 with cold | warm
  · refine ⟨load, .load, dutyFromTerms_load fun t term => ?_, fun warm => by omega,
      fun _ => ⟨rfl, rfl⟩⟩
    rw [tempTermOf_cold cold] at term
    cases term
  · obtain ⟨t, term, value⟩ := tempTermOf_warm warm
    rcases le_or_gt load t with le | lt
    · exact ⟨t, .temperature, term ▸ dutyFromTerms_temperature term le, fun _ _ => ⟨value, rfl⟩,
        fun _ => by omega⟩
    · refine ⟨load, .load, dutyFromTerms_load fun u termU => ?_, fun _ _ => by omega,
        fun _ => ⟨rfl, rfl⟩⟩
      cases term.symm.trans termU
      exact lt

/-! ### The rule -/

theorem dutyOf_start {a : Authority} (c : Cooling) (h : a.claimed = false) :
    dutyOf a c = ⟨100, .start, none, none⟩ := if_pos h

theorem dutyOf_forced {a : Authority} {c : Cooling} (claimed : a.claimed = true)
    (forced : dutyForced c = true) : dutyOf a c = ⟨100, .forced, none, none⟩ := by
  simp [dutyOf, claimed, forced]

theorem dutyOf_terms {a : Authority} {c : Cooling} (claimed : a.claimed = true)
    (free : ¬ dutyForced c = true) : dutyOf a c = dutyFromTerms a.holder c := by
  simp [dutyOf, claimed, free]

/-- Settles O34, step by step of R64: START and FORCED by the equations of `dutyOf`, and otherwise the larger
term of `dutyFromTerms_eq_boundDuty` taken through the bounds of `boundDuty`. -/
theorem dutyIsFormed : Obligations.DutyIsFormed := by
  unfold Obligations.DutyIsFormed
  refine ⟨goodRotors_eq_sum, fun a c => ?_⟩
  intro full forced d
  have forced_iff : dutyForced c = true ↔ forced := dutyForced_iff c
  refine ⟨dutyOf_start c, fun claimed h => dutyOf_forced claimed (forced_iff.2 h), fun claimed free => ?_⟩
  have rotors : 0 < full := Nat.pos_of_ne_zero fun empty => free (.inr (.inr (.inl empty)))
  obtain ⟨reaches, least⟩ := loadTermOf_is_ceil c.demand rotors
  obtain ⟨v, r, formed, temperature, load⟩ := dutyFromTerms_eq_boundDuty a.holder c
  have bounded : d = boundDuty a.holder ⟨v, r, tempTermOf c.tIn, some (loadTermOf c.demand full)⟩ :=
    (dutyOf_terms claimed (mt forced_iff.1 free)).trans formed
  rw [bounded]
  refine ⟨loadTermOf c.demand full, v, r, reaches, least, boundDuty_loadTerm _ _, fun cold => ?_,
    fun warm => ?_, temperature, load, fun nobody low => ?_, fun held low => ?_, fun enough low => ?_⟩
  · rw [boundDuty_tempTerm, tempTermOf_cold cold]
  · rw [boundDuty_tempTerm]
    exact tempTermOf_warm warm
  · rw [nobody, boundDuty_noHolder low]
    exact ⟨rfl, rfl⟩
  · rw [boundDuty_minimum held low]
    exact ⟨rfl, rfl⟩
  · rw [boundDuty_capped enough low]
    exact ⟨rfl, rfl⟩

end Sys2Proof.Machine
end

