-- ==== Sys2Proof/Proofs/PowerBudget.lean ====
section
/-! SUPPORT. The supply budget and the cooling capacity of R70 to R72: the derates, the usable output of a
supply, S under each reserve policy, the available budget, and that nothing a recompute does after forming
the five figures changes them (R69, R74). -/

namespace Sys2Proof.Machine

/-! ### Derates and usable output (R70) -/

theorem derate_eq_clamp (k : Nat) (start tIn : Int) :
    (derate k start tIn : Int) = max 0 (min 100 (k * (tIn - start))) := by
  unfold derate
  rcases le_total tIn start with cool | warm
  · have none_above : (tIn - start).toNat = 0 := by omega
    have not_pos : (k : Int) * (tIn - start) ≤ 0 :=
      Int.mul_nonpos_of_nonneg_of_nonpos (by omega) (by omega)
    rw [none_above]
    omega
  · have degrees : ((k * (tIn - start).toNat : Nat) : Int) = k * (tIn - start) := by
      rw [Nat.cast_mul, Int.toNat_of_nonneg (by omega)]
    have nonneg : (0 : Int) ≤ k * (tIn - start) := degrees ▸ Int.natCast_nonneg _
    omega

theorem derate_cool (k : Nat) {start tIn : Int} (cool : tIn ≤ start) : derate k start tIn = 0 := by
  simp [derate, Int.toNat_of_nonpos (Int.sub_nonpos_of_le cool)]

/-- A share of at most 100 in 100, rounded down, is no more than the whole. -/
theorem derated_le (whole derate : Nat) : whole * (100 - derate) / 100 ≤ whole :=
  Nat.div_le_of_le_mul ((Nat.mul_le_mul_left whole (Nat.sub_le 100 derate)).trans_eq (Nat.mul_comm _ _))

theorem usableOf_good (rated : Nat) (k : InputKind) (tIn : Int) :
    usableOf .good (some ⟨rated, k⟩) tIn
      = rated * k.factor / 20 * (100 - supplyDerate tIn) / 100 := rfl

theorem usableOf_not_good {st : SupplyState} (out : st ≠ .good) (id : Option SupplyIdentity) (tIn : Int) :
    usableOf st id tIn = 0 := by
  cases st with
  | good => exact absurd rfl out
  | _ => rfl

theorem InputKind.factor_le (k : InputKind) : k.factor ≤ 20 := by
  cases k <;> decide

theorem usableOf_le_rated (rated : Nat) (k : InputKind) (tIn : Int) :
    usableOf .good (some ⟨rated, k⟩) tIn ≤ rated :=
  calc rated * k.factor / 20 * (100 - supplyDerate tIn) / 100
    _ ≤ rated * k.factor / 20 := derated_le _ _
    _ ≤ rated := Nat.div_le_of_le_mul ((Nat.mul_le_mul_left rated k.factor_le).trans_eq (Nat.mul_comm _ _))

/-- Settles O32: R70's derate by `derate_eq_clamp`, and the two bounds by `usableOf_le_rated` and by a derate
of 0 at 40 degrees or below. -/
theorem usableOutputOfASupply : Obligations.UsableOutputOfASupply := by
  unfold Obligations.UsableOutputOfASupply
  intro rated k id st tIn
  refine ⟨⟨supplyDerate tIn, derate_eq_clamp 3 40 tIn, rfl, rfl⟩, fun out => usableOf_not_good out id tIn,
    ?_, (usableOf_le_rated rated k tIn).trans, fun cool => ?_⟩
  · exact Nat.le_zero.1 (usableOf_le_rated 0 k tIn)
  · rw [usableOf_good, supplyDerate, derate_cool 3 cool]
    rfl

/-! ### S under each policy (R71) -/

section
variable (b1 b2 b3 b4 : BayInput)

theorem usable_sum :
    ([b1, b2, b3, b4].map BayInput.usable).sum = b1.usable + b2.usable + b3.usable + b4.usable := by
  simp [Nat.add_assoc]

theorem usable_largest : ([b1, b2, b3, b4].map BayInput.usable).foldl max 0
    = max (max b1.usable b2.usable) (max b3.usable b4.usable) := by
  simp [max_assoc]

theorem supplyNPlus1_of_two (two : 2 ≤ [b1, b2, b3, b4].countP fun b => b.state = .good) :
    supplyNPlus1 [b1, b2, b3, b4] = b1.usable + b2.usable + b3.usable + b4.usable
      - max (max b1.usable b2.usable) (max b3.usable b4.usable) := by
  rw [supplyNPlus1, if_neg (Nat.not_lt.2 two), usable_sum, usable_largest]

theorem supplyNPlus1_of_fewer (few : ¬ 2 ≤ [b1, b2, b3, b4].countP fun b => b.state = .good) :
    supplyNPlus1 [b1, b2, b3, b4] = 0 := if_pos (Nat.lt_of_not_le few)

theorem supplyBudget_n : supplyBudget .n [b1, b2, b3, b4]
    = (b1.usable + b2.usable + b3.usable + b4.usable, false) :=
  congrArg (·, false) (usable_sum b1 b2 b3 b4)

theorem supplyBudget_nPlus1 (bays : List BayInput) :
    supplyBudget .nPlus1 bays = (supplyNPlus1 bays, false) := rfl

theorem supplyBudget_grid_both (gridA : b1.state = .good ∨ b2.state = .good)
    (gridB : b3.state = .good ∨ b4.state = .good) : supplyBudget .grid [b1, b2, b3, b4]
      = (min (b1.usable + b2.usable) (b3.usable + b4.usable), false) := by
  simp [supplyBudget, gridA, gridB]

theorem supplyBudget_grid_lost (lost : ¬ ((b1.state = .good ∨ b2.state = .good)
    ∧ (b3.state = .good ∨ b4.state = .good))) :
    supplyBudget .grid [b1, b2, b3, b4] = (supplyNPlus1 [b1, b2, b3, b4], true) := by
  simp [supplyBudget, lost]

end

/-! ### The five figures of a recompute (R71, R72) -/

/-- S, the grid flag, Cfull, C and A, as a budget record holds them. -/
def Power.figures (p : Power) : Nat × Bool × Nat × Nat × Nat :=
  (p.supply, p.gridLost, p.coolFull, p.coolCap, p.avail)

theorem Power.figures_eq_iff (p q : Power) : p.figures = q.figures ↔
    p.supply = q.supply ∧ p.gridLost = q.gridLost ∧ p.coolFull = q.coolFull ∧ p.coolCap = q.coolCap
      ∧ p.avail = q.avail := by
  simp [Power.figures]

theorem formBudget_supply_gridLost (p : Power) : ((formBudget p).supply, (formBudget p).gridLost)
    = supplyBudget p.policy p.input.bays.toList := rfl

theorem formBudget_avail_le (p : Power) : (formBudget p).avail ≤ 450 * p.input.rotors - 180 :=
  Nat.sub_le_sub_right ((min_le_right _ _).trans (derated_le _ _)) 180

/-! ### What leaves the budget record as it was -/

@[simp] theorem modZoneSlot_power (i : Slot) (f : ZoneSlot → ZoneSlot) (s : State) :
    (modZoneSlot i f s).power = s.power := rfl

@[simp] theorem requestLoad_power (s : State) : (requestLoad s).power = s.power := by
  unfold requestLoad; split
  · rfl
  · split <;> rfl

@[simp] theorem beginLoad_power (i : Slot) (m : Bool) (s : State) :
    (beginLoad i m s).power = s.power := by simp [beginLoad]

@[simp] theorem judgeComplete_power (s : State) : (judgeComplete s).power = s.power := by
  unfold judgeComplete; split_ifs <;> simp

@[simp] theorem serveCatchUp_power (s : State) : (serveCatchUp s).power = s.power := by
  unfold serveCatchUp; split
  · rfl
  · split <;> simp

@[simp] theorem goOn_power (s : State) : (goOn s).power = s.power := by
  unfold goOn; split
  · simp
  · split
    · rfl
    · split <;> simp
  · rfl

@[simp] theorem slotLeft_power (i : Slot) (s : State) : (slotLeft i s).power = s.power := by
  simp [slotLeft]

@[simp] theorem handSettled_power (c : AlarmClass) (n : Nat) (s : State) :
    (handSettled c n s).power = s.power := by unfold handSettled; split <;> simp

@[simp] theorem eventSettled_power (c : AlarmClass) (n : Nat) (s : State) :
    (eventSettled c n s).power = s.power := by unfold eventSettled; split <;> simp

@[simp] theorem evalTight_power (s : State) : (evalTight s).power = s.power := handSettled_power _ _ s

@[simp] theorem tellDemand_power (s : State) : (tellDemand s).power = s.power := by
  simp [tellDemand, giveDemand]

/-! ### What a recompute does to slots and ports keeps the figures -/

@[simp] theorem setSlotPower_figures (i : Slot) (st : SlotPower) (s : State) :
    (setSlotPower i st s).power.figures = s.power.figures := rfl

@[simp] theorem setPort_figures (p : Port) (st : PortPower) (s : State) :
    (setPort p st s).power.figures = s.power.figures := by
  unfold setPort; dsimp only; split <;> simp [Power.figures]

@[simp] theorem portsOff_figures (i : Slot) (s : State) :
    (portsOff i s).power.figures = s.power.figures := by
  unfold portsOff; dsimp only; split_ifs <;> simp [Power.figures]

@[simp] theorem leaveDraw_figures (i : Slot) (st : SlotPower) (s : State) :
    (leaveDraw i st s).power.figures = s.power.figures := by
  unfold leaveDraw; dsimp only; split <;> simp

@[simp] theorem admitSlot_figures (i : Slot) (s : State) :
    (admitSlot i s).power.figures = s.power.figures := by
  unfold admitSlot; split <;> simp

@[simp] theorem admitPort_figures (p : Port) (s : State) :
    (admitPort p s).power.figures = s.power.figures := by
  unfold admitPort; split
  · split <;> simp
  · rfl

/-- A walk whose every turn keeps the figures keeps them. -/
theorem foldl_figures {α : Type} (f : State → α → State)
    (turn : ∀ t x, (f t x).power.figures = t.power.figures) (xs : List α) (s : State) :
    (xs.foldl f s).power.figures = s.power.figures := by
  induction xs generalizing s with
  | nil => rfl
  | cons x xs ih => exact (ih (f s x)).trans (turn s x)

theorem shedPass_figures (is : List Slot) (s : State) :
    (shedPass is s).1.power.figures = s.power.figures := by
  induction is generalizing s with
  | nil => rfl
  | cons i is ih =>
    unfold shedPass; split
    · rfl
    · exact (ih _).trans (leaveDraw_figures _ _ _)

theorem admissionPass_figures (s : State) : (admissionPass s).power.figures = s.power.figures :=
  (foldl_figures _ (fun t p => admitPort_figures p t) _ _).trans
    (foldl_figures _ (fun t i => admitSlot_figures i t) _ _)

theorem handOn_figures (kind : RecomputeKind) (left shed : List Slot) (s : State) :
    (handOn kind left shed s).power.figures = s.power.figures := by
  have leaves := foldl_figures (fun t i => slotLeft i t)
    (fun t i => congrArg Power.figures (slotLeft_power i t)) left s
  have raises := foldl_figures (fun t i => eventSettled .budgetShed (i.val + 1) t)
    (fun t i => congrArg Power.figures (eventSettled_power _ _ t)) shed
    (left.foldl (fun t i => slotLeft i t) s)
  calc (handOn kind left shed s).power.figures
    _ = (evalTight (tellDemand (shed.foldl (fun t i => eventSettled .budgetShed (i.val + 1) t)
          (left.foldl (fun t i => slotLeft i t) s)))).power.figures := rfl
    _ = s.power.figures := by rw [evalTight_power, tellDemand_power, raises, leaves]

theorem recompute_figures (s : State) :
    (recompute s).power.figures = (formBudget s.power).figures := by
  unfold recompute recomputeShed; dsimp only; split
  · exact (handOn_figures _ _ _ _).trans (shedPass_figures _ _)
  · exact (handOn_figures _ _ _ _).trans (admissionPass_figures _)

/-- Settles O37: S and the grid flag by the equations of `supplyBudget` and `supplyNPlus1`, C and A from the
derate, and the recompute by `recompute_figures`. -/
theorem budgetIsFormed : Obligations.BudgetIsFormed := by
  unfold Obligations.BudgetIsFormed
  intro p b1 b2 b3 b4 bays good q sum largest twoGood
  have formed {policy : Policy} {S : Nat} {lost : Bool} (h : p.policy = policy)
      (value : supplyBudget policy [b1, b2, b3, b4] = (S, lost)) : q.supply = S ∧ q.gridLost = lost := by
    have pair := formBudget_supply_gridLost p
    rw [h, bays] at pair
    exact Prod.mk.inj (pair.trans value)
  refine ⟨fun n => formed n (supplyBudget_n b1 b2 b3 b4), fun nPlus1 two => formed nPlus1 ?_,
    fun nPlus1 few => formed nPlus1 ?_,
    fun grid gridA gridB => formed grid (supplyBudget_grid_both b1 b2 b3 b4 gridA gridB),
    fun grid lost two => formed grid ?_, fun grid few lost => formed grid ?_,
    ⟨coolingDerate p.input.tIn, derate_eq_clamp 2 35 p.input.tIn, rfl, rfl, ?_⟩, fun most => ?_,
    fun s holds => ?_⟩
  · rw [supplyBudget_nPlus1, supplyNPlus1_of_two b1 b2 b3 b4 two]
  · rw [supplyBudget_nPlus1, supplyNPlus1_of_fewer b1 b2 b3 b4 few]
  · rw [supplyBudget_grid_lost b1 b2 b3 b4 lost, supplyNPlus1_of_two b1 b2 b3 b4 two]
  · rw [supplyBudget_grid_lost b1 b2 b3 b4 lost, supplyNPlus1_of_fewer b1 b2 b3 b4 few]
  · have avail : q.avail = min q.supply q.coolCap - 180 := rfl
    omega
  · exact (formBudget_avail_le p).trans (by omega)
  · rw [← Power.figures_eq_iff, recompute_figures, holds]

end Sys2Proof.Machine
end

