-- ==== Sys2Proof/Proofs/StepRelations.lean ====
section
/-! SUPPORT. What a step keeps, from the list of moves: a relation that every move keeps, that power-on gives
and that speaks of neither the queue nor the time base is kept by every step. The duty, the license lists, the
attention lines and the counts are four such relations. -/

namespace Sys2Proof.Machine

/-! ### The step and its commands -/

/-- Settles O1: `step` reads the queue alone, and the queue after it is the one given to `exec`. -/
theorem stepRunsTheFrontCommand : Obligations.StepRunsTheFrontCommand := by
  unfold Obligations.StepRunsTheFrontCommand
  exact fun i q s => rfl

/-- No move touches the queue of commands. -/
theorem Move.pending {o : Bool} {s t : State} (h : Move o s t) : t.pending = s.pending := by
  cases h <;> simp

theorem exec_powerOnReset_pending (lines : BitVec 6) {s t : State}
    (h : exec (.powerOnReset lines) s = .next t) : t.pending = s.pending := by
  cases h; rfl

/-- Settles O3: `exec_next` gives the answer, and no move touches the queue. -/
theorem everyCommandAnswersNext : Obligations.EveryCommandAnswersNext := by
  unfold Obligations.EveryCommandAnswersNext
  intro i s
  obtain ⟨t, ht⟩ := exec_next i s
  refine ⟨t, ht, ?_⟩
  by_cases reset : ∃ lines, i = .powerOnReset lines
  · obtain ⟨lines, rfl⟩ := reset
    exact exec_powerOnReset_pending lines ht
  · exact (exec_moves i s t (fun lines e => reset ⟨lines, e⟩) ht).keeps
      (P := fun u => u.pending = s.pending) (fun _ _ m hs => m.pending.trans hs) rfl

/-- The induction over a step, once: what every move keeps and power-on gives, and what does not depend on the
queue or the time base, every step keeps. -/
theorem step_keeps {P : State → Prop} (queue : ∀ s q, P s → P (s.setPending q))
    (clock : ∀ s x, P s → P (s.setTime x)) (moves : ∀ s t, Move true s t → P s → P t)
    (powerOn : ∀ lines held, P (State.powerOn lines held)) {s t : State} (hs : P s)
    (h : step s = .next t) : P t := by
  obtain ⟨x, q, r, v, rfl, chain | ⟨lines, held, rfl⟩⟩ := step_moves s t h
  · exact queue _ _ (chain.keeps moves (queue _ _ (clock _ _ hs)))
  · exact queue _ _ (powerOn _ _)

/-! ### The duty (R64) -/

/-- R64's bounds on a duty, by who holds authority. -/
def DutyBounded (holder : Option Cp) (duty : Nat) : Prop :=
  35 ≤ duty ∧ duty ≤ 100 ∧ (holder = none → 60 ≤ duty)

theorem dutyBounded_full (holder : Option Cp) : DutyBounded holder 100 :=
  ⟨by omega, by omega, fun _ => by omega⟩

theorem boundDuty_bounded (holder : Option Cp) (d : Duty) :
    DutyBounded holder (boundDuty holder d).value := by
  unfold boundDuty DutyBounded
  by_cases nobody : holder = none ∧ d.value < 60
  · simp [nobody]
  · have enough : holder = none → 60 ≤ d.value := fun e => by
      by_contra low; exact nobody ⟨e, by omega⟩
    simp only [if_neg nobody]
    split_ifs with low high
    · exact ⟨le_rfl, Nat.le_of_ble_eq_true rfl, fun e => absurd (enough e) (by omega)⟩
    · exact ⟨Nat.le_of_ble_eq_true rfl, le_rfl, fun _ => Nat.le_of_ble_eq_true rfl⟩
    · exact ⟨by omega, by omega, enough⟩

theorem dutyOf_bounded (a : Authority) (c : Cooling) : DutyBounded a.holder (dutyOf a c).value := by
  unfold dutyOf dutyFromTerms
  split_ifs
  · exact dutyBounded_full _
  · exact dutyBounded_full _
  · dsimp only
    split
    · split_ifs <;> exact boundDuty_bounded _ _
    · exact boundDuty_bounded _ _

theorem recomputeDuty_fansKept (s : State) : (recomputeDuty s).fansKept := by
  unfold State.fansKept
  rw [recomputeDuty_duty, recomputeDuty_auth]
  exact dutyOf_bounded s.auth s.cool

theorem fansKept_congr {s t : State} (duty : t.cool.duty = s.cool.duty)
    (holder : t.auth.holder = s.auth.holder) (hs : s.fansKept) : t.fansKept := by
  unfold State.fansKept
  rwa [duty, holder]

theorem Move.fansKept {o : Bool} {s t : State} (m : Move o s t) (hs : s.fansKept) : t.fansKept := by
  cases m with
  | duty => exact recomputeDuty_fansKept s
  | holder f g =>
    exact fansKept_congr (by simp) (by simp) (recomputeDuty_fansKept (s.modAuth f))
  | cool f _ same => exact fansKept_congr same rfl hs
  | record f _ same => exact fansKept_congr (s := s) rfl (same _).1 hs
  | presence c p => exact fansKept_congr (by simp) (by simp [setPresence]) hs
  | alarm f => exact fansKept_congr (by simp) (by simp) hs
  | link | bus | power | lic | zone | ring | mark | serial => exact hs

/-- Settles O36: the duty is written by `recomputeDuty` alone, within R64's bounds, and a change of holder is
followed by it. -/
theorem stepsKeepTheFans : Obligations.StepsKeepTheFans := by
  unfold Obligations.StepsKeepTheFans
  refine fun s t hs => step_keeps (fun _ _ h => h) (fun _ _ h => h) (fun _ _ m => m.fansKept)
    (fun _ _ => ?_) hs
  exact dutyBounded_full none

/-! ### The license lists (R100, R101) -/

theorem Move.consistent {o : Bool} {s t : State} (m : Move o s t) (hs : s.lic.consistent) :
    t.lic.consistent := by
  cases m with
  | lic f _ keeps => exact keeps hs
  | link | bus | cool | power | zone | ring | record | mark | serial => exact hs
  | duty | alarm | presence | holder => simpa using hs

/-- Settles O47: a move of the license records is one that keeps them consistent. -/
theorem stepsKeepTheLicenses : Obligations.StepsKeepTheLicenses := by
  unfold Obligations.StepsKeepTheLicenses
  refine fun s t hs => step_keeps (P := fun u => u.lic.consistent) (fun _ _ h => h) (fun _ _ h => h)
    (fun _ _ m => m.consistent) (fun _ _ => ?_) hs
  exact ⟨List.nodup_nil, Nat.zero_le _⟩

/-! ### The attention lines (R166) -/

/-- The attention of a CP depends on the rows, classes, masks and stacks, and on holder and presences. -/
theorem attentionOf_congr {s t : State} (c : Cp) (holder : t.auth.holder = s.auth.holder)
    (presence : t.auth.presence = s.auth.presence) (classes : t.alarm.classes = s.alarm.classes)
    (conds : t.alarm.conds = s.alarm.conds) (events : t.alarm.events = s.alarm.events)
    (mask : t.alarm.mask = s.alarm.mask) (stack : t.alarm.stack = s.alarm.stack) :
    attentionOf t c = attentionOf s c := by
  have targets (r : Route) : routeTargets t.auth r c = routeTargets s.auth r c := by
    simp only [routeTargets, holder, presence]
  have calls (k : AlarmClass) : classCalls t c k = classCalls s c k := by
    rw [classCalls, classCalls, classEntry, classEntry, mask, stack, classes]
  have cond : condEligible t c = condEligible s c := by
    funext r
    simp only [condEligible, calls, targets, classEntry, classes]
  have event : eventEligible t c = eventEligible s c := by
    funext r
    simp only [eventEligible, calls, targets]
  simp only [attentionOf, conds, events, cond, event]

theorem attentionAgrees_congr {s t : State} (holder : t.auth.holder = s.auth.holder)
    (presence : t.auth.presence = s.auth.presence) (classes : t.alarm.classes = s.alarm.classes)
    (conds : t.alarm.conds = s.alarm.conds) (events : t.alarm.events = s.alarm.events)
    (mask : t.alarm.mask = s.alarm.mask) (stack : t.alarm.stack = s.alarm.stack)
    (attn : t.alarm.attn = s.alarm.attn) (hs : s.attentionAgrees) : t.attentionAgrees := by
  unfold State.attentionAgrees
  rwa [attn, attentionOf_congr .a holder presence classes conds events mask stack,
    attentionOf_congr .b holder presence classes conds events mask stack]

/-- Where authority and the alarm records are the same, so is the agreement. -/
theorem attentionAgrees_same {s t : State} (auth : t.auth = s.auth) (alarm : t.alarm = s.alarm)
    (hs : s.attentionAgrees) : t.attentionAgrees :=
  attentionAgrees_congr (by rw [auth]) (by rw [auth]) (by rw [alarm]) (by rw [alarm]) (by rw [alarm])
    (by rw [alarm]) (by rw [alarm]) (by rw [alarm]) hs

/-- A re-evaluation forms both lines from the rows. -/
theorem reevaluate_attentionAgrees (s : State) : (reevaluate s).attentionAgrees := by
  have same (c : Cp) : attentionOf (reevaluate s) c = attentionOf s c :=
    attentionOf_congr c (by simp) (by simp) (by rw [reevaluate_alarm]) (by rw [reevaluate_alarm])
      (by rw [reevaluate_alarm]) (by rw [reevaluate_alarm]) (by rw [reevaluate_alarm])
  unfold State.attentionAgrees
  rw [same, same, reevaluate_alarm]

theorem Move.attentionAgrees {o : Bool} {s t : State} (m : Move o s t) (hs : s.attentionAgrees) :
    t.attentionAgrees := by
  cases m with
  | alarm f => exact reevaluate_attentionAgrees _
  | presence c p => exact reevaluate_attentionAgrees _
  | holder f g => exact reevaluate_attentionAgrees _
  | duty => exact attentionAgrees_same (by simp) (by simp) hs
  | ring f _ same =>
    obtain ⟨classes, conds, events, mask, stack, attn⟩ := same s.alarm
    exact attentionAgrees_congr (s := s) rfl rfl classes conds events mask stack attn hs
  | record f _ same =>
    exact attentionAgrees_congr (s := s) (same _).1 (same _).2 rfl rfl rfl rfl rfl rfl hs
  | link | bus | cool | power | lic | zone | mark | serial => exact attentionAgrees_same (s := s) rfl rfl hs

theorem condRow_powerOn_active (c : AlarmClass) (n : Nat) : (CondRow.powerOn c n).active = false := rfl

theorem condRows_bare {r : CondRow} (h : r ∈ condRows) : ∃ c n, r = CondRow.powerOn c n := by
  obtain ⟨c, _, h⟩ := List.mem_flatMap.1 h
  obtain ⟨n, _, rfl⟩ := List.mem_map.1 h
  exact ⟨c, n, rfl⟩

theorem eventRows_bare {r : EventRow} (h : r ∈ eventRows) : ∃ c n, r = EventRow.powerOn c n := by
  obtain ⟨c, _, h⟩ := List.mem_flatMap.1 h
  obtain ⟨n, _, rfl⟩ := List.mem_map.1 h
  exact ⟨c, n, rfl⟩

/-- After power-on no row is active or latched, and both lines are released. -/
theorem powerOn_attentionAgrees (lines : BitVec 6) (held : PerCp Bool) :
    (State.powerOn lines held).attentionAgrees := by
  have none (c : Cp) : attentionOf (State.powerOn lines held) c = false := by
    rw [attentionOf, Bool.or_eq_false_iff, List.any_eq_false, List.any_eq_false]
    constructor
    · intro r hr
      obtain ⟨k, n, rfl⟩ := condRows_bare hr
      simp [condEligible, condRow_powerOn_active]
    · intro r hr
      obtain ⟨k, n, rfl⟩ := eventRows_bare hr
      cases c <;> simp [eventEligible, EventRow.powerOn, PerCp.get]
  unfold State.attentionAgrees
  rw [none, none]
  rfl

/-- Settles O57: what the eligibility reads changes only ahead of a re-evaluation. -/
theorem stepsKeepTheAttentionLines : Obligations.StepsKeepTheAttentionLines := by
  unfold Obligations.StepsKeepTheAttentionLines
  exact fun s t hs => step_keeps (P := State.attentionAgrees) (fun _ _ => attentionAgrees_same rfl rfl)
    (fun _ _ => attentionAgrees_same rfl rfl) (fun _ _ m => m.attentionAgrees)
    powerOn_attentionAgrees hs

/-! ### The counts (R35, R186) -/

theorem Move.queuesBounded {o : Bool} {s t : State} (m : Move o s t) (hs : s.queuesBounded) :
    t.queuesBounded := by
  cases m with
  | link c f _ keeps =>
    obtain ⟨a, b⟩ := hs
    cases c with
    | a => exact ⟨keeps a, b⟩
    | b => exact ⟨a, keeps b⟩
  | duty | alarm | presence | holder => simpa [State.queuesBounded] using hs
  | bus | cool | power | lic | zone | ring | record | mark | serial => exact hs

theorem joinHeld_grants (f : HeldField) (s : State) : (joinHeld f s).bus.grants = s.bus.grants := by
  unfold joinHeld; split <;> rfl

theorem joinAll_grants (fs : List HeldField) (s : State) : (joinAll fs s).bus.grants = s.bus.grants := by
  unfold joinAll
  induction fs generalizing s with
  | nil => rfl
  | cons f fs ih => exact (ih _).trans (joinHeld_grants f s)

theorem reevaluate_grants (s : State) : (reevaluate s).bus.grants = s.bus.grants := by
  unfold reevaluate; dsimp only; split
  · rfl
  · exact joinHeld_grants _ _

theorem recomputeDuty_grants (s : State) : (recomputeDuty s).bus.grants = s.bus.grants := by
  unfold recomputeDuty; dsimp only; split
  · rfl
  · exact joinAll_grants _ _

theorem Move.grantsBounded {o : Bool} {s t : State} (m : Move o s t) (hs : s.grantsBounded) :
    t.grantsBounded := by
  cases m with
  | bus f _ keeps => exact keeps hs
  | duty => exact (recomputeDuty_grants s).trans_le hs
  | alarm f => exact (reevaluate_grants _).trans_le hs
  | presence c p => exact (reevaluate_grants _).trans_le hs
  | holder f g =>
    have same : (reevaluate ((recomputeDuty (s.modAuth f)).modAlarm g)).bus.grants = s.bus.grants :=
      (reevaluate_grants _).trans (recomputeDuty_grants (s.modAuth f))
    exact same.trans_le hs
  | link | cool | power | lic | zone | ring | record | mark | serial => exact hs

/-- Settles O58: a queue is written by moves that keep it within 4, the grant count by moves that keep it within
16. -/
theorem stepsKeepTheCounts : Obligations.StepsKeepTheCounts := by
  unfold Obligations.StepsKeepTheCounts
  intro s t h
  constructor
  · exact fun hs => step_keeps (P := State.queuesBounded) (fun _ _ h => h) (fun _ _ h => h)
      (fun _ _ m => m.queuesBounded) (fun _ _ => ⟨Nat.zero_le _, Nat.zero_le _⟩) hs h
  · exact fun hs => step_keeps (P := State.grantsBounded) (fun _ _ h => h) (fun _ _ h => h)
      (fun _ _ m => m.grantsBounded) (fun _ _ => Nat.zero_le _) hs h

end Sys2Proof.Machine
end

