-- ==== Sys2Proof/Proofs/BudgetRecords.lean ====
section
/-! SUPPORT. The slot and port records of the Power Budget Unit: the demand as a sum over slots and ports, what
each change of a slot or port does to it, and that a recompute leaves records in agreement with a demand
within the available budget (R73 to R77, R83, R84). -/

namespace Sys2Proof.Machine

/-! ### Ports and their slots -/

theorem portSlot_portOf (i : Slot) (l : Fin 32) : portSlot (portOf i l) = i := by
  refine Fin.ext ?_
  show (i.val * 32 + l.val) / 32 = i.val
  omega

theorem portOf_portSlot (p : Port) : ∃ l, portOf (portSlot p) l = p :=
  ⟨⟨p.val % 32, Nat.mod_lt _ (by decide)⟩, Fin.ext (by
    show p.val / 32 * 32 + p.val % 32 = p.val
    omega)⟩

theorem portOf_injective (i : Slot) : Function.Injective (portOf i) := by
  intro l m e
  have : i.val * 32 + l.val = i.val * 32 + m.val := congrArg Fin.val e
  exact Fin.ext (by omega)

theorem mem_slotPorts {i : Slot} {p : Port} : p ∈ slotPorts i ↔ portSlot p = i := by
  unfold slotPorts
  rw [List.mem_map]
  constructor
  · rintro ⟨l, _, rfl⟩
    exact portSlot_portOf i l
  · rintro rfl
    obtain ⟨l, hl⟩ := portOf_portSlot p
    exact ⟨l, List.mem_finRange l, hl⟩

/-- The records of a slot's ports, in ascending local index. -/
theorem slotPart_eq_map {α : Type} (v : Vector α 256) (i : Slot) :
    slotPart v i = (List.finRange 32).map fun l => v.get (portOf i l) := by
  refine List.ext_getElem ?_ fun n h1 h2 => ?_
  · have := i.isLt
    simp [slotPart]
    omega
  · simp [slotPart, Vector.get_eq_getElem, portOf, Nat.mul_comm]

@[simp] theorem mem_allSlots (i : Slot) : i ∈ allSlots := List.mem_finRange i

/-! ### The demand as a sum (R73) -/

/-- The draws of a slot's ports. -/
def portDraws (p : Power) (i : Slot) : Nat := ∑ l : Fin 32, (p.ports.get (portOf i l)).draw

theorem slotDraw_eq (p : Power) (i : Slot) : slotDraw p i
    = if (p.slots.get i).power.drawing then (p.slots.get i).base + portDraws p i else 0 := by
  have sum : ((slotPart p.ports i).map PortPower.draw).sum = portDraws p i := by
    rw [slotPart_eq_map, List.map_map, portDraws, Fin.sum_univ_def]
    rfl
  unfold slotDraw
  rw [sum]

theorem slotDraw_idle {p : Power} {i : Slot} (h : (p.slots.get i).power.drawing = false) :
    slotDraw p i = 0 := by simp [slotDraw_eq, h]

theorem demand_eq_sum (p : Power) : demand p = ∑ i : Slot, slotDraw p i := by
  rw [demand, allSlots, Fin.sum_univ_def]

theorem demand_le_of_slots {p q : Power} (h : ∀ i, slotDraw q i ≤ slotDraw p i) : demand q ≤ demand p := by
  rw [demand_eq_sum, demand_eq_sum]
  exact Finset.sum_le_sum fun i _ => h i

/-- Where one slot alone draws more, the demand rises by no more than that. -/
theorem demand_le_add {p q : Power} {i : Slot} {d : Nat} (others : ∀ j, j ≠ i → slotDraw q j ≤ slotDraw p j)
    (one : slotDraw q i ≤ slotDraw p i + d) : demand q ≤ demand p + d := by
  rw [demand_eq_sum, demand_eq_sum, ← Finset.add_sum_erase _ _ (Finset.mem_univ i),
    ← Finset.add_sum_erase _ (slotDraw p) (Finset.mem_univ i)]
  have rest : ∑ j ∈ Finset.univ.erase i, slotDraw q j ≤ ∑ j ∈ Finset.univ.erase i, slotDraw p j :=
    Finset.sum_le_sum fun j hj => others j (Finset.ne_of_mem_erase hj)
  omega

theorem portDraws_le {p q : Power} {i : Slot}
    (h : ∀ x, portSlot x = i → (q.ports.get x).draw ≤ (p.ports.get x).draw) :
    portDraws q i ≤ portDraws p i :=
  Finset.sum_le_sum fun l _ => h _ (portSlot_portOf i l)

/-- Where one port alone draws more, its slot's ports draw no more than that in addition. -/
theorem portDraws_le_add {p q : Power} {x : Port} {d : Nat}
    (others : ∀ y, y ≠ x → (q.ports.get y).draw ≤ (p.ports.get y).draw)
    (one : (q.ports.get x).draw ≤ (p.ports.get x).draw + d) :
    portDraws q (portSlot x) ≤ portDraws p (portSlot x) + d := by
  obtain ⟨l, hl⟩ := portOf_portSlot x
  unfold portDraws
  rw [← Finset.add_sum_erase _ _ (Finset.mem_univ l),
    ← Finset.add_sum_erase _ (fun l => (p.ports.get (portOf (portSlot x) l)).draw) (Finset.mem_univ l)]
  have rest : ∑ m ∈ Finset.univ.erase l, (q.ports.get (portOf (portSlot x) m)).draw
      ≤ ∑ m ∈ Finset.univ.erase l, (p.ports.get (portOf (portSlot x) m)).draw :=
    Finset.sum_le_sum fun m hm => others _ fun e =>
      Finset.ne_of_mem_erase hm (portOf_injective _ (e.trans hl.symm))
  rw [hl]
  omega

/-- A slot whose ports are all OFF draws its base draw alone. -/
theorem portDraws_off {p : Power} {i : Slot} (h : ∀ x, portSlot x = i → p.ports.get x = .off) :
    portDraws p i = 0 :=
  Finset.sum_eq_zero fun l _ => by rw [h _ (portSlot_portOf i l)]; rfl

/-! ### Records in agreement -/

/-- What R78 and R84 say of the slot and port records by themselves. -/
structure Power.LaidOut (p : Power) : Prop where
  empty : ∀ i, (p.slots.get i).power = .empty ↔ (p.slots.get i).card = none
  powered : ∀ x, p.ports.get x ≠ .off → (p.slots.get (portSlot x)).power = .powered
  priority : ∀ i, (p.slots.get i).priority ≤ 3

/-- And the demand is within the available budget (R74). -/
structure Power.Sound (p : Power) : Prop extends p.LaidOut where
  within : demand p ≤ p.avail

theorem Power.LaidOut.ports_off {p : Power} (h : p.LaidOut) {i : Slot}
    (hi : (p.slots.get i).power ≠ .powered) {x : Port} (hx : portSlot x = i) : p.ports.get x = .off := by
  by_contra hoff
  exact hi (hx ▸ h.powered x hoff)

theorem Power.LaidOut.carded {p : Power} (h : p.LaidOut) {i : Slot}
    (hi : (p.slots.get i).power ≠ .empty) : (p.slots.get i).card ≠ none := fun e => hi ((h.empty i).2 e)

/-! ### A slot record changes -/

/-- The record of one slot is replaced. -/
def Power.putSlot (p : Power) (i : Slot) (r : SlotRec) : Power :=
  { p with slots := updAt p.slots i fun _ => r }

@[simp] theorem Power.putSlot_self (p : Power) (i : Slot) (r : SlotRec) :
    (p.putSlot i r).slots.get i = r := by simp [Power.putSlot]

theorem Power.putSlot_ne (p : Power) {i j : Slot} (r : SlotRec) (h : j ≠ i) :
    (p.putSlot i r).slots.get j = p.slots.get j := updAt_ne _ _ _ _ h

@[simp] theorem Power.putSlot_ports (p : Power) (i : Slot) (r : SlotRec) :
    (p.putSlot i r).ports = p.ports := rfl

@[simp] theorem Power.putSlot_avail (p : Power) (i : Slot) (r : SlotRec) :
    (p.putSlot i r).avail = p.avail := rfl

@[simp] theorem portDraws_putSlot (p : Power) (i j : Slot) (r : SlotRec) :
    portDraws (p.putSlot i r) j = portDraws p j := rfl

theorem modSlot_power (i : Slot) (f : SlotRec → SlotRec) (s : State) :
    (modSlot i f s).power = s.power.putSlot i (f (s.slotRec i)) := rfl

theorem setSlotPower_power (i : Slot) (st : SlotPower) (s : State) :
    (setSlotPower i st s).power = s.power.putSlot i { s.slotRec i with power := st } := rfl

theorem slotDraw_putSlot_ne (p : Power) {i j : Slot} (r : SlotRec) (h : j ≠ i) :
    slotDraw (p.putSlot i r) j = slotDraw p j := by
  rw [slotDraw_eq, slotDraw_eq, p.putSlot_ne r h, portDraws_putSlot]

theorem slotDraw_putSlot_self (p : Power) (i : Slot) (r : SlotRec) :
    slotDraw (p.putSlot i r) i = if r.power.drawing then r.base + portDraws p i else 0 := by
  rw [slotDraw_eq, p.putSlot_self, portDraws_putSlot]

/-- A replaced slot record keeps the agreement if it agrees by itself and leaves no port without power. -/
theorem Power.LaidOut.putSlot {p : Power} (h : p.LaidOut) {i : Slot} {r : SlotRec}
    (empty : r.power = .empty ↔ r.card = none)
    (powered : (p.slots.get i).power = .powered → r.power = .powered) (priority : r.priority ≤ 3) :
    (p.putSlot i r).LaidOut := by
  refine ⟨fun j => ?_, fun x hx => ?_, fun j => ?_⟩
  · by_cases e : j = i
    · subst e; simpa using empty
    · rw [p.putSlot_ne r e]; exact h.empty j
  · by_cases e : portSlot x = i
    · subst e; simpa using powered (h.powered x hx)
    · rw [p.putSlot_ne r e]; exact h.powered x hx
  · by_cases e : j = i
    · subst e; simpa using priority
    · rw [p.putSlot_ne r e]; exact h.priority j

/-- A replaced slot record keeps the whole relation if its draw fits beside the other slots. -/
theorem Power.Sound.putSlot {p : Power} (h : p.Sound) {i : Slot} {r : SlotRec} {d : Nat}
    (empty : r.power = .empty ↔ r.card = none)
    (powered : (p.slots.get i).power = .powered → r.power = .powered) (priority : r.priority ≤ 3)
    (draw : slotDraw (p.putSlot i r) i ≤ slotDraw p i + d) (fits : demand p + d ≤ p.avail) :
    (p.putSlot i r).Sound :=
  ⟨h.toLaidOut.putSlot empty powered priority,
    (demand_le_add (fun _ hj => (slotDraw_putSlot_ne p r hj).le) draw).trans fits⟩

/-- A slot that is not POWERED takes another state that draws nothing. -/
theorem Power.Sound.putIdle {p : Power} (h : p.Sound) {i : Slot} {r : SlotRec}
    (empty : r.power = .empty ↔ r.card = none) (out : (p.slots.get i).power ≠ .powered)
    (idle : r.power.drawing = false) (priority : r.priority ≤ 3) : (p.putSlot i r).Sound :=
  h.putSlot (d := 0) empty (fun e => absurd e out) priority
    (by rw [slotDraw_putSlot_self, idle]; exact Nat.zero_le _) h.within

/-! ### A port changes -/

/-- The record of one port is replaced. -/
def Power.putPort (p : Power) (x : Port) (st : PortPower) : Power :=
  { p with ports := updAt p.ports x fun _ => st }

theorem setPort_power (x : Port) (st : PortPower) (s : State) :
    (setPort x st s).power = s.power.putPort x st := by
  unfold setPort; dsimp only; split <;> simp [Power.putPort]

theorem Power.putPort_self (p : Power) (x : Port) (st : PortPower) :
    (p.putPort x st).ports.get x = st := by simp [Power.putPort]

theorem Power.putPort_ne (p : Power) {x y : Port} (st : PortPower) (h : y ≠ x) :
    (p.putPort x st).ports.get y = p.ports.get y := updAt_ne _ _ _ _ h

@[simp] theorem Power.putPort_slots (p : Power) (x : Port) (st : PortPower) :
    (p.putPort x st).slots = p.slots := rfl

theorem Power.LaidOut.putPort {p : Power} (h : p.LaidOut) {x : Port} {st : PortPower}
    (powered : st ≠ .off → (p.slots.get (portSlot x)).power = .powered) : (p.putPort x st).LaidOut := by
  refine ⟨h.empty, fun y hy => ?_, h.priority⟩
  by_cases e : y = x
  · subst e
    rw [p.putPort_self] at hy
    exact powered hy
  · rw [p.putPort_ne st e] at hy
    exact h.powered y hy

theorem demand_putPort_le {p : Power} {x : Port} {st : PortPower} {d : Nat}
    (draw : st.draw ≤ (p.ports.get x).draw + d) : demand (p.putPort x st) ≤ demand p + d := by
  have others (y : Port) (hy : y ≠ x) :
      ((p.putPort x st).ports.get y).draw ≤ (p.ports.get y).draw := by rw [p.putPort_ne st hy]
  refine demand_le_add (i := portSlot x) (fun j hj => ?_) ?_
  · have sums : portDraws (p.putPort x st) j ≤ portDraws p j :=
      portDraws_le fun y hy => others y fun e => hj (e ▸ hy.symm)
    rw [slotDraw_eq, slotDraw_eq, Power.putPort_slots]
    split
    · omega
    · exact le_rfl
  · have sums : portDraws (p.putPort x st) (portSlot x) ≤ portDraws p (portSlot x) + d :=
      portDraws_le_add others (by rwa [p.putPort_self])
    rw [slotDraw_eq, slotDraw_eq, Power.putPort_slots]
    split
    · omega
    · exact Nat.zero_le _

/-- A port takes a state that fits, on a POWERED slot unless it is OFF. -/
theorem Power.Sound.putPort {p : Power} (h : p.Sound) {x : Port} {st : PortPower} {d : Nat}
    (powered : st ≠ .off → (p.slots.get (portSlot x)).power = .powered)
    (draw : st.draw ≤ (p.ports.get x).draw + d) (fits : demand p + d ≤ p.avail) :
    (p.putPort x st).Sound :=
  ⟨h.toLaidOut.putPort powered, (demand_putPort_le draw).trans fits⟩

/-- A port takes a state that draws no more. -/
theorem Power.Sound.putPort_less {p : Power} (h : p.Sound) {x : Port} {st : PortPower}
    (powered : st ≠ .off → (p.slots.get (portSlot x)).power = .powered)
    (draw : st.draw ≤ (p.ports.get x).draw) : (p.putPort x st).Sound :=
  h.putPort (d := 0) powered draw h.within

/-! ### A slot leaves POWERING or POWERED (R83) -/

/-- All ports of a slot are OFF. -/
def Power.offPorts (p : Power) (i : Slot) : Power :=
  { p with ports := p.ports.mapIdx fun k st => if k / 32 = i.val then .off else st }

theorem portsOff_power (i : Slot) (s : State) : (portsOff i s).power = s.power.offPorts i := by
  unfold portsOff; dsimp only; split_ifs <;> simp [Power.offPorts]

theorem Power.offPorts_get (p : Power) (i : Slot) (x : Port) :
    (p.offPorts i).ports.get x = if portSlot x = i then .off else p.ports.get x := by
  have same : portSlot x = i ↔ x.val / 32 = i.val := Fin.ext_iff
  simp [Power.offPorts, Vector.get_eq_getElem, same]

theorem leaveDraw_power (i : Slot) (st : SlotPower) (s : State) : (leaveDraw i st s).power
    = (s.power.putSlot i { s.slotRec i with power := st }).offPorts i := by
  unfold leaveDraw
  dsimp only
  rw [portsOff_power]
  split <;> simp [setSlotPower_power]

/-- The records after a slot has left POWERING or POWERED for a state. -/
def Power.left (p : Power) (i : Slot) (r : SlotRec) : Power := (p.putSlot i r).offPorts i

theorem Power.left_slots (p : Power) (i : Slot) (r : SlotRec) :
    (p.left i r).slots = (p.putSlot i r).slots := rfl

theorem slotDraw_left_le {p : Power} {i : Slot} {r : SlotRec} (idle : r.power.drawing = false) (j : Slot) :
    slotDraw (p.left i r) j ≤ slotDraw p j := by
  by_cases e : j = i
  · subst e
    rw [slotDraw_idle (by simpa [Power.left_slots] using idle)]
    exact Nat.zero_le _
  · have sums : portDraws (p.left i r) j ≤ portDraws p j :=
      portDraws_le fun x hx => by
        have other : portSlot x ≠ i := fun h => e (hx ▸ h)
        rw [Power.left, Power.offPorts_get, if_neg other, Power.putSlot_ports]
    rw [slotDraw_eq, slotDraw_eq, Power.left_slots, p.putSlot_ne r e]
    split
    · omega
    · exact le_rfl

theorem demand_left_le {p : Power} {i : Slot} {r : SlotRec} (idle : r.power.drawing = false) :
    demand (p.left i r) ≤ demand p := demand_le_of_slots fun j => slotDraw_left_le idle j

theorem Power.LaidOut.left {p : Power} (h : p.LaidOut) {i : Slot} {r : SlotRec}
    (empty : r.power = .empty ↔ r.card = none) (priority : r.priority ≤ 3) : (p.left i r).LaidOut := by
  refine ⟨fun j => ?_, fun x hx => ?_, fun j => ?_⟩ <;> rw [Power.left_slots]
  · by_cases e : j = i
    · subst e; simpa using empty
    · rw [p.putSlot_ne r e]; exact h.empty j
  · rw [Power.left, Power.offPorts_get] at hx
    split at hx
    · exact absurd rfl hx
    · rename_i other
      rw [p.putSlot_ne r other]
      exact h.powered x hx
  · by_cases e : j = i
    · subst e; simpa using priority
    · rw [p.putSlot_ne r e]; exact h.priority j

theorem Power.Sound.left {p : Power} (h : p.Sound) {i : Slot} {r : SlotRec}
    (empty : r.power = .empty ↔ r.card = none) (idle : r.power.drawing = false)
    (priority : r.priority ≤ 3) : (p.left i r).Sound :=
  ⟨h.toLaidOut.left empty priority, (demand_left_le idle).trans h.within⟩

/-! ### A recompute leaves the relation (R74 to R77) -/

theorem demand_formBudget (p : Power) : demand (formBudget p) = demand p := rfl

theorem Power.LaidOut.formBudget {p : Power} (h : p.LaidOut) : (formBudget p).LaidOut :=
  ⟨h.empty, h.powered, h.priority⟩

/-- The shed order holds every slot that draws (R75). -/
theorem mem_shedOrder {p : Power} (h : p.LaidOut) {i : Slot} :
    i ∈ shedOrder p ↔ (p.slots.get i).power.drawing = true := by
  have priority := h.priority i
  have four : ∀ n : Nat, n ≤ 3 → n = 0 ∨ n = 1 ∨ n = 2 ∨ n = 3 := by omega
  simp only [shedOrder, List.flatMap_cons, List.flatMap_nil, List.mem_append, List.mem_filter,
    List.mem_reverse, mem_allSlots, true_and, Bool.and_eq_true, decide_eq_true_eq]
  rcases four _ priority with e | e | e | e <;> simp [e]

/-- The admission order holds the DENIED slots (R76). -/
theorem mem_admitOrder {p : Power} {i : Slot} (h : i ∈ admitOrder p) :
    (p.slots.get i).power.isDenied = true := by
  obtain ⟨n, _, hn⟩ := List.mem_flatMap.1 h
  exact (Bool.and_eq_true_iff.1 (List.mem_filter.1 hn).2).2

/-! The cards stay as they are throughout. -/

theorem leaveDraw_self (i : Slot) (st : SlotPower) (s : State) :
    (leaveDraw i st s).slotRec i = { s.slotRec i with power := st } := by
  rw [State.slotRec, leaveDraw_power]
  exact Power.putSlot_self _ _ _

theorem leaveDraw_ne {i j : Slot} (st : SlotPower) (s : State) (h : j ≠ i) :
    (leaveDraw i st s).slotRec j = s.slotRec j := by
  rw [State.slotRec, leaveDraw_power]
  exact Power.putSlot_ne _ _ h

theorem leaveDraw_card (i j : Slot) (st : SlotPower) (s : State) :
    ((leaveDraw i st s).slotRec j).card = (s.slotRec j).card := by
  by_cases e : j = i
  · subst e; rw [leaveDraw_self]
  · rw [leaveDraw_ne st s e]

theorem shedPass_card (is : List Slot) (j : Slot) (s : State) :
    ((shedPass is s).1.slotRec j).card = (s.slotRec j).card := by
  induction is generalizing s with
  | nil => rfl
  | cons i is ih =>
    unfold shedPass; split
    · rfl
    · exact (ih _).trans (leaveDraw_card _ _ _ _)

/-- A shed pass over slots with a card, ahead of which every other slot draws nothing, brings the demand
within the budget. -/
theorem shedPass_sound (is : List Slot) : ∀ s : State, s.power.LaidOut →
    (∀ i ∈ is, (s.slotRec i).card ≠ none) → (∀ i, i ∉ is → (s.slotRec i).power.drawing = false) →
    (shedPass is s).1.power.Sound := by
  induction is with
  | nil =>
    intro s laid _ idle
    have zero : demand s.power = 0 := by
      rw [demand_eq_sum]
      exact Finset.sum_eq_zero fun i _ => slotDraw_idle (idle i List.not_mem_nil)
    exact ⟨laid, zero.trans_le (Nat.zero_le _)⟩
  | cons i is ih =>
    intro s laid carded idle
    unfold shedPass
    split
    · rename_i within
      exact ⟨laid, within⟩
    · refine ih _ ?_ (fun j hj => ?_) fun j hj => ?_
      · rw [leaveDraw_power]
        exact laid.left (by simp [carded i List.mem_cons_self]) (laid.priority i)
      · rw [leaveDraw_card]
        exact carded j (List.mem_cons_of_mem _ hj)
      · by_cases e : j = i
        · subst e; rw [leaveDraw_self]; rfl
        · rw [leaveDraw_ne _ _ e]
          exact idle j fun k => (List.mem_cons.1 k).elim e hj

/-- A slot that waits for admission, or was admitted in this pass. -/
def SlotPower.admissible : SlotPower → Bool
  | .denied _ | .powering _ => true
  | _ => false

theorem SlotPower.admissible_ne {st : SlotPower} (h : st.admissible = true) :
    st ≠ .empty ∧ st ≠ .powered := by cases st <;> simp_all [SlotPower.admissible]

theorem admitSlot_power (i : Slot) (s : State) : (admitSlot i s).power
    = if fits s.power (s.slotRec i).base then
        s.power.putSlot i { s.slotRec i with power := .powering (timeAfter s.time 1000) }
      else s.power := by
  unfold admitSlot; split <;> simp [setSlotPower_power]

theorem admitSlot_sound {i : Slot} {s : State} (h : s.power.Sound)
    (waits : (s.slotRec i).power.admissible = true) : (admitSlot i s).power.Sound := by
  obtain ⟨full, out⟩ := SlotPower.admissible_ne waits
  rw [admitSlot_power]
  split
  · rename_i fit
    have card : (s.slotRec i).card ≠ none := h.toLaidOut.carded full
    refine h.putSlot (d := (s.slotRec i).base) (by simp [card]) (fun e => absurd e out) (h.priority i) ?_
      (of_decide_eq_true fit)
    have off : portDraws s.power i = 0 := portDraws_off fun x hx => h.toLaidOut.ports_off out hx
    rw [slotDraw_putSlot_self, off]
    show (s.slotRec i).base + 0 ≤ _
    omega
  · exact h

theorem admitSlot_card (i j : Slot) (s : State) :
    ((admitSlot i s).slotRec j).card = (s.slotRec j).card := by
  rw [State.slotRec, admitSlot_power]
  split
  · by_cases e : j = i
    · subst e; rw [Power.putSlot_self]
    · rw [Power.putSlot_ne _ _ e]; rfl
  · rfl

theorem admitSlot_admissible (i : Slot) {j : Slot} {s : State}
    (h : (s.slotRec j).power.admissible = true) : ((admitSlot i s).slotRec j).power.admissible = true := by
  rw [State.slotRec, admitSlot_power]
  split
  · by_cases e : j = i
    · subst e; rw [Power.putSlot_self]; rfl
    · rw [Power.putSlot_ne _ _ e]; exact h
  · exact h

theorem admitSlots_sound (is : List Slot) : ∀ s : State, s.power.Sound →
    (∀ i ∈ is, (s.slotRec i).power.admissible = true) →
    (is.foldl (fun t i => admitSlot i t) s).power.Sound := by
  induction is with
  | nil => exact fun s h _ => h
  | cons i is ih =>
    exact fun s h waits => ih (admitSlot i s) (admitSlot_sound h (waits i List.mem_cons_self))
      fun j hj => admitSlot_admissible i (waits j (List.mem_cons_of_mem _ hj))

theorem admitPort_sound {x : Port} {s : State} (h : s.power.Sound) : (admitPort x s).power.Sound := by
  unfold admitPort
  split
  · rename_i c held
    split
    · rename_i fit
      rw [setPort_power]
      refine h.putPort (d := c.draw) (fun _ => h.powered x (by simp [held])) ?_ (of_decide_eq_true fit)
      exact Nat.le_add_left _ _
    · exact h
  · exact h

theorem admitPort_slots (x : Port) (s : State) : (admitPort x s).power.slots = s.power.slots := by
  unfold admitPort
  repeat' split
  all_goals simp [setPort_power]

theorem admitPorts_sound (xs : List Port) : ∀ s : State, s.power.Sound →
    (xs.foldl (fun t x => admitPort x t) s).power.Sound := by
  induction xs with
  | nil => exact fun s h => h
  | cons x xs ih => exact fun s h => ih (admitPort x s) (admitPort_sound h)

theorem admissionPass_sound {s : State} (h : s.power.Sound) : (admissionPass s).power.Sound := by
  refine admitPorts_sound _ _ (admitSlots_sound (admitOrder s.power) s h fun i hi => ?_)
  have denied : (s.slotRec i).power.isDenied = true := mem_admitOrder hi
  cases e : (s.slotRec i).power <;> simp_all [SlotPower.isDenied, SlotPower.admissible]

/-- A walk whose every turn keeps a slot's card keeps it. -/
theorem foldl_card {α : Type} (f : State → α → State) (j : Slot)
    (turn : ∀ t x, ((f t x).slotRec j).card = (t.slotRec j).card) (xs : List α) (s : State) :
    ((xs.foldl f s).slotRec j).card = (s.slotRec j).card := by
  induction xs generalizing s with
  | nil => rfl
  | cons x xs ih => exact (ih _).trans (turn s x)

theorem admissionPass_card (j : Slot) (s : State) :
    ((admissionPass s).slotRec j).card = (s.slotRec j).card :=
  (foldl_card _ j (fun t x => by rw [State.slotRec, admitPort_slots]; rfl) _ _).trans
    (foldl_card _ j (fun t i => admitSlot_card i j t) _ _)

theorem foldl_power {α : Type} (f : State → α → State) (turn : ∀ t x, (f t x).power = t.power)
    (xs : List α) (s : State) : (xs.foldl f s).power = s.power := by
  induction xs generalizing s with
  | nil => rfl
  | cons x xs ih => exact (ih _).trans (turn s x)

theorem handOn_power (k : RecomputeKind) (left shed : List Slot) (s : State) :
    (handOn k left shed s).power = { s.power with lastKind := k, lastTime := s.time } := by
  have leaves := foldl_power (fun t i => slotLeft i t) (fun t i => slotLeft_power i t) left s
  have raises := foldl_power (fun t i => eventSettled .budgetShed (i.val + 1) t)
    (fun t i => eventSettled_power _ _ t) shed (left.foldl (fun t i => slotLeft i t) s)
  unfold handOn
  simp only [State.modPower_power, evalTight_power, tellDemand_power]
  rw [raises, leaves]

theorem Power.Sound.stamped {p : Power} (h : p.Sound) (k : RecomputeKind) (t : Time) :
    { p with lastKind := k, lastTime := t : Power }.Sound := ⟨⟨h.empty, h.powered, h.priority⟩, h.within⟩

/-- Whatever the budget was, after a recompute the demand is within it. -/
theorem recompute_sound {s : State} (h : s.power.LaidOut) : (recompute s).power.Sound := by
  have laid : (s.modPower formBudget).power.LaidOut := h.formBudget
  unfold recompute recomputeShed
  dsimp only
  split
  · rw [handOn_power]
    refine Power.Sound.stamped (shedPass_sound _ _ laid (fun i hi => laid.carded fun e => ?_)
      fun i hi => Bool.eq_false_of_not_eq_true (mt (mem_shedOrder laid).2 hi)) _ _
    have drawing := (mem_shedOrder laid).1 hi
    rw [e] at drawing
    cases drawing
  · rename_i fit
    rw [handOn_power]
    exact (admissionPass_sound ⟨laid, Nat.not_lt.1 fit⟩).stamped _ _

theorem recompute_card (j : Slot) (s : State) :
    ((recompute s).slotRec j).card = (s.slotRec j).card := by
  unfold recompute recomputeShed State.slotRec
  dsimp only
  split <;> rw [handOn_power]
  · exact shedPass_card _ j _
  · exact admissionPass_card j _

end Sys2Proof.Machine
end

