-- ==== Sys2Proof/Proofs/ZoneTables.lean ====
section
/-! SUPPORT. What keeps the three zone levels in order (R120, R122): the engine leaves them alone, and each edit
of staging, the commit, the activation and the abort leave ordered tables. -/

namespace Sys2Proof.Machine

/-- Where the three levels and the transaction are the same, so is their order. -/
theorem zonesInOrder_congr {s t : State} (staging : t.zone.staging = s.zone.staging)
    (txn : t.zone.txn = s.zone.txn) (pending : t.zone.pending = s.zone.pending)
    (active : t.zone.active = s.zone.active) (h : s.zonesInOrder) : t.zonesInOrder := by
  unfold State.zonesInOrder
  rwa [staging, txn, pending, active]

/-- Staging takes an ordered table while a transaction is not CLOSED. -/
theorem zonesInOrder_staging {s : State} {tbl : ZoneTable} {x : ZoneTxn} (h : s.zonesInOrder)
    (ordered : tbl.inOrder) (closed : x = .closed → tbl = []) :
    (s.modZone fun z => { z with staging := tbl, txn := x }).zonesInOrder := by
  obtain ⟨-, -, pending, active, full⟩ := h
  exact ⟨ordered, closed, pending, active, full⟩

theorem inOrder_nil : ZoneTable.inOrder [] := ⟨List.Pairwise.nil, by simp, by simp [entryCount]⟩

theorem inOrder_ascending {tbl : ZoneTable} (h : tbl.inOrder) : tbl.ascending :=
  (List.pairwise_map (f := Zone.number) (R := (· < ·))).1 h.1

/-! ### Member entries (R123) -/

@[simp] theorem entryCount_cons (z : Zone) (tbl : ZoneTable) :
    entryCount (z :: tbl) = z.members.length + entryCount tbl := by simp [entryCount]

theorem entryCount_filter_le (f : Zone → Bool) (tbl : ZoneTable) :
    entryCount (tbl.filter f) ≤ entryCount tbl := by
  induction tbl with
  | nil => simp
  | cons z tbl ih =>
    rw [List.filter_cons]
    split <;> simp only [entryCount_cons] <;> omega

/-- A zone of a new number adds its members. -/
theorem entryCount_insertZone_new (x : Zone) : ∀ tbl : ZoneTable, (∀ y ∈ tbl, y.number ≠ x.number) →
    entryCount (insertZone x tbl) = x.members.length + entryCount tbl
  | [], _ => by simp [insertZone]
  | a :: tbl, h => by
    have fresh : x.number ≠ a.number := fun e => h a List.mem_cons_self e.symm
    have ih := entryCount_insertZone_new x tbl fun y hy => h y (List.mem_cons_of_mem _ hy)
    simp only [insertZone, if_neg fresh]
    split
    · simp only [entryCount_cons]
    · simp only [entryCount_cons]; omega

/-- A zone that takes the place of one of its number replaces its members. -/
theorem entryCount_insertZone_replace (x z : Zone) : ∀ tbl : ZoneTable, tbl.ascending → z ∈ tbl →
    z.number = x.number →
    entryCount (insertZone x tbl) + z.members.length = x.members.length + entryCount tbl
  | [], _, hz, _ => absurd hz List.not_mem_nil
  | a :: tbl, h, hz, e => by
    obtain ⟨above, rest⟩ := List.pairwise_cons.1 h
    rcases List.mem_cons.1 hz with rfl | hz
    · have here : ¬ x.number < z.number := fun lt => by rw [e] at lt; exact lt_irrefl _ lt
      simp only [insertZone, if_neg here, if_pos e.symm, entryCount_cons]
      omega
    · have lt : a.number.val < x.number.val := e ▸ above z hz
      have here : ¬ x.number < a.number := fun k => by
        have : x.number.val < a.number.val := k
        omega
      have other : x.number ≠ a.number := fun k => by rw [k] at lt; omega
      have ih := entryCount_insertZone_replace x z tbl rest hz e
      simp only [insertZone, if_neg here, if_neg other, entryCount_cons]
      omega

/-! ### The zone of a number -/

theorem zoneAt_none {tbl : ZoneTable} {n : Fin 256} (h : zoneAt tbl n = none) :
    ∀ y ∈ tbl, y.number ≠ n := fun y hy => by simpa using List.find?_eq_none.1 h y hy

theorem zoneAt_some {tbl : ZoneTable} {n : Fin 256} {z : Zone} (h : zoneAt tbl n = some z) :
    z ∈ tbl ∧ z.number = n :=
  ⟨List.mem_of_find?_eq_some h, by simpa using List.find?_some h⟩

/-! ### Tables after an edit -/

theorem insertZone_inOrder {tbl : ZoneTable} {x : Zone} (h : tbl.inOrder) (hx : x.inOrder)
    (count : entryCount (insertZone x tbl) ≤ 4096) : (insertZone x tbl).inOrder := by
  obtain ⟨ascending, members⟩ := insertZone_spec x tbl (inOrder_ascending h)
  refine ⟨List.pairwise_map.2 ascending, fun y hy => ?_, count⟩
  rcases (members y).1 hy with rfl | ⟨hy, -⟩
  · exact hx
  · exact h.2.1 y hy

theorem filter_inOrder {tbl : ZoneTable} (f : Zone → Bool) (h : tbl.inOrder) :
    ZoneTable.inOrder (tbl.filter f) :=
  ⟨h.1.sublist (List.filter_sublist.map _), fun z hz => h.2.1 z (List.mem_filter.1 hz).1,
    (entryCount_filter_le f tbl).trans h.2.2⟩

/-- A zone just created has no members (R128). -/
theorem bareZone_inOrder {n : Fin 256} {k : ZoneKind} {code : Byte} (h : zoneKindOf code = some k) :
    (⟨n, k, []⟩ : Zone).inOrder := by
  have none : (⟨n, k, []⟩ : Zone).principals = [] := by
    unfold zoneKindOf at h
    split at h <;> cases h <;> rfl
  unfold Zone.inOrder
  rw [none]
  simp

/-- A port that a member list holds already changes nothing. -/
theorem insertPort_mem (p : Port) : ∀ ps : List Port, ps.Pairwise (· < ·) → p ∈ ps → insertPort p ps = ps
  | [], _, h => absurd h List.not_mem_nil
  | a :: ps, h, hp => by
    obtain ⟨above, rest⟩ := List.pairwise_cons.1 h
    rcases List.mem_cons.1 hp with rfl | hp
    · simp [insertPort]
    · have lt : a < p := above p hp
      simp only [insertPort, if_neg (not_lt.2 lt.le), if_neg lt.ne']
      rw [insertPort_mem p ps rest hp]

theorem insertPort_length_le (p : Port) (ps : List Port) : (insertPort p ps).length ≤ ps.length + 1 := by
  induction ps with
  | nil => simp [insertPort]
  | cons a ps ih =>
    simp only [insertPort]
    split_ifs <;> simp only [List.length_cons] <;> omega

theorem addMember_principals (z : Zone) (code : PrincipalCode) (p : Port) :
    (z.addMember code p).principals = z.principals
      ∨ (z.addMember code p).principals = insertPort p z.principals
      ∨ (z.addMember code p).principals = z.principals.filter fun q => q ≠ p := by
  obtain ⟨n, k, ms⟩ := z
  cases k with
  | standard => exact .inl rfl
  | peer ps =>
    cases code with
    | notGiven => exact .inl rfl
    | principal => exact .inr (.inl rfl)
    | ordinary => exact .inr (.inr rfl)

/-- A zone keeps its order when it takes a member, if it holds the port or has room for it (R130). -/
theorem addMember_inOrder {z : Zone} (h : z.inOrder) (code : PrincipalCode) {p : Port}
    (room : p ∈ z.members ∨ z.members.length < 64) : (z.addMember code p).inOrder := by
  obtain ⟨members, size, principals, among⟩ := h
  obtain ⟨members', mem⟩ := insertPort_spec p z.members members
  have size' : (insertPort p z.members).length ≤ 64 := by
    rcases room with held | room
    · rwa [insertPort_mem p _ members held]
    · exact (insertPort_length_le p _).trans room
  refine ⟨members', size', ?_⟩
  show (z.addMember code p).principals.Pairwise (· < ·)
    ∧ ∀ q ∈ (z.addMember code p).principals, q ∈ insertPort p z.members
  rcases addMember_principals z code p with e | e | e <;> rw [e]
  · exact ⟨principals, fun q hq => (mem q).2 (.inr (among q hq))⟩
  · obtain ⟨ordered, held⟩ := insertPort_spec p z.principals principals
    exact ⟨ordered, fun q hq => (mem q).2 (((held q).1 hq).imp_right (among q))⟩
  · exact ⟨principals.sublist List.filter_sublist,
      fun q hq => (mem q).2 (.inr (among q (List.mem_filter.1 hq).1))⟩

theorem removeMember_principals (z : Zone) (p : Port) :
    (z.removeMember p).principals = z.principals.filter fun q => q ≠ p := by
  obtain ⟨n, k, ms⟩ := z
  cases k <;> rfl

/-- A zone keeps its order when it loses a member, which is no principal then either (R131). -/
theorem removeMember_inOrder {z : Zone} (h : z.inOrder) (p : Port) : (z.removeMember p).inOrder := by
  obtain ⟨members, size, principals, among⟩ := h
  refine ⟨members.sublist List.filter_sublist,
    (List.length_filter_le (fun q => q ≠ p) z.members).trans size, ?_⟩
  show (z.removeMember p).principals.Pairwise (· < ·)
    ∧ ∀ q ∈ (z.removeMember p).principals, q ∈ z.members.filter fun q => q ≠ p
  rw [removeMember_principals]
  refine ⟨principals.sublist List.filter_sublist, fun q hq => ?_⟩
  obtain ⟨held, other⟩ := List.mem_filter.1 hq
  exact List.mem_filter.2 ⟨among q held, other⟩

/-- The table after ADD MEMBER, which the checks of R130 have let pass. -/
theorem addMember_table {tbl : ZoneTable} {n : Fin 256} {z : Zone} (h : tbl.inOrder)
    (hz : zoneAt tbl n = some z) (code : PrincipalCode) {p : Port}
    (room : p ∈ z.members ∨ z.members.length < 64 ∧ entryCount tbl < 4096) :
    (insertZone (z.addMember code p) tbl).inOrder := by
  obtain ⟨held, -⟩ := zoneAt_some hz
  have zone := h.2.1 z held
  refine insertZone_inOrder h (addMember_inOrder zone code (room.imp_right And.left)) ?_
  have count : entryCount (insertZone (z.addMember code p) tbl) + z.members.length
      = (insertPort p z.members).length + entryCount tbl :=
    entryCount_insertZone_replace _ z tbl (inOrder_ascending h) held rfl
  have bound := h.2.2
  rcases room with member | ⟨-, room⟩
  · rw [insertPort_mem p _ zone.1 member] at count
    omega
  · have := insertPort_length_le p z.members
    omega

theorem removeMember_table {tbl : ZoneTable} {n : Fin 256} {z : Zone} (h : tbl.inOrder)
    (hz : zoneAt tbl n = some z) (p : Port) : (insertZone (z.removeMember p) tbl).inOrder := by
  obtain ⟨held, -⟩ := zoneAt_some hz
  refine insertZone_inOrder h (removeMember_inOrder (h.2.1 z held) p) ?_
  have count : entryCount (insertZone (z.removeMember p) tbl) + z.members.length
      = (z.members.filter fun q => q ≠ p).length + entryCount tbl :=
    entryCount_insertZone_replace _ z tbl (inOrder_ascending h) held rfl
  have fewer := List.length_filter_le (fun q => decide (q ≠ p)) z.members
  have bound := h.2.2
  omega

theorem createZone_table {tbl : ZoneTable} {n : Fin 256} {k : ZoneKind} {code : Byte} (h : tbl.inOrder)
    (free : zoneAt tbl n = none) (kind : zoneKindOf code = some k) :
    (insertZone ⟨n, k, []⟩ tbl).inOrder := by
  refine insertZone_inOrder h (bareZone_inOrder kind) ?_
  rw [entryCount_insertZone_new _ _ (zoneAt_none free)]
  simpa using h.2.2

/-- An edit of staging by R128 to R131 runs while the transaction is OPEN. -/
theorem zonesInOrder_edit {s : State} {tbl : ZoneTable} (h : s.zonesInOrder)
    (opened : notOpen s.zone.txn = none) (ordered : tbl.inOrder) : (putStaging tbl s).zonesInOrder :=
  zonesInOrder_staging (x := s.zone.txn) h ordered fun e => by rw [e] at opened; cases opened

theorem whenOpen_keeps {P : State → Prop} {s : State} {counts : List Byte} {edit : State × Took}
    (h : P s) (k : notOpen s.zone.txn = none → P edit.1) : P (whenOpen s counts edit).1 := by
  unfold whenOpen; split
  · exact h
  · rename_i e; exact k e

theorem createZone_zonesInOrder {zone : BitVec 16} {kind : Byte} {s : State} (h : s.zonesInOrder) :
    (createZone zone kind s).1.zonesInOrder := by
  refine whenOpen_keeps h fun opened => ?_
  split
  · rename_i kind
    split
    · exact h
    · rename_i free
      refine zonesInOrder_edit h opened (createZone_table h.1 ?_ kind)
      simpa using free
  · exact h

theorem deleteZone_zonesInOrder {zone : BitVec 16} {s : State} (h : s.zonesInOrder) :
    (deleteZone zone s).1.zonesInOrder := by
  refine whenOpen_keeps h fun opened => ?_
  repeat' split
  · exact h
  · exact h
  · exact zonesInOrder_edit h opened (filter_inOrder _ h.1)

theorem addMember_zonesInOrder {zone port : BitVec 16} {principal : Byte} {s : State}
    (h : s.zonesInOrder) : (addMember zone port principal s).1.zonesInOrder := by
  refine whenOpen_keeps h fun opened => ?_
  split
  · rename_i p code _ _ _
    split
    · exact h
    · rename_i z at_n
      dsimp only
      split_ifs with standard full
      · exact h
      · exact h
      · refine zonesInOrder_edit h opened (addMember_table h.1 at_n code ?_)
        by_cases member : p ∈ z.members
        · exact .inl member
        · simp [member] at full
          exact .inr full
  · exact h

theorem removeMember_zonesInOrder {zone port : BitVec 16} {s : State} (h : s.zonesInOrder) :
    (removeMember zone port s).1.zonesInOrder := by
  refine whenOpen_keeps h fun opened => ?_
  split
  · rename_i p _ _
    split
    · exact h
    · rename_i z at_n
      split_ifs
      · exact zonesInOrder_edit h opened (removeMember_table h.1 at_n p)
      · exact h
  · exact h

/-! ### Transactions, the commit and what follows -/

theorem closeTxn_zonesInOrder {s : State} (h : s.zonesInOrder) : (closeTxn s).zonesInOrder :=
  zonesInOrder_staging h inOrder_nil fun _ => rfl

theorem beginZoneEdit_zonesInOrder {c : Cp} {mode : Byte} {s : State} (h : s.zonesInOrder) :
    (beginZoneEdit c mode s).1.zonesInOrder := by
  unfold beginZoneEdit
  dsimp only
  split
  · exact h
  · rename_i m _
    split
    · cases m with
      | fromActive => exact zonesInOrder_staging h h.2.2.2.1 nofun
      | empty => exact zonesInOrder_staging h inOrder_nil nofun
    · exact h

/-- A transaction that is not CLOSED takes another state that is not. -/
theorem zonesInOrder_txn {s : State} {x : ZoneTxn} (h : s.zonesInOrder) (opened : x ≠ .closed) :
    (s.modZone fun z => { z with txn := x }).zonesInOrder :=
  zonesInOrder_staging (tbl := s.zone.staging) h h.1 fun e => absurd e opened

theorem adoptTxn_zonesInOrder {c : Cp} {epoch : BitVec 32} {s : State} (h : s.zonesInOrder) :
    (adoptTxn c epoch s).zonesInOrder := by
  unfold adoptTxn; split
  · exact zonesInOrder_txn h nofun
  · exact h

theorem holdTxn_zonesInOrder {s : State} (h : s.zonesInOrder) : (holdTxn s).zonesInOrder := by
  unfold holdTxn; split
  · exact zonesInOrder_txn h nofun
  · exact h

theorem discardTxn_zonesInOrder {s : State} (h : s.zonesInOrder) : (discardTxn s).zonesInOrder := by
  unfold discardTxn; split
  · exact closeTxn_zonesInOrder h
  · exact h

/-- A pending level of ordered zones with members replaces the one before it. -/
theorem zonesInOrder_pending {s : State} {l : Level} (h : s.zonesInOrder) (ordered : l.table.inOrder)
    (full : ∀ z ∈ l.table, z.members ≠ []) :
    (s.modZone fun z => { z with pending := some l }).zonesInOrder := by
  obtain ⟨staging, closed, -, active⟩ := h
  exact ⟨staging, closed, fun _ e => by cases e; exact ⟨ordered, full⟩, active⟩

theorem withoutEmpty_full (tbl : ZoneTable) : ∀ z ∈ withoutEmpty tbl, z.members ≠ [] := by
  intro z hz e
  have := (List.mem_filter.1 hz).2
  simp [e] at this

/-- The commit copies staging less its empty zones (R122, R141). -/
theorem committed_zonesInOrder {s : State} (g : BitVec 16) (h : s.zonesInOrder) :
    (closeTxn (s.modZone fun z =>
      { z with pending := some ⟨withoutEmpty s.zone.staging, g⟩ })).zonesInOrder :=
  closeTxn_zonesInOrder (zonesInOrder_pending h (filter_inOrder _ h.1) (withoutEmpty_full _))

/-- The activation makes the pending level the active one (R150). -/
theorem activated_zonesInOrder {s : State} {l : Level} (h : s.zonesInOrder)
    (pending : s.zone.pending = some l) :
    (s.modZone fun z => { z with active := l, pending := none, hold := none, main := .idle }).zonesInOrder := by
  obtain ⟨staging, closed, levels, -⟩ := h
  obtain ⟨ordered, full⟩ := levels l pending
  exact ⟨staging, closed, nofun, ordered, full⟩

/-- The abort drops the pending level (R152). -/
theorem aborted_zonesInOrder {s : State} (h : s.zonesInOrder) :
    (s.modZone fun z => { z with pending := none, hold := none, main := .idle }).zonesInOrder := by
  obtain ⟨staging, closed, -, active⟩ := h
  exact ⟨staging, closed, nofun, active⟩

end Sys2Proof.Machine
end

