-- ==== Sys2Proof/Proofs/UpheldRecords.lean ====
section
/-! SUPPORT. The slot and port records and the zone tables under every operation of a block: each keeps the
cards, the agreement of the records with the budget, and the order of the tables. -/

namespace Sys2Proof.Machine

/-- From the first state to the second the cards are the same, and what R74, R78, R84 and R122 say is kept. -/
structure Upholds (s t : State) : Prop where
  power : s.power.Sound → t.power.Sound
  card : ∀ i, (t.slotRec i).card = (s.slotRec i).card
  zones : s.zonesInOrder → t.zonesInOrder

section
variable {s t : State}

@[simp] theorem upholds_refl (s : State) : Upholds s s := ⟨id, fun _ => rfl, id⟩

theorem Upholds.trans {u : State} (h : Upholds s t) (k : Upholds t u) : Upholds s u :=
  ⟨k.power ∘ h.power, fun i => (k.card i).trans (h.card i), k.zones ∘ h.zones⟩

/-- Nothing is lost where the power and zoning records are the same. -/
theorem upholds_same {u : State} (h : Upholds s t) (power : u.power = t.power) (zone : u.zone = t.zone) :
    Upholds s u :=
  h.trans ⟨fun k => power ▸ k, fun i => by rw [State.slotRec, power]; rfl,
    zonesInOrder_congr (by rw [zone]) (by rw [zone]) (by rw [zone]) (by rw [zone])⟩

/-- A change of the zoning records that keeps the order of the tables. -/
theorem upholds_zones {u : State} (h : Upholds s t) (power : u.power = t.power)
    (zones : t.zonesInOrder → u.zonesInOrder) : Upholds s u :=
  h.trans ⟨fun k => power ▸ k, fun i => by rw [State.slotRec, power]; rfl, zones⟩

/-- A change of the power records that keeps their agreement and the cards. -/
theorem upholds_power {u : State} (h : Upholds s t) (sound : t.power.Sound → u.power.Sound)
    (card : ∀ i, (u.slotRec i).card = (t.slotRec i).card) (zone : u.zone = t.zone) : Upholds s u :=
  h.trans ⟨sound, card, zonesInOrder_congr (by rw [zone]) (by rw [zone]) (by rw [zone]) (by rw [zone])⟩

theorem upholds_foldl {α : Type} (f : State → α → State)
    (hf : ∀ u x, Upholds s u → Upholds s (f u x)) (xs : List α) :
    ∀ t, Upholds s t → Upholds s (xs.foldl f t) := by
  induction xs with
  | nil => exact fun _ h => h
  | cons x xs ih => exact fun t h => ih _ (hf t x h)

/-! ### Blocks that hold neither record -/

@[simp] theorem upholds_modBus (f : Bus → Bus) (h : Upholds s t) : Upholds s (t.modBus f) :=
  upholds_same h rfl rfl

@[simp] theorem upholds_modCool (f : Cooling → Cooling) (h : Upholds s t) : Upholds s (t.modCool f) :=
  upholds_same h rfl rfl

@[simp] theorem upholds_modAlarm (f : Alarm → Alarm) (h : Upholds s t) : Upholds s (t.modAlarm f) :=
  upholds_same h rfl rfl

@[simp] theorem upholds_modAuth (f : Authority → Authority) (h : Upholds s t) :
    Upholds s (t.modAuth f) := upholds_same h rfl rfl

@[simp] theorem upholds_modLic (f : License → License) (h : Upholds s t) : Upholds s (t.modLic f) :=
  upholds_same h rfl rfl

@[simp] theorem upholds_modLink (c : Cp) (f : LinkPort → LinkPort) (h : Upholds s t) :
    Upholds s (t.modLink c f) := upholds_same h rfl rfl

@[simp] theorem upholds_joinClass1 (e : Class1) (h : Upholds s t) : Upholds s (joinClass1 e t) :=
  upholds_same h rfl rfl

@[simp] theorem upholds_joinHeld (f : HeldField) (h : Upholds s t) : Upholds s (joinHeld f t) :=
  upholds_same h (by simp) (by simp)

@[simp] theorem upholds_recomputeDuty (h : Upholds s t) : Upholds s (recomputeDuty t) :=
  upholds_same h (by simp) (by simp)

@[simp] theorem upholds_giveDemand (d : Nat) (h : Upholds s t) : Upholds s (giveDemand d t) := by
  simp [giveDemand, h]

@[simp] theorem upholds_reevaluate (h : Upholds s t) : Upholds s (reevaluate t) :=
  upholds_same h (by simp) (by simp)

@[simp] theorem upholds_occurEvent (c : AlarmClass) (n : Nat) (i : Bool) (h : Upholds s t) :
    Upholds s (occurEvent c n i t) := upholds_same h (by simp) (by simp)

@[simp] theorem upholds_occurForced (c : AlarmClass) (n : Nat) (v : Bool) (h : Upholds s t) :
    Upholds s (occurForced c n v t) := upholds_same h (by simp) (by simp)

@[simp] theorem upholds_handCondition (c : AlarmClass) (n : Nat) (h : Upholds s t) :
    Upholds s (handCondition c n t) := upholds_same h (by simp) (by simp)

@[simp] theorem upholds_handSettled (c : AlarmClass) (n : Nat) (h : Upholds s t) :
    Upholds s (handSettled c n t) := by unfold handSettled; split <;> simp [h]

@[simp] theorem upholds_eventSettled (c : AlarmClass) (n : Nat) (h : Upholds s t) :
    Upholds s (eventSettled c n t) := by unfold eventSettled; split <;> simp [h]

@[simp] theorem upholds_clearService (c : Cp) (h : Upholds s t) : Upholds s (clearService c t) :=
  upholds_same h (by simp) (by simp)

@[simp] theorem upholds_setPresence (c : Cp) (p : Presence) (h : Upholds s t) :
    Upholds s (setPresence c p t) := upholds_same h (by simp) (by simp)

/-- An alarm request changes alarm records alone, and may re-evaluate. -/
theorem upholds_onlyAlarm {u : State} (k : OnlyAlarm t u) (h : Upholds s t) : Upholds s u :=
  upholds_same h (by rw [k]; rfl) (by rw [k]; rfl)

@[simp] theorem upholds_fetchNotice (c : Cp) (h : Upholds s t) : Upholds s (fetchNotice c t).1 := by
  unfold fetchNotice; split
  · exact h
  · exact upholds_reevaluate (upholds_onlyAlarm (by simp) h)

@[simp] theorem upholds_retireNotice (c : Cp) (h : Upholds s t) : Upholds s (retireNotice c t).1 := by
  unfold retireNotice; dsimp only; split <;> simp [h]

@[simp] theorem upholds_setAlarmMask (c : Cp) (flags : Vector Byte 20) (h : Upholds s t) :
    Upholds s (setAlarmMask c flags t).1 := by simp [setAlarmMask, h]

@[simp] theorem upholds_setAlarmLevel (cls level : Byte) (h : Upholds s t) :
    Upholds s (setAlarmLevel cls level t).1 := by unfold setAlarmLevel; split <;> simp [h]

@[simp] theorem upholds_setAlarmRoute (cls route : Byte) (h : Upholds s t) :
    Upholds s (setAlarmRoute cls route t).1 := by
  unfold setAlarmRoute; dsimp only
  repeat' split
  all_goals simp [h]

@[simp] theorem upholds_injectAlarm (cls : Byte) (n : BitVec 16) (h : Upholds s t) :
    Upholds s (injectAlarm cls n t).1 := by
  unfold injectAlarm
  repeat' split
  all_goals simp [h]

@[simp] theorem upholds_withdrawInjection (cls : Byte) (n : BitVec 16) (h : Upholds s t) :
    Upholds s (withdrawInjection cls n t).1 := by
  unfold withdrawInjection
  repeat' split
  all_goals simp [h]

@[simp] theorem upholds_readAlarm (cls : Byte) (n : BitVec 16) (h : Upholds s t) :
    Upholds s (readAlarm cls n t).1 := by
  unfold readAlarm
  repeat' split
  all_goals exact h

@[simp] theorem upholds_releaseHistoryHalf (half : Byte) (h : Upholds s t) :
    Upholds s (releaseHistoryHalf half t).1 := by
  unfold releaseHistoryHalf; dsimp only
  repeat' split
  all_goals simp [h]

@[simp] theorem upholds_readHistory (half first count : Byte) (h : Upholds s t) :
    Upholds s (readHistory half first count t).1 := by
  unfold readHistory; dsimp only
  repeat' split
  all_goals exact h

/-! ### The Distribution Engine leaves the tables alone -/

@[simp] theorem upholds_modZone (f : Zoning → Zoning)
    (tables : ∀ z, (f z).staging = z.staging ∧ (f z).txn = z.txn ∧ (f z).pending = z.pending
      ∧ (f z).active = z.active) (h : Upholds s t) : Upholds s (t.modZone f) :=
  upholds_zones h rfl
    (zonesInOrder_congr (s := t) (tables _).1 (tables _).2.1 (tables _).2.2.1 (tables _).2.2.2)

@[simp] theorem upholds_modZoneSlot (i : Slot) (f : ZoneSlot → ZoneSlot) (h : Upholds s t) :
    Upholds s (modZoneSlot i f t) := by simp [modZoneSlot, h]

@[simp] theorem upholds_modZoneSlots (f : ZoneSlot → ZoneSlot) (h : Upholds s t) :
    Upholds s (modZoneSlots f t) := by simp [modZoneSlots, h]

@[simp] theorem upholds_requestLoad (h : Upholds s t) : Upholds s (requestLoad t) := by
  unfold requestLoad
  repeat' split
  all_goals simp [h]

@[simp] theorem upholds_beginLoad (i : Slot) (m : Bool) (h : Upholds s t) :
    Upholds s (beginLoad i m t) := by simp [beginLoad, h]

@[simp] theorem upholds_judgeComplete (h : Upholds s t) : Upholds s (judgeComplete t) := by
  unfold judgeComplete
  repeat' split
  all_goals simp [h]

@[simp] theorem upholds_serveCatchUp (h : Upholds s t) : Upholds s (serveCatchUp t) := by
  unfold serveCatchUp
  repeat' split
  all_goals simp [h]

@[simp] theorem upholds_goOn (h : Upholds s t) : Upholds s (goOn t) := by
  unfold goOn
  repeat' split
  all_goals simp [h]

@[simp] theorem upholds_endJob (h : Upholds s t) : Upholds s (endJob t) := by simp [endJob, h]

@[simp] theorem upholds_awaitAck (i : Slot) (h : Upholds s t) : Upholds s (awaitAck i t) := by
  simp [awaitAck, h]

@[simp] theorem upholds_endCatchUp (i : Slot) (r : CatchUpResult) (h : Upholds s t) :
    Upholds s (endCatchUp i r t) := by simp (maxDischargeDepth := 9) [endCatchUp, h]

@[simp] theorem upholds_failCatchUp (i : Slot) (h : Upholds s t) : Upholds s (failCatchUp i t) := by
  simp (maxDischargeDepth := 9) [failCatchUp, h]

@[simp] theorem upholds_failSlot (i : Slot) (h : Upholds s t) : Upholds s (failSlot i t) := by
  simp [failSlot, h]

@[simp] theorem upholds_loadingEnded (ignored : Bool) (e : BusEnd) (h : Upholds s t) :
    Upholds s (loadingEnded ignored e t) := by
  unfold loadingEnded
  repeat' split
  all_goals simp (maxDischargeDepth := 9) [h]

@[simp] theorem upholds_ackValue (i : Slot) (v : BitVec 16) (h : Upholds s t) :
    Upholds s (ackValue i v t) := by
  unfold ackValue; dsimp only
  repeat' split
  all_goals simp (maxDischargeDepth := 9) [h]

@[simp] theorem upholds_judgeAckDeadline (i : Slot) (h : Upholds s t) :
    Upholds s (judgeAckDeadline i t) := by
  unfold judgeAckDeadline
  repeat' split
  all_goals simp (maxDischargeDepth := 9) [h]

@[simp] theorem upholds_judgeAckDeadlines (h : Upholds s t) : Upholds s (judgeAckDeadlines t) :=
  upholds_foldl _ (fun _ _ k => upholds_judgeAckDeadline _ k) _ _ h

@[simp] theorem upholds_pulseEnded (i : Slot) (ignored : Bool) (e : BusEnd) (h : Upholds s t) :
    Upholds s (pulseEnded i ignored e t) := by
  unfold pulseEnded
  repeat' split
  all_goals simp (maxDischargeDepth := 9) [h]

@[simp] theorem upholds_slotLeft (i : Slot) (h : Upholds s t) : Upholds s (slotLeft i t) := by
  simp (maxDischargeDepth := 9) [slotLeft, h]

@[simp] theorem upholds_slotEntered (i : Slot) (h : Upholds s t) : Upholds s (slotEntered i t) := by
  simp [slotEntered, h]

@[simp] theorem upholds_startMain (hold : Bool) (h : Upholds s t) : Upholds s (startMain hold t) := by
  unfold startMain
  simp [upholds_foldl _ (fun _ _ k => upholds_modZoneSlot _ _ k) _ _ h]

@[simp] theorem upholds_activateFieldEnded (e : BusEnd) (h : Upholds s t) :
    Upholds s (activateFieldEnded e t) := by unfold activateFieldEnded; split <;> simp [h]

@[simp] theorem upholds_activate (h : Upholds s t) : Upholds s (activate t) := by
  unfold activate; split
  · exact h
  · rename_i l pending
    exact upholds_goOn (upholds_occurEvent _ _ _ (upholds_zones
      (upholds_modZoneSlots (fun r => { r with status := none }) h) rfl
      fun k => activated_zonesInOrder k pending))

@[simp] theorem upholds_strobeEnded (e : BusEnd) (h : Upholds s t) : Upholds s (strobeEnded e t) := by
  unfold strobeEnded; split <;> simp [h]

@[simp] theorem upholds_activateZones (h : Upholds s t) : Upholds s (activateZones t).1 := by
  unfold activateZones; dsimp only; split <;> simp [h]

@[simp] theorem upholds_retryDistribution (h : Upholds s t) : Upholds s (retryDistribution t).1 := by
  unfold retryDistribution; split <;> simp (maxDischargeDepth := 9) [h]

@[simp] theorem upholds_stopMainLoad (h : Upholds s t) : Upholds s (stopMainLoad t) := by
  unfold stopMainLoad
  repeat' split
  all_goals simp (maxDischargeDepth := 9) [h]

@[simp] theorem upholds_abort (h : Upholds s t) : Upholds s (abort t) := by
  have walked := upholds_foldl (fun u i => modZoneSlot i (abortSlot t i) u)
    (fun _ _ k => upholds_modZoneSlot _ _ k) allSlots _ (upholds_stopMainLoad h)
  exact upholds_goOn (upholds_zones walked (State.modZone_power _ _) aborted_zonesInOrder)

@[simp] theorem upholds_abortDistribution (h : Upholds s t) : Upholds s (abortDistribution t).1 := by
  unfold abortDistribution; split <;> simp [h]

@[simp] theorem upholds_queryReach (p q : BitVec 16) (h : Upholds s t) :
    Upholds s (queryReach p q t).1 := by
  unfold queryReach; dsimp only; split <;> exact h

/-! ### The Zone Store -/

theorem whenOpen_power {counts : List Byte} {edit : State × Took} (h : edit.1.power = s.power) :
    (whenOpen s counts edit).1.power = s.power := by
  unfold whenOpen; split
  · rfl
  · exact h

@[simp] theorem upholds_closeTxn (h : Upholds s t) : Upholds s (closeTxn t) :=
  upholds_zones h rfl closeTxn_zonesInOrder

@[simp] theorem upholds_beginZoneEdit (c : Cp) (m : Byte) (h : Upholds s t) :
    Upholds s (beginZoneEdit c m t).1 := by
  refine upholds_zones h ?_ beginZoneEdit_zonesInOrder
  unfold beginZoneEdit; dsimp only
  repeat' split
  all_goals rfl

@[simp] theorem upholds_cancelZoneEdit (h : Upholds s t) : Upholds s (cancelZoneEdit t).1 := by
  unfold cancelZoneEdit; split <;> simp [h]

@[simp] theorem upholds_createZone (z : BitVec 16) (k : Byte) (h : Upholds s t) :
    Upholds s (createZone z k t).1 := by
  refine upholds_zones h (whenOpen_power ?_) createZone_zonesInOrder
  repeat' split
  all_goals rfl

@[simp] theorem upholds_deleteZone (z : BitVec 16) (h : Upholds s t) :
    Upholds s (deleteZone z t).1 := by
  refine upholds_zones h (whenOpen_power ?_) deleteZone_zonesInOrder
  repeat' split
  all_goals rfl

@[simp] theorem upholds_addMember (z p : BitVec 16) (k : Byte) (h : Upholds s t) :
    Upholds s (addMember z p k t).1 := by
  refine upholds_zones h (whenOpen_power ?_) addMember_zonesInOrder
  dsimp only
  repeat' split
  all_goals rfl

@[simp] theorem upholds_removeMember (z p : BitVec 16) (h : Upholds s t) :
    Upholds s (removeMember z p t).1 := by
  refine upholds_zones h (whenOpen_power ?_) removeMember_zonesInOrder
  repeat' split
  all_goals rfl

@[simp] theorem upholds_commitZones (hold : Byte) (h : Upholds s t) :
    Upholds s (commitZones hold t).1 := by
  unfold commitZones; dsimp only
  repeat' split
  all_goals first | exact h | exact upholds_zones h rfl fun k => zonesInOrder_txn (s := t) k nofun

@[simp] theorem upholds_completeCommit (h : Upholds s t) : Upholds s (completeCommit t).1 := by
  unfold completeCommit; split
  · exact upholds_startMain _ (upholds_zones h rfl (committed_zonesInOrder _))
  · exact h

@[simp] theorem upholds_readZone (l : Byte) (z : BitVec 16) (p : Byte) (h : Upholds s t) :
    Upholds s (readZone l z p t).1 := by
  unfold readZone
  repeat' split
  all_goals exact h

@[simp] theorem upholds_adoptTxn (c : Cp) (e : BitVec 32) (h : Upholds s t) :
    Upholds s (adoptTxn c e t) := upholds_zones h (by simp) adoptTxn_zonesInOrder

@[simp] theorem upholds_discardTxn (h : Upholds s t) : Upholds s (discardTxn t) :=
  upholds_zones h (by simp) discardTxn_zonesInOrder

@[simp] theorem upholds_holdTxn (h : Upholds s t) : Upholds s (holdTxn t) :=
  upholds_zones h (by simp) holdTxn_zonesInOrder

/-! ### The Authority Unit -/

@[simp] theorem upholds_handPeer (c : Cp) (h : Upholds s t) : Upholds s (handPeer c t) := by
  simp [handPeer, h]

@[simp] theorem upholds_fallSilent (c : Cp) (h : Upholds s t) : Upholds s (fallSilent c t) := by
  simp [fallSilent, h]

@[simp] theorem upholds_resolveDeparted (c : Option Cp) (h : Upholds s t) :
    Upholds s (resolveDeparted c t) := by
  unfold resolveDeparted removeDeparted; dsimp only
  repeat' split
  all_goals simp [h]

@[simp] theorem upholds_createDeparted (c : Cp) (e : BitVec 32) (k : Cause) (h : Upholds s t) :
    Upholds s (createDeparted c e k t) := by
  unfold createDeparted; dsimp only
  repeat' split
  all_goals simp [h]

@[simp] theorem upholds_moveAuthority (c : Option Cp) (k : Cause) (h : Upholds s t) :
    Upholds s (moveAuthority c k t) := by
  unfold moveAuthority setHolder; dsimp only
  split <;> simp (maxDischargeDepth := 9) [h]

@[simp] theorem upholds_changeHolder (c : Option Cp) (k : Cause) (h : Upholds s t) :
    Upholds s (changeHolder c k t) := by simp [changeHolder, h]

@[simp] theorem upholds_peerExpiry (c : Cp) (h : Upholds s t) : Upholds s (peerExpiry c t) := by
  unfold peerExpiry; split <;> simp [h]

@[simp] theorem upholds_holderExpiry (h : Upholds s t) : Upholds s (holderExpiry t) := by
  unfold holderExpiry; dsimp only
  repeat' split
  all_goals simp [h]

@[simp] theorem upholds_presenceUp (c : Cp) (h : Upholds s t) : Upholds s (presenceUp c t) := by
  simp [presenceUp, h]

@[simp] theorem upholds_presenceDown (c : Cp) (h : Upholds s t) : Upholds s (presenceDown c t) := by
  unfold presenceDown; dsimp only
  split <;> simp (maxDischargeDepth := 9) [h]

@[simp] theorem upholds_takeHeartbeat (c : Cp) (h : Upholds s t) : Upholds s (takeHeartbeat c t) := by
  simp [takeHeartbeat, h]

@[simp] theorem upholds_claimAuthority (c : Cp) (e : BitVec 32) (h : Upholds s t) :
    Upholds s (claimAuthority c e t).1 := by
  unfold claimAuthority; dsimp only
  repeat' split
  all_goals simp [h]

@[simp] theorem upholds_yieldAuthority (c : Cp) (h : Upholds s t) :
    Upholds s (yieldAuthority c t).1 := by simp [yieldAuthority, h]

@[simp] theorem upholds_takeOver (c : Cp) (e : BitVec 32) (h : Upholds s t) :
    Upholds s (takeOver c e t).1 := by
  unfold takeOver; dsimp only
  repeat' split
  all_goals simp [h]

@[simp] theorem upholds_adoptDeparted (c : Cp) (h : Upholds s t) :
    Upholds s (adoptDeparted c t).1 := by
  unfold adoptDeparted removeDeparted
  repeat' split
  all_goals simp [h]

@[simp] theorem upholds_discardDeparted (h : Upholds s t) : Upholds s (discardDeparted t).1 := by
  unfold discardDeparted removeDeparted
  repeat' split
  all_goals simp [h]

@[simp] theorem upholds_writeHandover (c : Cp) (f n : Byte) (ws : List (BitVec 32))
    (h : Upholds s t) : Upholds s (writeHandover c f n ws t).1 := by
  unfold writeHandover; dsimp only
  repeat' split
  all_goals simp [h]

@[simp] theorem upholds_readHandover (x f n : Byte) (h : Upholds s t) :
    Upholds s (readHandover x f n t).1 := by
  unfold readHandover; dsimp only
  repeat' split
  all_goals exact h

/-! ### The Power Budget Unit -/

@[simp] theorem upholds_evalTight (h : Upholds s t) : Upholds s (evalTight t) := by simp [evalTight, h]

@[simp] theorem upholds_tellDemand (h : Upholds s t) : Upholds s (tellDemand t) := by
  simp [tellDemand, h]

@[simp] theorem upholds_handSlotFault (i : Slot) (h : Upholds s t) : Upholds s (handSlotFault i t) := by
  simp [handSlotFault, h]

theorem setPort_slotRec (x : Port) (st : PortPower) (i : Slot) (u : State) :
    (setPort x st u).slotRec i = u.slotRec i := by
  rw [State.slotRec, setPort_power]; rfl

@[simp] theorem setPort_zone (x : Port) (st : PortPower) (u : State) : (setPort x st u).zone = u.zone := by
  unfold setPort; dsimp only; split <;> simp

/-- A port of a POWERED slot takes a state that fits, or any port one that draws no more. -/
theorem upholds_setPort {x : Port} {st : PortPower} {d : Nat} (h : Upholds s t)
    (powered : t.power.Sound → st ≠ .off → t.isPowered (portSlot x) = true)
    (draw : st.draw ≤ (t.power.ports.get x).draw + d)
    (fits : d = 0 ∨ demand t.power + d ≤ t.power.avail) : Upholds s (setPort x st t) := by
  refine upholds_power h (fun k => ?_) (fun i => by rw [setPort_slotRec]) (by simp)
  rw [setPort_power]
  refine k.putPort (fun on => of_decide_eq_true (powered k on)) draw ?_
  rcases fits with rfl | fits
  · exact k.within
  · exact fits

/-- What a sound state says of a port that is not OFF. -/
theorem Power.Sound.isPowered {u : State} (k : u.power.Sound) {x : Port} (on : u.power.ports.get x ≠ .off) :
    u.isPowered (portSlot x) = true := decide_eq_true (k.powered x on)

theorem upholds_setPort_off (x : Port) (h : Upholds s t) : Upholds s (setPort x .off t) :=
  upholds_setPort (d := 0) h (fun _ off => absurd rfl off) (Nat.zero_le _) (.inl rfl)

/-- A port is tested on a POWERED slot. -/
theorem upholds_testPort {x : Port} (c : PortClass) (h : Upholds s t)
    (powered : t.power.Sound → t.isPowered (portSlot x) = true) : Upholds s (testPort x c t) := by
  unfold testPort
  refine upholds_evalTight ?_
  split
  · rename_i fit
    exact upholds_tellDemand (upholds_setPort (d := c.draw) h (fun k _ => powered k)
      (Nat.le_add_left _ _) (.inr (of_decide_eq_true fit)))
  · exact upholds_setPort (d := 0) h (fun k _ => powered k) (Nat.zero_le _) (.inl rfl)

@[simp] theorem upholds_takeGrant (x : Port) (c : PortClass) (h : Upholds s t) :
    Upholds s (takeGrant x c t) := by
  unfold takeGrant; split
  · rename_i up
    exact upholds_testPort c h fun _ => (Bool.and_eq_true_iff.1 up).1
  · exact h

@[simp] theorem upholds_takeRelease (x : Port) (h : Upholds s t) : Upholds s (takeRelease x t).1 := by
  unfold takeRelease; dsimp only
  split <;> simp [upholds_setPort_off x h]

@[simp] theorem upholds_takeRegrade (x : Port) (c : PortClass) (h : Upholds s t) :
    Upholds s (takeRegrade x c t).1 := by
  unfold takeRegrade
  split
  · exact upholds_evalTight h
  · rename_i old held
    exact upholds_evalTight (upholds_setPort (d := 0) h (fun k _ => k.isPowered (by simp [held]))
      (Nat.zero_le _) (.inl rfl))
  · rename_i old enabled
    have powered (k : t.power.Sound) : t.isPowered (portSlot x) = true := k.isPowered (by simp [enabled])
    split_ifs with lower fit
    · refine upholds_evalTight (upholds_tellDemand
        (upholds_setPort (d := 0) h (fun k _ => powered k) ?_ (.inl rfl)))
      rw [enabled]
      exact lower
    · refine upholds_evalTight (upholds_tellDemand
        (upholds_setPort (d := c.draw - old.draw) h (fun k _ => powered k) ?_
          (.inr (of_decide_eq_true fit))))
      rw [enabled]
      show c.draw ≤ old.draw + (c.draw - old.draw)
      omega
    · exact upholds_evalTight (upholds_tellDemand
        (upholds_setPort (d := 0) h (fun k _ => powered k) (Nat.zero_le _) (.inl rfl)))

/-! ### Recomputes -/

@[simp] theorem setSlotPower_zone (i : Slot) (st : SlotPower) (u : State) :
    (setSlotPower i st u).zone = u.zone := rfl

@[simp] theorem leaveDraw_zone (i : Slot) (st : SlotPower) (u : State) :
    (leaveDraw i st u).zone = u.zone := by
  unfold leaveDraw portsOff; dsimp only
  repeat' split
  all_goals simp

theorem shedPass_zone (is : List Slot) : ∀ u : State, (shedPass is u).1.zone = u.zone := by
  induction is with
  | nil => exact fun _ => rfl
  | cons i is ih =>
    intro u
    unfold shedPass; split
    · rfl
    · exact (ih _).trans (leaveDraw_zone _ _ _)

theorem foldl_zone {α : Type} (f : State → α → State) (turn : ∀ u x, (f u x).zone = u.zone)
    (xs : List α) (u : State) : (xs.foldl f u).zone = u.zone := by
  induction xs generalizing u with
  | nil => rfl
  | cons x xs ih => exact (ih _).trans (turn u x)

theorem admitSlot_zone (i : Slot) (u : State) : (admitSlot i u).zone = u.zone := by
  unfold admitSlot; split <;> simp

theorem admitPort_zone (x : Port) (u : State) : (admitPort x u).zone = u.zone := by
  unfold admitPort
  repeat' split
  all_goals simp

theorem admissionPass_zone (u : State) : (admissionPass u).zone = u.zone :=
  (foldl_zone _ (fun v x => admitPort_zone x v) _ _).trans
    (foldl_zone _ (fun v i => admitSlot_zone i v) _ _)

@[simp] theorem upholds_handOn (k : RecomputeKind) (left shed : List Slot) (h : Upholds s t) :
    Upholds s (handOn k left shed t) := by
  have leaves := upholds_foldl _ (fun _ i k => upholds_slotLeft i k) left _ h
  have raises := upholds_foldl (fun u i => eventSettled .budgetShed (i.val + 1) u)
    (fun _ i k => upholds_eventSettled _ _ k) shed _ leaves
  exact upholds_power (upholds_evalTight (upholds_tellDemand raises)) (·.stamped k t.time) (fun _ => rfl) rfl

/-- What the passes of a recompute leave the Zoning Unit with is what its hand-on does. -/
theorem recomputeShed_zones (h : t.zonesInOrder) : (recomputeShed t).1.zonesInOrder := by
  have same {u : State} (zone : u.zone = t.zone) : u.zonesInOrder :=
    zonesInOrder_congr (by rw [zone]) (by rw [zone]) (by rw [zone]) (by rw [zone]) h
  unfold recomputeShed; dsimp only; split
  · exact (upholds_handOn _ _ _ (upholds_refl _)).zones (same (shedPass_zone _ _))
  · exact (upholds_handOn _ _ _ (upholds_refl _)).zones (same (admissionPass_zone _))

@[simp] theorem upholds_recomputeShed (h : Upholds s t) : Upholds s (recomputeShed t).1 :=
  h.trans ⟨fun k => recompute_sound k.toLaidOut, fun i => recompute_card i t, recomputeShed_zones⟩

@[simp] theorem upholds_recompute (h : Upholds s t) : Upholds s (recompute t) := upholds_recomputeShed h

end

end Sys2Proof.Machine
end

