-- ==== Sys2Proof/Proofs/UpheldChassis.lean ====
section
/-! SUPPORT. The slot and port records and the zone tables under the requests and events of power, licenses,
slots, supplies and trays, and under every request that a block serves. -/

namespace Sys2Proof.Machine

section
variable {s t : State}

/-! ### Slots outside a recompute -/

theorem carded_slotRec {u : State} (k : u.power.Sound) {i : Slot} (full : (u.slotRec i).power ≠ .empty) :
    (u.slotRec i).card ≠ none := k.toLaidOut.carded full

/-- A slot's settings change, not its card or its power state. -/
theorem upholds_modSlot {i : Slot} (f : SlotRec → SlotRec) (h : Upholds s t)
    (same : (f (t.slotRec i)).card = (t.slotRec i).card ∧ (f (t.slotRec i)).power = (t.slotRec i).power)
    (priority : (t.slotRec i).priority ≤ 3 → (f (t.slotRec i)).priority ≤ 3) :
    Upholds s (modSlot i f t) := by
  obtain ⟨card, power⟩ := same
  refine upholds_power h (fun k => ?_) (fun j => ?_) rfl
  · rw [modSlot_power]
    refine k.putSlot (d := 0) (by rw [card, power]; exact k.empty i) (fun e => power.trans e)
      (priority (k.priority i)) ?_ k.within
    have base : (f (t.slotRec i)).base = (t.slotRec i).base := by rw [SlotRec.base, card]; rfl
    rw [slotDraw_putSlot_self, power, base, slotDraw_eq]
    exact le_rfl
  · by_cases e : j = i
    · subst e
      rw [State.slotRec, modSlot_power, Power.putSlot_self, card]
    · rw [State.slotRec, modSlot_power, Power.putSlot_ne _ _ e]
      rfl

/-- A slot that is neither EMPTY nor POWERED takes a state that draws nothing. -/
theorem upholds_setIdle {i : Slot} {st : SlotPower} (h : Upholds s t)
    (full : (t.slotRec i).power ≠ .empty) (out : (t.slotRec i).power ≠ .powered) (filled : st ≠ .empty)
    (idle : st.drawing = false) : Upholds s (setSlotPower i st t) := by
  refine upholds_power h (fun k => ?_) (fun j => ?_) rfl
  · rw [setSlotPower_power]
    exact k.putIdle (by simp [filled, carded_slotRec k full]) out idle (k.priority i)
  · by_cases e : j = i
    · subst e
      rw [State.slotRec, setSlotPower_power, Power.putSlot_self]
    · rw [State.slotRec, setSlotPower_power, Power.putSlot_ne _ _ e]
      rfl

/-- A slot with a card leaves POWERING or POWERED. -/
theorem upholds_leaveDraw {i : Slot} {st : SlotPower} (h : Upholds s t)
    (full : (t.slotRec i).power ≠ .empty) (filled : st ≠ .empty) (idle : st.drawing = false) :
    Upholds s (leaveDraw i st t) := by
  refine upholds_power h (fun k => ?_) (fun j => leaveDraw_card i j st t) (leaveDraw_zone i st t)
  rw [leaveDraw_power]
  exact k.left (by simp [filled, carded_slotRec k full]) idle (k.priority i)

/-- What follows the draw when a slot leaves POWERING or POWERED outside a recompute. -/
theorem upholds_leavePower {i : Slot} {st : SlotPower} (h : Upholds s (leaveDraw i st t)) :
    Upholds s (leavePower i st t) := by
  unfold leavePower
  refine upholds_evalTight ?_
  split
  · exact upholds_slotLeft i (upholds_tellDemand h)
  · exact upholds_tellDemand h

theorem leavePower_power (i : Slot) (st : SlotPower) (u : State) :
    (leavePower i st u).power = (leaveDraw i st u).power := by
  unfold leavePower
  dsimp only
  split <;> simp

theorem upholds_moveSlot {i : Slot} {st : SlotPower} (h : Upholds s t)
    (full : (t.slotRec i).power ≠ .empty) (out : (t.slotRec i).power ≠ .powered) (filled : st ≠ .empty)
    (idle : st.drawing = false) : Upholds s (moveSlot i st t) :=
  upholds_recompute (upholds_evalTight (upholds_handSlotFault i (upholds_setIdle h full out filled idle)))

@[simp] theorem upholds_slotOff (i : Slot) (h : Upholds s t) : Upholds s (slotOff i t) := by
  unfold slotOff
  split
  · exact h
  · exact h
  · rename_i e; exact upholds_moveSlot h (by rw [e]; nofun) (by rw [e]; nofun) nofun rfl
  · rename_i e; exact upholds_moveSlot h (by rw [e]; nofun) (by rw [e]; nofun) nofun rfl
  · rename_i e
    exact upholds_recompute (upholds_leavePower (upholds_leaveDraw h (by rw [e]; nofun) nofun rfl))
  · rename_i e
    exact upholds_recompute (upholds_leavePower (upholds_leaveDraw h (by rw [e]; nofun) nofun rfl))

@[simp] theorem upholds_slotOn (i : Slot) (h : Upholds s t) : Upholds s (slotOn i t) := by
  unfold slotOn
  split
  · rename_i e; exact upholds_moveSlot h (by rw [e]; nofun) (by rw [e]; nofun) nofun rfl
  · rename_i e; exact upholds_moveSlot h (by rw [e]; nofun) (by rw [e]; nofun) nofun rfl
  all_goals exact h

@[simp] theorem upholds_slotPower (x a : Byte) (h : Upholds s t) : Upholds s (slotPower x a t).1 := by
  unfold slotPower
  split
  · exact h
  · rename_i i _
    split
    · exact h
    · rename_i on _
      have k : Upholds s (modSlot i (fun r => { r with admin := on }) t) :=
        upholds_modSlot _ h ⟨rfl, rfl⟩ id
      dsimp only
      split
      · exact upholds_slotOn i k
      · exact upholds_slotOff i k

@[simp] theorem upholds_setShedPriority (x p : Byte) (h : Upholds s t) :
    Upholds s (setShedPriority x p t).1 := by
  unfold setShedPriority
  split
  · exact h
  · split_ifs with high same
    · exact h
    · exact h
    · exact upholds_recompute (upholds_modSlot _ h ⟨rfl, rfl⟩ fun _ => Nat.not_lt.1 high)

/-- A change of the budget's inputs alone, ahead of a recompute. -/
theorem upholds_inputs {u : State} (h : Upholds s t) (slots : u.power.slots = t.power.slots)
    (ports : u.power.ports = t.power.ports) (zone : u.zone = t.zone) : Upholds s (recomputeShed u).1 := by
  refine h.trans ⟨fun k => recompute_sound ⟨?_, ?_, ?_⟩, fun i => ?_, fun k => recomputeShed_zones ?_⟩
  · rw [slots]; exact k.empty
  · rw [slots, ports]; exact k.powered
  · rw [slots]; exact k.priority
  · exact (recompute_card i u).trans (by rw [State.slotRec, slots]; rfl)
  · exact zonesInOrder_congr (by rw [zone]) (by rw [zone]) (by rw [zone]) (by rw [zone]) k

@[simp] theorem upholds_setReservePolicy (p : Byte) (h : Upholds s t) :
    Upholds s (setReservePolicy p t).1 := by
  unfold setReservePolicy
  dsimp only
  split
  · exact h
  · split
    · exact h
    · exact upholds_inputs h rfl rfl rfl

@[simp] theorem upholds_coolingNotice (h : Upholds s t) : Upholds s (coolingNotice t) :=
  upholds_inputs h rfl rfl rfl

@[simp] theorem upholds_readSlot (x : Byte) (h : Upholds s t) : Upholds s (readSlot x t).1 := by
  unfold readSlot; split <;> exact h

/-! ### The notices of the License Unit -/

@[simp] theorem upholds_takeNotice (n : Notice) (h : Upholds s t) : Upholds s (takeNotice n t).1 := by
  cases n <;> simp [takeNotice, h]

theorem upholds_takeAll (ns : List Notice) : ∀ t, Upholds s t → Upholds s (takeAll ns t).1 := by
  induction ns with
  | nil => exact fun _ h => h
  | cons n ns ih => exact fun t h => ih _ (upholds_takeNotice n h)

@[simp] theorem upholds_handNotices (ns : List Notice) (h : Upholds s t) :
    Upholds s (handNotices ns t) := by
  unfold handNotices; dsimp only; split <;> simp [upholds_takeAll ns t h]

/-! ### The License Unit -/

@[simp] theorem upholds_grantPort (p : Port) (c : PortClass) (h : Upholds s t) :
    Upholds s (grantPort p c t) := by simp [grantPort, joinClassField, h]

@[simp] theorem upholds_releasePort (p : Port) (h : Upholds s t) : Upholds s (releasePort p t) := by
  simp [releasePort, joinClassField, h]

@[simp] theorem upholds_regradePort (p : Port) (c : PortClass) (h : Upholds s t) :
    Upholds s (regradePort p c t) := by simp [regradePort, joinClassField, h]

@[simp] theorem upholds_queuePort (p : Port) (h : Upholds s t) : Upholds s (queuePort p t) :=
  upholds_modLic _ h

@[simp] theorem upholds_unqueuePort (p : Port) (h : Upholds s t) : Upholds s (unqueuePort p t) :=
  upholds_modLic _ h

@[simp] theorem upholds_modPort (p : Port) (f : PortConfig → PortConfig) (h : Upholds s t) :
    Upholds s (modPort p f t) := upholds_modLic _ h

theorem upholds_serve (ps : List Port) : ∀ t, Upholds s t → Upholds s (serve ps t).1 := by
  induction ps with
  | nil => exact fun _ h => h
  | cons p ps ih =>
    intro t h
    unfold serve
    repeat' split
    · exact h
    · exact ih _ (by simp [h])
    · exact h

@[simp] theorem upholds_serveAfter (l : License) (h : Upholds s t) : Upholds s (serveAfter l t).1 := by
  unfold serveAfter; split
  · exact upholds_serve _ _ h
  · exact h

@[simp] theorem upholds_endStep (l : License) (ns : List Notice) (h : Upholds s t) :
    Upholds s (endStep l ns t).1 := by simp (maxDischargeDepth := 9) [endStep, h]

@[simp] theorem upholds_installEntitlement (e : Entitlement) (h : Upholds s t) :
    Upholds s (installEntitlement e t).1 := by
  unfold installEntitlement; dsimp only; split <;> simp [h]

/-- A change of the license lists and of class 1 alone. -/
theorem upholds_onlyLicJoin {u : State} (k : OnlyLicJoin t u) (h : Upholds s t) : Upholds s u :=
  upholds_same h (by rw [k]; rfl) (by rw [k]; rfl)

@[simp] theorem upholds_raiseRevoked (ps : List Port) (h : Upholds s t) :
    Upholds s (raiseRevoked ps t) := upholds_foldl _ (fun _ _ k => upholds_occurEvent _ _ _ k) _ _ h

@[simp] theorem upholds_removeEntitlement (id : BitVec 32) (h : Upholds s t) :
    Upholds s (removeEntitlement id t).1 := by
  unfold removeEntitlement
  dsimp only
  split
  · refine upholds_handCondition _ _ (upholds_raiseRevoked _ (upholds_handNotices _
      (upholds_serveAfter _ (upholds_onlyLicJoin (revoke_spec _ _).1 ?_))))
    exact upholds_onlyLicJoin (onlyLicJoin_regradeByCeiling _ _) (upholds_modLic _ h)
  · exact h

@[simp] theorem upholds_requestLicense (p : Port) (h : Upholds s t) :
    Upholds s (requestLicense p t).1 := by
  unfold requestLicense
  repeat' split
  all_goals simp [h]

@[simp] theorem upholds_portUp (p : Port) (c : PortClass) (h : Upholds s t) :
    Upholds s (portUp p c t).1 := by
  unfold portUp upGranted; dsimp only
  repeat' split
  all_goals simp [h]

@[simp] theorem upholds_portDown (p : Port) (h : Upholds s t) : Upholds s (portDown p t).1 := by
  unfold portDown; dsimp only
  split <;> simp [h]

@[simp] theorem upholds_adminPort (up : Bool) (c : PortClass) (p : Port) (h : Upholds s t) :
    Upholds s (adminPort up c p t).1 := by
  unfold adminPort; dsimp only; split <;> simp [h]

theorem upholds_adminPorts (up : Bool) (c : PortClass) (ps : List (Port × Bool)) :
    ∀ t, Upholds s t → Upholds s (adminPorts up c ps t).1 := by
  induction ps with
  | nil => exact fun _ h => h
  | cons x ps ih =>
    intro t h
    unfold adminPorts; dsimp only
    exact ih _ (by split <;> simp [h])

@[simp] theorem upholds_portAdmin (g m a c : Byte) (h : Upholds s t) :
    Upholds s (portAdmin g m a c t).1 := by
  unfold portAdmin; dsimp only
  repeat' split
  · exact h
  · exact upholds_adminPorts _ _ _ _ h
  · exact h

@[simp] theorem upholds_licenseRise (i : Slot) (h : Upholds s t) : Upholds s (licenseRise i t) := by
  refine upholds_foldl _ (fun u p k => ?_) _ _ h
  unfold riseStep; split <;> simp [k]

theorem upholds_losePorts (ps : List Port) : ∀ t, Upholds s t → Upholds s (losePorts ps t).1 := by
  induction ps with
  | nil => exact fun _ h => h
  | cons p ps ih =>
    refine fun t h => ih _ ?_
    unfold losePort; split <;> simp [h]

@[simp] theorem upholds_licenseLoss (i : Slot) (h : Upholds s t) : Upholds s (licenseLoss i t) := by
  simp [licenseLoss, upholds_losePorts _ _ h]

@[simp] theorem upholds_readPortGroup (g : Byte) (h : Upholds s t) :
    Upholds s (readPortGroup g t).1 := by unfold readPortGroup; split <;> exact h

@[simp] theorem upholds_readGrantList (p : BitVec 16) (h : Upholds s t) :
    Upholds s (readGrantList p t).1 := by unfold readGrantList; split <;> exact h

@[simp] theorem upholds_readWaitQueue (p : BitVec 16) (h : Upholds s t) :
    Upholds s (readWaitQueue p t).1 := by unfold readWaitQueue; split <;> exact h

/-! ### Slot events -/

@[simp] theorem upholds_raiseSlotChange (i : Slot) (h : Upholds s t) :
    Upholds s (raiseSlotChange i t) := by simp [raiseSlotChange, h]

theorem slotDraw_setSlotPower (i : Slot) (st : SlotPower) (u : State) :
    slotDraw (setSlotPower i st u).power i
      = if st.drawing then (u.slotRec i).base + portDraws u.power i else 0 := by
  rw [setSlotPower_power, slotDraw_putSlot_self]
  rfl

theorem slotDraw_setPowered {i : Slot} {u : State} (h : (u.slotRec i).power.drawing = true) :
    slotDraw (setSlotPower i .powered u).power i = slotDraw u.power i := by
  have before : slotDraw u.power i = (u.slotRec i).base + portDraws u.power i :=
    (slotDraw_eq u.power i).trans (if_pos h)
  have after : slotDraw (setSlotPower i .powered u).power i = (u.slotRec i).base + portDraws u.power i :=
    (slotDraw_setSlotPower i .powered u).trans (if_pos (by rfl))
  rw [before, after]

/-- A slot in POWERING becomes POWERED, at the same draw. -/
theorem upholds_setPowered {i : Slot} {d : Time} (h : Upholds s t) (e : (t.slotRec i).power = .powering d) :
    Upholds s (setSlotPower i .powered t) := by
  refine upholds_power h (fun k => ?_) (fun j => ?_) rfl
  · have full : (t.slotRec i).power ≠ .empty := by rw [e]; nofun
    have same : slotDraw (setSlotPower i .powered t).power i = slotDraw t.power i :=
      slotDraw_setPowered (by rw [e]; rfl)
    exact k.putSlot (d := 0) (iff_of_false nofun (carded_slotRec k full)) (fun _ => rfl)
      (k.priority i) same.le k.within
  · by_cases ne : j = i
    · subst ne
      rw [State.slotRec, setSlotPower_power, Power.putSlot_self]
    · rw [State.slotRec, setSlotPower_power, Power.putSlot_ne _ _ ne]
      rfl

theorem testPort_slots (x : Port) (c : PortClass) (u : State) :
    (testPort x c u).power.slots = u.power.slots := by
  unfold testPort
  split <;> simp [setPort_power]

theorem testSlotPort_slots (x : Port) (u : State) : (testSlotPort x u).power.slots = u.power.slots := by
  unfold testSlotPort
  repeat' split
  · exact testPort_slots _ _ _
  all_goals rfl

theorem upholds_testSlotPort {p : Port} (h : Upholds s t) (powered : t.isPowered (portSlot p) = true) :
    Upholds s (testSlotPort p t) := by
  unfold testSlotPort
  repeat' split
  · exact upholds_testPort _ h fun _ => powered
  all_goals exact h

/-- The ports of a POWERED slot are tested. -/
theorem upholds_testSlotPorts (ps : List Port) : ∀ t, Upholds s t →
    (∀ p ∈ ps, t.isPowered (portSlot p) = true) →
    Upholds s (ps.foldl (fun u p => testSlotPort p u) t) := by
  induction ps with
  | nil => exact fun _ h _ => h
  | cons p ps ih =>
    intro t h powered
    refine ih _ (upholds_testSlotPort h (powered p List.mem_cons_self)) fun q hq => ?_
    unfold State.isPowered State.slotRec
    rw [testSlotPort_slots]
    exact powered q (List.mem_cons_of_mem _ hq)

theorem upholds_enterPowered {i : Slot} {d : Time} (h : Upholds s t) (e : (t.slotRec i).power = .powering d) :
    Upholds s (enterPowered i t) := by
  refine upholds_recompute (upholds_raiseSlotChange i (upholds_slotEntered i
    (upholds_testSlotPorts _ _ (upholds_evalTight (upholds_setPowered h e)) fun p hp => ?_)))
  rw [mem_slotPorts.1 hp]
  have power : (evalTight (setSlotPower i .powered t)).power = (setSlotPower i .powered t).power := by simp
  unfold State.isPowered State.slotRec
  rw [power, setSlotPower_power, Power.putSlot_self]
  rfl

theorem upholds_faultSlot {i : Slot} (h : Upholds s t) (full : (t.slotRec i).power ≠ .empty) :
    Upholds s (faultSlot i t) :=
  upholds_recompute (upholds_handSlotFault i (upholds_leavePower (upholds_leaveDraw h full nofun rfl)))

@[simp] theorem upholds_powerGood (i : Slot) (v : Bool) (h : Upholds s t) :
    Upholds s (powerGood i v t) := by
  unfold powerGood
  split
  · rename_i e
    split
    · exact upholds_enterPowered h e
    · exact h
  · rename_i e
    split
    · exact h
    · exact upholds_faultSlot h (by rw [e]; nofun)
  all_goals exact h

@[simp] theorem upholds_powerGoodExpiry (i : Slot) (h : Upholds s t) :
    Upholds s (powerGoodExpiry i t) := by
  unfold powerGoodExpiry
  split
  · rename_i e
    split
    · exact upholds_faultSlot h (by rw [e]; nofun)
    · exact h
  · exact h

/-! ### What the scan hands to the Cooling Controller -/

@[simp] theorem upholds_handSupply (b : Bay) (h : Upholds s t) : Upholds s (handSupply b t) := by
  simp [handSupply, h]

@[simp] theorem upholds_supplyRise (b : Bay) (r : Nat) (k : InputKind) (i j : Bool)
    (h : Upholds s t) : Upholds s (supplyRise b r k i j t) := by
  simp (maxDischargeDepth := 9) [supplyRise, modSupply, h]

@[simp] theorem upholds_supplyLines (b : Bay) (i j : Bool) (h : Upholds s t) :
    Upholds s (supplyLines b i j t) := by
  unfold supplyLines; dsimp only; split <;> simp (maxDischargeDepth := 9) [modSupply, h]

@[simp] theorem upholds_supplyLoss (b : Bay) (h : Upholds s t) : Upholds s (supplyLoss b t) := by
  simp (maxDischargeDepth := 9) [supplyLoss, modSupply, h]

@[simp] theorem upholds_sensorReading (w : Fin 2) (r : SensorReading) (h : Upholds s t) :
    Upholds s (sensorReading w r t) := by simp [sensorReading, h]

@[simp] theorem upholds_updateTIn (h : Upholds s t) : Upholds s (updateTIn t) := by
  unfold updateTIn; dsimp only
  repeat' split
  all_goals simp (maxDischargeDepth := 12) [h]

@[simp] theorem upholds_modTray (x : Tray) (f : TrayRec → TrayRec) (h : Upholds s t) :
    Upholds s (modTray x f t) := upholds_modCool _ h

@[simp] theorem upholds_handRotors (x : Tray) (h : Upholds s t) : Upholds s (handRotors x t) :=
  upholds_foldl _ (fun _ _ k => upholds_handSettled _ _ k) _ _ h

@[simp] theorem upholds_trayRise (x : Tray) (m : Nat) (h : Upholds s t) : Upholds s (trayRise x m t) := by
  simp (maxDischargeDepth := 9) [trayRise, handTray, h]

@[simp] theorem upholds_trayLoss (x : Tray) (h : Upholds s t) : Upholds s (trayLoss x t) := by
  simp (maxDischargeDepth := 9) [trayLoss, handTray, h]

@[simp] theorem upholds_rotorAtRise (x : Tray) (r : Rotor) (v : Option Nat) (h : Upholds s t) :
    Upholds s (rotorAtRise x r v t) := by
  unfold rotorAtRise modRotor; dsimp only; split <;> simp (maxDischargeDepth := 9) [h]

@[simp] theorem upholds_rotorSpeed (x : Tray) (r : Rotor) (v : Option Nat) (h : Upholds s t) :
    Upholds s (rotorSpeed x r v t) := by
  unfold rotorSpeed modRotor; dsimp only
  repeat' split
  all_goals simp (maxDischargeDepth := 9) [h]

@[simp] theorem upholds_coolingPass (h : Upholds s t) : Upholds s (coolingPass t) := by
  have settled (u : State) (k : Upholds s u) : Upholds s (settle u) :=
    upholds_foldl _ (fun _ _ k => upholds_handCondition _ _ k) _ _ (upholds_modCool _ k)
  unfold coolingPass; dsimp only
  split
  · exact upholds_recomputeDuty (settled _ (upholds_modCool _ h))
  · simp [h]

@[simp] theorem upholds_readTray (x : Byte) (h : Upholds s t) : Upholds s (readTray x t).1 := by
  unfold readTray; split <;> exact h

/-! ### The Line Bus Controller -/

@[simp] theorem upholds_freeBus (x : OnBus) (e : BusEnd) (h : Upholds s t) :
    Upholds s (freeBus x e t) := by unfold freeBus; dsimp only; split <;> simp [h]

@[simp] theorem upholds_setMaintenanceField (x : Byte) (b l : BitVec 16) (h : Upholds s t) :
    Upholds s (setMaintenanceField x b l t).1 := by
  unfold setMaintenanceField
  repeat' split
  all_goals simp [h]

@[simp] theorem upholds_maintLine (c : Cp) (k : MaintKind) (x : Nat → Txn) (l : BitVec 16)
    (h : Upholds s t) : Upholds s (maintLine c k x l t).1 := by
  unfold maintLine joinMaint; dsimp only; split <;> simp [h]

@[simp] theorem upholds_maintRange (c : Cp) (k : MaintKind) (x : Nat → Nat → Txn) (f : BitVec 16)
    (n : Byte) (h : Upholds s t) : Upholds s (maintRange c k x f n t).1 := by
  unfold maintRange joinMaint; dsimp only
  repeat' split
  all_goals simp [h]

@[simp] theorem upholds_senseRead (c : Cp) (f : BitVec 16) (n : Byte) (h : Upholds s t) :
    Upholds s (senseRead c f n t).1 := by
  unfold senseRead joinMaint; dsimp only
  repeat' split
  all_goals simp [h]

/-! ### Every request -/

theorem upholds_serveRequest (c : Cp) (r : Request) (h : Upholds s t) :
    Upholds s (serveRequest c r t).1 := by
  cases r <;> simp only [serveRequest] <;> first | exact h | simp [h]

theorem upholds_judgeRequest (c : Cp) (f : Frame) (h : Upholds s t) :
    Upholds s (judgeRequest c f t).1 := by
  unfold judgeRequest
  repeat' split
  all_goals first | exact h | exact upholds_serveRequest _ _ h

end

end Sys2Proof.Machine
end

