-- ==== Sys2Proof/Proofs/StepUpholds.lean ====
section
/-! SUPPORT. The slot and port records and the zone tables over the links, the scan and every step: between two
entries of the scan list a reported presence goes with a recorded card (R78), but for the end of a rise or a
loss, which moves both. -/

namespace Sys2Proof.Machine

/-! ### What agrees with the scan -/

/-- Reported presence goes with a recorded card, and no identity is read of a slot that is reported PRESENT. -/
def State.seenAgrees (s : State) : Prop :=
  (∀ i, (s.bus.slotSeen.get i).present = (s.slotRec i).card.isSome)
    ∧ ∀ i awaited got, s.bus.scan = .pass (.slotIdentity i awaited got) →
      (s.bus.slotSeen.get i).present = false

theorem budgetKept_iff (s : State) : s.budgetKept ↔ s.power.Sound ∧ s.seenAgrees := by
  constructor
  · rintro ⟨slots, ports, priority, within⟩
    refine ⟨⟨⟨fun i => (slots i).2.1, fun x hx => of_decide_eq_true (ports x hx), priority⟩, within⟩,
      fun i => (slots i).1, fun i => (slots i).2.2⟩
  · rintro ⟨sound, seen, reading⟩
    exact ⟨fun i => ⟨seen i, sound.empty i, reading i⟩, fun x hx => decide_eq_true (sound.powered x hx),
      sound.priority, sound.within⟩

/-- A change that upholds the records, keeps the reported presences and begins no identity read. -/
structure Steady (s t : State) : Prop extends Upholds s t where
  seen : t.bus.slotSeen = s.bus.slotSeen
  reading : ∀ i awaited got, t.bus.scan = .pass (.slotIdentity i awaited got) →
    s.bus.scan = .pass (.slotIdentity i awaited got)

/-- The two relations of this file, kept. -/
def KeptOver (s t : State) : Prop :=
  (s.budgetKept → t.budgetKept) ∧ (s.zonesInOrder → t.zonesInOrder)

theorem Steady.keptOver {s t : State} (h : Steady s t) : KeptOver s t := by
  refine ⟨fun k => ?_, h.zones⟩
  rw [budgetKept_iff] at k ⊢
  obtain ⟨sound, seen, reading⟩ := k
  refine ⟨h.power sound, fun i => ?_, fun i awaited got e => ?_⟩
  · rw [h.seen, h.card]; exact seen i
  · rw [h.seen]; exact reading i awaited got (h.reading i awaited got e)

theorem KeptOver.trans {s t u : State} (h : KeptOver s t) (k : KeptOver t u) : KeptOver s u :=
  ⟨k.1 ∘ h.1, k.2 ∘ h.2⟩

section
variable {s t : State}

theorem steady_refl (s : State) : Steady s s := ⟨upholds_refl s, rfl, fun _ _ _ h => h⟩

/-- What leaves the scan and the reported presences alone. -/
theorem steady_sameScan {u : State} (h : Steady s t) (seen : u.bus.slotSeen = t.bus.slotSeen)
    (scan : u.bus.scan = t.bus.scan) (k : Upholds t u) : Steady s u :=
  ⟨h.toUpholds.trans k, seen.trans h.seen, fun i a g e => h.reading i a g (scan ▸ e)⟩

/-- What a block does is a chain of inner moves, which leave the scan alone. -/
theorem steady_inner {u : State} (h : Steady s t) (m : Moves false t u) (k : Upholds t u) : Steady s u :=
  steady_sameScan h m.kept.scan.2.2.2.1 m.kept.scan.1 k

theorem steady_foldl {α : Type} (f : State → α → State) (hf : ∀ u x, Steady s u → Steady s (f u x))
    (xs : List α) : ∀ t, Steady s t → Steady s (xs.foldl f t) := by
  induction xs with
  | nil => exact fun _ h => h
  | cons x xs ih => exact fun t h => ih _ (hf t x h)

/-! ### The arbiter and the links -/

theorem grantScan_scan (u : State) :
    (grantScan u).bus.scan = u.bus.scan ∧ (grantScan u).bus.slotSeen = u.bus.slotSeen := by
  unfold grantScan; split <;> exact ⟨rfl, rfl⟩

theorem arbitrate_scan (u : State) :
    (arbitrate u).bus.scan = u.bus.scan ∧ (arbitrate u).bus.slotSeen = u.bus.slotSeen := by
  unfold arbitrate grantByClass grantLow
  dsimp only
  repeat' split
  all_goals first | exact ⟨rfl, rfl⟩ | exact grantScan_scan _

theorem steady_arbitrate (h : Steady s t) : Steady s (arbitrate t) :=
  steady_sameScan h (arbitrate_scan t).2 (arbitrate_scan t).1
    (upholds_same (upholds_refl t) (by simp) (by simp))

theorem steady_modLink (c : Cp) (f : LinkPort → LinkPort) (h : Steady s t) : Steady s (t.modLink c f) :=
  steady_sameScan h rfl rfl (upholds_modLink c f (upholds_refl t))

theorem steady_settleRequest (c : Cp) (f : Frame) (r : State × Took) (h : Steady s r.1) :
    Steady s (settleRequest c f r) := by
  unfold settleRequest hold placeResponse
  split
  · exact steady_modLink _ _ h
  · exact steady_modLink _ _ (steady_modLink _ _ h)
  · exact steady_modLink _ _ h

theorem steady_takeRequests (c : Cp) : ∀ n t, Steady s t → Steady s (takeRequests c n t) := by
  intro n
  induction n with
  | zero => exact fun _ h => h
  | succ n ih =>
    intro t h
    unfold takeRequests
    split
    · exact h
    · split
      · exact h
      · refine ih _ (steady_settleRequest _ _ _ ?_)
        exact steady_inner (steady_modLink _ _ h) (moves_judgeRequest _ _ (.refl _))
          (upholds_judgeRequest _ _ (upholds_refl _))

theorem steady_serveQueue (c : Cp) (h : Steady s t) : Steady s (serveQueue c t) :=
  steady_takeRequests _ _ _ h

theorem steady_completeRequest (c : Cp) (x : OutcomeCode) (bs : List Byte) (h : Steady s t) :
    Steady s (completeRequest c x bs t) := by
  unfold completeRequest placeResponse
  split
  · exact h
  · refine steady_serveQueue _ ?_
    split
    · exact steady_modLink _ _ h
    · exact steady_modLink _ _ (steady_modLink _ _ h)

theorem steady_linkUp (c : Cp) (h : Steady s t) : Steady s (linkUp c t) := by
  unfold linkUp
  split
  · exact steady_modLink _ _ h
  · exact steady_inner (steady_modLink _ _ h) (moves_presenceUp _ (.refl _))
      (upholds_presenceUp _ (upholds_refl _))

theorem steady_handleFrame (c : Cp) (f : Frame) (h : Steady s t) : Steady s (handleFrame c f t) := by
  have up := steady_linkUp c h
  unfold handleFrame heartbeatFrame requestFrame placeImmediate
  dsimp only
  split_ifs
  · exact h
  · exact steady_modLink _ _ (steady_inner up (moves_takeHeartbeat c (.refl _))
      (upholds_takeHeartbeat c (upholds_refl _)))
  · exact steady_modLink _ _ up
  · exact steady_modLink _ _ up
  · exact steady_serveQueue _ (steady_modLink _ _ up)

theorem steady_linkDown (c : Cp) (h : Steady s t) : Steady s (linkDown c t) :=
  steady_inner (steady_modLink _ _ h) (moves_presenceDown _ (.refl _))
    (upholds_presenceDown _ (upholds_refl _))

theorem steady_handleBadFrame (c : Cp) (h : Steady s t) : Steady s (handleBadFrame c t) := by
  unfold handleBadFrame
  dsimp only
  split_ifs
  · exact h
  · exact steady_linkDown c h
  · exact steady_modLink _ _ h

theorem steady_handleBytes (c : Cp) (bytes : List Byte) (h : Steady s t) :
    Steady s (handleBytes c bytes t) := by
  refine steady_foldl _ (fun u x k => steady_arbitrate ?_) _ _ h
  unfold frameArrived
  split
  · exact steady_handleFrame _ _ k
  · exact steady_handleBadFrame _ k

theorem steady_assertReset (c : Cp) (h : Steady s t) : Steady s (assertReset c t) := by
  unfold assertReset
  dsimp only
  split
  · exact steady_linkDown c (steady_modLink _ _ h)
  · exact steady_modLink _ _ h

theorem steady_completeTransfer (c : Cp) (h : Steady s t) : Steady s (completeTransfer c t) := by
  unfold completeTransfer
  split
  · exact steady_serveQueue _ (steady_modLink _ _ h)
  · exact h

/-! ### The scan (R37, R38) -/

/-- A step of a pass that reads no slot's identity. -/
def ScanStep.plain : ScanStep → Bool
  | .slotIdentity .. => false
  | _ => true

theorem upholds_scanTo (x : ScanStep) (h : Upholds s t) : Upholds s (scanTo x t) := upholds_modBus _ h

theorem scanTo_reading {x : ScanStep} (plain : x.plain = true) {u : State} {i : Slot} {a : Bool}
    {g : List (Option (BitVec 16))} (e : (scanTo x u).bus.scan = .pass (.slotIdentity i a g)) : False := by
  cases e
  cases plain

/-- Where the presences agree with the cards, a step to a plain entry keeps everything. -/
theorem scanTo_seenAgrees {x : ScanStep} (plain : x.plain = true) {u : State}
    (seen : ∀ i, (u.bus.slotSeen.get i).present = (u.slotRec i).card.isSome) : (scanTo x u).seenAgrees :=
  ⟨seen, fun _ _ _ e => (scanTo_reading plain e).elim⟩

theorem steady_scanTo {x : ScanStep} (plain : x.plain = true) (h : Steady s t) : Steady s (scanTo x t) :=
  ⟨upholds_scanTo x h.toUpholds, h.seen, fun _ _ _ e => (scanTo_reading plain e).elim⟩

theorem steady_startPass (h : Steady s t) : Steady s (startPass t) := steady_scanTo rfl h

theorem steady_startScan (h : Steady s t) : Steady s (startScan t) := by
  unfold startScan
  split
  · exact ⟨upholds_modBus _ h.toUpholds, h.seen, nofun⟩
  · exact steady_startPass h

theorem steady_endScan (go : State → State) (hg : ∀ u, Steady s u → Steady s (go u)) (h : Steady s t) :
    Steady s (endScan go t) := by
  unfold endScan
  split
  · exact hg _ (steady_sameScan h rfl rfl (upholds_modBus _ (upholds_refl t)))
  · exact ⟨upholds_modBus _ h.toUpholds, h.seen, nofun⟩

theorem steady_completePass (h : Steady s t) : Steady s (completePass t) := by
  refine steady_endScan _ (fun _ k => steady_startScan k) ?_
  exact steady_inner h (moves_judgeAckDeadlines (moves_coolingPass (.refl t)))
    (upholds_judgeAckDeadlines (upholds_coolingPass (upholds_refl t)))

theorem steady_rewriteFrom (fs : List HeldField) (h : Steady s t) : Steady s (rewriteFrom fs t) := by
  unfold rewriteFrom
  split
  · exact steady_completePass h
  · exact steady_scanTo rfl h

theorem steady_afterTray (x : Tray) (h : Steady s t) : Steady s (afterTray x t) := by
  unfold afterTray
  split
  · exact steady_scanTo rfl h
  · exact steady_rewriteFrom _ h

theorem steady_afterBay (x : Bay) (h : Steady s t) : Steady s (afterBay x t) := by
  unfold afterBay
  split <;> exact steady_scanTo rfl h

/-- After a slot comes the next slot or the first bay. -/
theorem afterSlot_eq (i : Slot) (u : State) : ∃ x : ScanStep, x.plain = true ∧ afterSlot i u = scanTo x u := by
  unfold afterSlot reachSlot
  split
  · exact ⟨_, rfl, rfl⟩
  · exact ⟨_, rfl, rfl⟩

/-- After a slot's presence and identity reads comes its ACK field, or what comes after the slot. -/
theorem afterSlotReads_eq (i : Slot) (awaited : Bool) (u : State) :
    ∃ x : ScanStep, x.plain = true ∧ afterSlotReads i awaited u = scanTo x u := by
  unfold afterSlotReads
  split
  · exact ⟨_, rfl, rfl⟩
  · exact afterSlot_eq i u

theorem steady_afterSlot (i : Slot) (h : Steady s t) : Steady s (afterSlot i t) := by
  obtain ⟨x, plain, e⟩ := afterSlot_eq i t
  rw [e]
  exact steady_scanTo plain h

theorem steady_afterSlotReads (i : Slot) (awaited : Bool) (h : Steady s t) :
    Steady s (afterSlotReads i awaited t) := by
  obtain ⟨x, plain, e⟩ := afterSlotReads_eq i awaited t
  rw [e]
  exact steady_scanTo plain h

theorem steady_sensorEnded (w : Fin 2) (e : BusEnd) (h : Steady s t) : Steady s (sensorEnded w e t) := by
  unfold sensorEnded
  dsimp only
  split
  · exact steady_scanTo rfl (steady_inner h (moves_sensorReading _ _ (.refl t))
      (upholds_sensorReading _ _ (upholds_refl t)))
  · exact steady_scanTo rfl (steady_inner h (moves_updateTIn (moves_sensorReading _ _ (.refl t)))
      (upholds_updateTIn (upholds_sensorReading _ _ (upholds_refl t))))

theorem steady_slotAckEnded (i : Slot) (e : BusEnd) (h : Steady s t) : Steady s (slotAckEnded i e t) := by
  unfold slotAckEnded
  split
  · exact steady_afterSlot i (steady_inner h (moves_ackValue _ _ (.refl t)) (upholds_ackValue _ _ (upholds_refl t)))
  · exact steady_afterSlot i h

theorem steady_putBaySeen (b : Bay) (d : Debounce) (h : Steady s t) : Steady s (putBaySeen b d t) :=
  steady_sameScan h rfl rfl (upholds_modBus _ (upholds_refl t))

theorem steady_putTraySeen (y : Tray) (d : Debounce) (h : Steady s t) : Steady s (putTraySeen y d t) :=
  steady_sameScan h rfl rfl (upholds_modBus _ (upholds_refl t))

theorem steady_bayLinesEnded (b : Bay) (e : BusEnd) (h : Steady s t) : Steady s (bayLinesEnded b e t) := by
  have k := steady_putBaySeen b ((t.bus.baySeen.get b).take (readingOf e)).1 h
  unfold bayLinesEnded
  dsimp only
  split
  · exact steady_afterBay b k
  · exact steady_afterBay b (steady_inner k (moves_supplyLines _ _ _ (.refl _))
      (upholds_supplyLines _ _ _ (upholds_refl _)))
  · exact steady_afterBay b (steady_inner k (moves_supplyLoss _ (.refl _))
      (upholds_supplyLoss _ (upholds_refl _)))
  · exact steady_scanTo rfl k

theorem steady_bayIdentityEnded (b : Bay) (i j : Bool) (got : List (Option (BitVec 16))) (e : BusEnd)
    (h : Steady s t) : Steady s (bayIdentityEnded b i j got e t) := by
  unfold bayIdentityEnded
  repeat' split
  · exact steady_afterBay b (steady_inner (steady_putBaySeen b risen h) (moves_supplyRise _ _ _ _ _ (.refl _))
      (upholds_supplyRise _ _ _ _ _ (upholds_refl _)))
  · exact steady_afterBay b (steady_inner (steady_putBaySeen b risen h) (moves_supplyRise _ _ _ _ _ (.refl _))
      (upholds_supplyRise _ _ _ _ _ (upholds_refl _)))
  · exact steady_afterBay b h
  · exact steady_scanTo rfl h

theorem steady_trayLineEnded (y : Tray) (e : BusEnd) (h : Steady s t) : Steady s (trayLineEnded y e t) := by
  have k := steady_putTraySeen y ((t.bus.traySeen.get y).take (readingOf e)).1 h
  unfold trayLineEnded
  dsimp only
  split
  · exact steady_afterTray y k
  · exact steady_scanTo rfl k
  · exact steady_afterTray y (steady_inner k (moves_trayLoss _ (.refl _)) (upholds_trayLoss _ (upholds_refl _)))
  · exact steady_scanTo rfl k

theorem steady_trayIdentityEnded (y : Tray) (e : BusEnd) (h : Steady s t) :
    Steady s (trayIdentityEnded y e t) := by
  unfold trayIdentityEnded
  split
  · exact steady_scanTo rfl (steady_inner (steady_putTraySeen y risen h) (moves_trayRise _ _ (.refl _))
      (upholds_trayRise _ _ (upholds_refl _)))
  · exact steady_afterTray y h

theorem steady_rotorEnded (y : Tray) (r : Rotor) (rise : Bool) (e : BusEnd) (h : Steady s t) :
    Steady s (rotorEnded y r rise e t) := by
  have k : Steady s (if rise then rotorAtRise y r (e.data.map BitVec.toNat) t
      else rotorSpeed y r (e.data.map BitVec.toNat) t) := by
    split
    · exact steady_inner h (moves_rotorAtRise _ _ _ (.refl t)) (upholds_rotorAtRise _ _ _ (upholds_refl t))
    · exact steady_inner h (moves_rotorSpeed _ _ _ (.refl t)) (upholds_rotorSpeed _ _ _ (upholds_refl t))
  unfold rotorEnded
  dsimp only
  split
  · exact steady_scanTo rfl k
  · exact steady_afterTray y k

end

/-! ### A slot's rise and loss (R79, R80) -/

theorem slotRise_upholds (i : Slot) (c : Card) (s : State) :
    Upholds (modSlot i (fun r => { r with card := some c, power := if r.admin then .denied .waiting else .off })
      s) (slotRise i c s) :=
  upholds_recompute (upholds_raiseSlotChange i (upholds_licenseRise i (upholds_evalTight (upholds_refl _))))

theorem slotLoss_upholds (i : Slot) (s : State) : Upholds (emptySlot i s) (slotLoss i s) :=
  upholds_recompute (upholds_raiseSlotChange i (upholds_licenseLoss i (upholds_refl _)))

theorem modSlot_ne {i j : Slot} (f : SlotRec → SlotRec) (s : State) (h : j ≠ i) :
    (modSlot i f s).slotRec j = s.slotRec j := by
  rw [State.slotRec, modSlot_power, Power.putSlot_ne _ _ h]
  rfl

theorem modSlot_self (i : Slot) (f : SlotRec → SlotRec) (s : State) :
    (modSlot i f s).slotRec i = f (s.slotRec i) := by
  rw [State.slotRec, modSlot_power, Power.putSlot_self]

/-- An empty slot takes a card without drawing. -/
theorem slotRise_sound {i : Slot} (c : Card) {s : State} (h : s.power.Sound)
    (empty : (s.slotRec i).card = none) : (slotRise i c s).power.Sound := by
  refine (slotRise_upholds i c s).power ?_
  have out : (s.power.slots.get i).power = .empty := (h.empty i).2 empty
  rw [modSlot_power]
  refine h.putIdle ?_ (by rw [out]; nofun) ?_ (h.priority i)
  · exact iff_of_false (by dsimp only; split <;> nofun) nofun
  · dsimp only; split <;> rfl

theorem slotRise_card (i j : Slot) (c : Card) (s : State) :
    ((slotRise i c s).slotRec j).card = if j = i then some c else (s.slotRec j).card := by
  rw [(slotRise_upholds i c s).card]
  split
  · rename_i e; subst e; rw [modSlot_self]
  · rename_i e; rw [modSlot_ne _ _ e]

/-- The records after a slot has become EMPTY and lost its card. -/
theorem emptySlot_power (i : Slot) (s : State) : (emptySlot i s).power
    = if (s.slotRec i).power.drawing then s.power.left i { s.slotRec i with card := none, power := .empty }
      else s.power.putSlot i { s.slotRec i with card := none, power := .empty } := by
  have dropped (u : State) (power : u.power = s.power.left i { s.slotRec i with power := .empty }) :
      (dropCard i u).power = s.power.left i { s.slotRec i with card := none, power := .empty } := by
    unfold dropCard modSlot State.modPower updAt
    simp [power, Power.left, Power.offPorts, Power.putSlot, updAt, Vector.get_eq_getElem]
  have idle : (evalTight (handSlotFault i (dropCard i (setSlotPower i .empty s)))).power
      = s.power.putSlot i { s.slotRec i with card := none, power := .empty } := by
    unfold dropCard setSlotPower modSlot
    simp [handSlotFault, Power.putSlot, updAt, Vector.get_eq_getElem, State.slotRec]
  unfold emptySlot
  split
  all_goals (rename_i e; rw [e])
  · exact dropped _ ((leavePower_power i .empty s).trans (leaveDraw_power _ _ _))
  · exact dropped _ ((leavePower_power i .empty s).trans (leaveDraw_power _ _ _))
  all_goals exact idle

theorem emptySlot_sound {i : Slot} {s : State} (h : s.power.Sound) : (emptySlot i s).power.Sound := by
  rw [emptySlot_power]
  split
  · exact h.left (by simp) rfl (h.priority i)
  · rename_i idle
    refine h.putIdle (by simp) (fun e => idle ?_) rfl (h.priority i)
    rw [State.slotRec, e]
    rfl

theorem emptySlot_card (i j : Slot) (s : State) :
    ((emptySlot i s).slotRec j).card = if j = i then none else (s.slotRec j).card := by
  have slots : (emptySlot i s).power.slots
      = (s.power.putSlot i { s.slotRec i with card := none, power := .empty }).slots := by
    rw [emptySlot_power]
    split <;> rfl
  rw [State.slotRec, slots]
  split
  · rename_i e; subst e; rw [Power.putSlot_self]
  · rename_i e; rw [Power.putSlot_ne _ _ e]; rfl

theorem emptySlot_zones {i : Slot} {s : State} (h : s.zonesInOrder) : (emptySlot i s).zonesInOrder := by
  have left : (leavePower i .empty s).zonesInOrder := by
    have start : (tellDemand (leaveDraw i .empty s)).zonesInOrder :=
      (upholds_tellDemand (upholds_refl _)).zones (by
        have zone := leaveDraw_zone i .empty s
        exact zonesInOrder_congr (by rw [zone]) (by rw [zone]) (by rw [zone]) (by rw [zone]) h)
    unfold leavePower
    refine (upholds_evalTight ?_).zones start
    split
    · exact upholds_slotLeft i (upholds_refl _)
    · exact upholds_refl _
  have idle : (evalTight (handSlotFault i (dropCard i (setSlotPower i .empty s)))).zonesInOrder :=
    (upholds_evalTight (upholds_handSlotFault i (upholds_refl _))).zones h
  unfold emptySlot
  split
  · exact left
  · exact left
  all_goals exact idle

/-! ### The two entries of the scan list that move a slot -/

/-- What a presence reading leaves in the debounce record, by what it leads to (R39). -/
theorem take_present (reading : Option Bool) (d : Debounce) :
    ((d.take reading).2 = .loss → (d.take reading).1.present = false)
      ∧ ((d.take reading).2 ≠ .loss → (d.take reading).1.present = d.present)
      ∧ ((d.take reading).2 = .riseDue → d.present = false) := by
  obtain ⟨present, differing⟩ := d
  rcases reading with _ | v
  · simp [Debounce.take]
  · cases v <;> cases present <;> cases differing <;> simp [Debounce.take]

theorem putSlotSeen_get (i j : Slot) (d : Debounce) (s : State) :
    (putSlotSeen i d s).bus.slotSeen.get j = if j = i then d else s.bus.slotSeen.get j := by
  unfold putSlotSeen
  split
  · rename_i e; subst e; simp
  · rename_i e; simp [updAt_ne _ _ _ _ e]

/-- A debounce record that keeps its reported presence changes nothing of the agreement. -/
theorem seenAgrees_putSlotSeen {i : Slot} {d : Debounce} {s : State}
    (present : d.present = (s.bus.slotSeen.get i).present) (h : s.seenAgrees) :
    (putSlotSeen i d s).seenAgrees := by
  have same (j : Slot) :
      ((putSlotSeen i d s).bus.slotSeen.get j).present = (s.bus.slotSeen.get j).present := by
    rw [putSlotSeen_get]
    split
    · rename_i e; rw [e, present]
    · rfl
  obtain ⟨seen, reading⟩ := h
  exact ⟨fun j => (same j).trans (seen j), fun j a g e => (same j).trans (reading j a g e)⟩

theorem keptOver_slotLinesEnded (i : Slot) (awaited : Bool) (e : BusEnd) (s : State) :
    KeptOver s (slotLinesEnded i awaited e s) := by
  obtain ⟨loss, same, rise⟩ := take_present (readingOf e) (s.bus.slotSeen.get i)
  unfold slotLinesEnded
  generalize hr : (s.bus.slotSeen.get i).take (readingOf e) = r at loss same rise
  obtain ⟨d, verdict⟩ := r
  have put (ne : verdict ≠ .loss) : KeptOver s (putSlotSeen i d s) := by
    refine ⟨fun k => ?_, fun k => k⟩
    rw [budgetKept_iff] at k ⊢
    exact ⟨k.1, seenAgrees_putSlotSeen (same ne) k.2⟩
  cases verdict with
  | nothing => exact (put nofun).trans (steady_afterSlotReads i awaited (steady_refl _)).keptOver
  | present =>
    exact (put nofun).trans (steady_afterSlotReads i awaited (steady_inner (steady_refl _)
      (moves_powerGood _ _ (.refl _)) (upholds_powerGood _ _ (upholds_refl _)))).keptOver
  | riseDue =>
    refine (put nofun).trans ⟨fun k => ?_, fun k => k⟩
    rw [budgetKept_iff] at k ⊢
    refine ⟨k.1, k.2.1, fun j a g e => ?_⟩
    cases e
    show ((putSlotSeen i d s).bus.slotSeen.get i).present = false
    rw [putSlotSeen_get, if_pos rfl]
    exact (same nofun).trans (rise rfl)
  | loss =>
    have lost := moves_slotLoss i (.refl (o := false) (putSlotSeen i d s))
    refine KeptOver.trans (t := slotLoss i (putSlotSeen i d s)) ⟨fun k => ?_, fun k => ?_⟩
      (steady_afterSlotReads i awaited (steady_refl _)).keptOver
    · rw [budgetKept_iff] at k ⊢
      obtain ⟨sound, seen, reading⟩ := k
      have down : d.present = false := loss rfl
      have slotSeen := lost.kept.scan.2.2.2.1
      refine ⟨(slotLoss_upholds i _).power (emptySlot_sound sound), fun j => ?_, fun j a g e => ?_⟩
      · rw [slotSeen, putSlotSeen_get, (slotLoss_upholds i _).card, emptySlot_card]
        split
        · exact down
        · exact seen j
      · rw [slotSeen, putSlotSeen_get]
        split
        · exact down
        · exact reading j a g (lost.kept.scan.1 ▸ e)
    · exact (slotLoss_upholds i _).zones (emptySlot_zones k)

theorem slotRise_zones (i : Slot) (c : Card) {s : State} (h : s.zonesInOrder) :
    (slotRise i c (putSlotSeen i risen s)).zonesInOrder :=
  (slotRise_upholds i c _).zones (zonesInOrder_congr (s := s) rfl rfl rfl rfl h)

theorem keptOver_slotIdentityEnded (i : Slot) (awaited : Bool) (got : List (Option (BitVec 16))) (e : BusEnd)
    (s : State) (reads : s.bus.scan = .pass (.slotIdentity i awaited got)) :
    KeptOver s (slotIdentityEnded i awaited got e s) := by
  unfold slotIdentityEnded
  split
  · split
    · rename_i kind base n _
      generalize cardRead (kind.setWidth 8) base.toNat n.toNat = card
      obtain ⟨x, plain, after⟩ := afterSlotReads_eq i awaited (slotRise i card (putSlotSeen i risen s))
      rw [after]
      refine ⟨fun k => ?_, fun k =>
        (upholds_modBus _ (upholds_refl (slotRise i card (putSlotSeen i risen s)))).zones (slotRise_zones i card k)⟩
      rw [budgetKept_iff] at k ⊢
      obtain ⟨sound, seen, reading⟩ := k
      have empty : (s.slotRec i).card = none := by
        have absent := reading i _ _ reads
        rw [seen i] at absent
        simpa using absent
      have raised : (slotRise i card (putSlotSeen i risen s)).power.Sound :=
        slotRise_sound card sound empty
      refine ⟨(upholds_modBus _ (upholds_refl (slotRise i card (putSlotSeen i risen s)))).power raised,
        scanTo_seenAgrees plain fun j => ?_⟩
      have slotSeen := (moves_slotRise i card (.refl (o := false) (putSlotSeen i risen s))).kept.scan.2.2.2.1
      rw [slotSeen, putSlotSeen_get, slotRise_card]
      split
      · rfl
      · exact seen j
    · exact (steady_afterSlotReads i awaited (steady_refl s)).keptOver
  · refine ⟨fun k => ?_, fun k => k⟩
    rw [budgetKept_iff] at k ⊢
    refine ⟨k.1, k.2.1, fun j a g e => ?_⟩
    cases e
    exact k.2.2 i _ _ reads

theorem keptOver_scanEnded (e : BusEnd) (s : State) : KeptOver s (scanEnded e s) := by
  unfold scanEnded
  split
  · rename_i x reads
    cases x with
    | sensor w => exact (steady_sensorEnded w e (steady_refl s)).keptOver
    | slotLines i a => exact keptOver_slotLinesEnded i a e s
    | slotIdentity i a got => exact keptOver_slotIdentityEnded i a got e s reads
    | slotAck i => exact (steady_slotAckEnded i e (steady_refl s)).keptOver
    | bayLines b => exact (steady_bayLinesEnded b e (steady_refl s)).keptOver
    | bayIdentity b i j got => exact (steady_bayIdentityEnded b i j got e (steady_refl s)).keptOver
    | trayLine y => exact (steady_trayLineEnded y e (steady_refl s)).keptOver
    | trayIdentity y => exact (steady_trayIdentityEnded y e (steady_refl s)).keptOver
    | rotor y r rise => exact (steady_rotorEnded y r rise e (steady_refl s)).keptOver
    | rewrite f rest => exact (steady_rewriteFrom rest (steady_refl s)).keptOver
  · exact (steady_refl s).keptOver

section
variable {s t : State}

theorem steady_serialEnded (e : BusEnd) (h : Steady s t) : Steady s (serialEnded e t) := by
  have ended (u : State) (k : Steady s u) (owed : Bool) : Steady s (endAttempt owed u) := by
    unfold endAttempt
    split
    · exact steady_startPass k
    · exact steady_endScan _ (fun _ l => steady_startPass l) k
  unfold serialEnded
  dsimp only
  repeat' split
  · refine ended _ (steady_sameScan h ?_ ?_ (upholds_same (upholds_refl t) ?_ ?_)) _ <;> rfl
  · exact ⟨upholds_modBus _ h.toUpholds, h.seen, nofun⟩
  · exact ended _ h _
  · exact h

theorem steady_takeMark (h : Steady s t) : Steady s (takeMark t) := by
  have marked : Steady s { t with lastMark := t.time } :=
    steady_sameScan h rfl rfl (upholds_same (upholds_refl t) rfl rfl)
  unfold takeMark
  repeat' split
  · exact steady_startScan marked
  · exact steady_sameScan marked rfl rfl (upholds_modBus _ (upholds_refl _))
  · exact h

/-! ### Every command, and every step -/

/-- The end of a transaction, by what its owner does with the outcome. -/
theorem keptOver_endOf (mine : Owner → Bool) (first again : Answer)
    (act : OnBus → BusEnd → State → State) (ha : ∀ x e u, KeptOver u (act x e u)) {u : State}
    (hu : endOf mine first again act s = .next u) : KeptOver s u := by
  unfold endOf finish at hu
  repeat' split at hu
  all_goals cases hu
  · exact (steady_refl s).keptOver
  · exact ((steady_inner (steady_refl s) (moves_freeBus _ _ (.refl s))
      (upholds_freeBus _ _ (upholds_refl s))).keptOver.trans (ha _ _ _)).trans
      (steady_arbitrate (steady_refl _)).keptOver
  · exact (steady_refl s).keptOver

theorem keptOver_exec (i : Instr) {u : State} (hi : ∀ lines, i ≠ .powerOnReset lines)
    (hu : exec i s = .next u) : KeptOver s u := by
  have inner {x : State} (m : Moves false s x) (k : Upholds s x) : KeptOver s (arbitrate x) :=
    (steady_arbitrate (steady_inner (steady_refl s) m k)).keptOver
  have acted {x y : State} (m : Moves false x y) (k : Upholds x y) : KeptOver x y :=
    (steady_inner (steady_refl x) m k).keptOver
  cases i
  case powerOnReset lines => exact absurd rfl (hi lines)
  case serialReadEnd a b =>
    unfold exec execSerialReadEnd at hu
    exact keptOver_endOf _ _ _ _ (fun _ e v => (steady_serialEnded e (steady_refl v)).keptOver) hu
  case maintTransactionEnd a b =>
    unfold exec execMaintTransactionEnd at hu
    refine keptOver_endOf _ _ _ _ (fun x e v => ?_) hu
    unfold maintEnded
    repeat' split
    · exact (steady_completeRequest _ _ _ (steady_refl v)).keptOver
    all_goals exact (steady_refl v).keptOver
  case scanTransactionEnd a b =>
    unfold exec execScanTransactionEnd at hu
    exact keptOver_endOf _ _ _ _ (fun _ e v => keptOver_scanEnded e v) hu
  case heldFieldWriteEnd a b =>
    unfold exec execHeldFieldWriteEnd at hu
    exact keptOver_endOf _ _ _ _ (fun _ _ v => (steady_refl v).keptOver) hu
  case loadingWriteEnd a b =>
    unfold exec execLoadingWriteEnd at hu
    exact keptOver_endOf _ _ _ _ (fun _ e v => acted (moves_loadingEnded _ e (.refl v))
      (upholds_loadingEnded _ e (upholds_refl v))) hu
  case activateFieldWriteEnd a b =>
    unfold exec execActivateFieldWriteEnd at hu
    exact keptOver_endOf _ _ _ _ (fun _ e v => acted (moves_activateFieldEnded e (.refl v))
      (upholds_activateFieldEnded e (upholds_refl v))) hu
  case activationStrobeEnd a =>
    unfold exec execActivationStrobeEnd at hu
    exact keptOver_endOf _ _ _ _ (fun _ e v => acted (moves_strobeEnded e (.refl v))
      (upholds_strobeEnded e (upholds_refl v))) hu
  case slotActivatePulseEnd a =>
    unfold exec execSlotActivatePulseEnd at hu
    refine keptOver_endOf _ _ _ _ (fun x e v => ?_) hu
    unfold pulseOf
    split
    · exact acted (moves_pulseEnded _ _ e (.refl v)) (upholds_pulseEnded _ _ e (upholds_refl v))
    · exact (steady_refl v).keptOver
  case commitComputationComplete =>
    simp only [exec, execCommitComputationComplete, finish] at hu
    split at hu
    · cases hu; exact (steady_refl s).keptOver
    · cases hu
      exact (steady_arbitrate (steady_completeRequest _ _ _ (steady_inner (steady_refl s)
        (moves_completeCommit (.refl s)) (upholds_completeCommit (upholds_refl s))))).keptOver
  case goodFrame c bs =>
    cases hu; exact (steady_arbitrate (steady_handleBytes c bs (steady_refl s))).keptOver
  case badFrame c => cases hu; exact (steady_arbitrate (steady_handleBadFrame c (steady_refl s))).keptOver
  case linkResetAssert c => cases hu; exact (steady_arbitrate (steady_assertReset c (steady_refl s))).keptOver
  case linkResetRelease c =>
    cases hu; exact (steady_arbitrate (steady_modLink _ _ (steady_refl s))).keptOver
  case dataTransferReadComplete c =>
    cases hu; exact (steady_arbitrate (steady_completeTransfer c (steady_refl s))).keptOver
  case heartbeat c tag =>
    cases hu; exact (steady_arbitrate (steady_handleFrame c _ (steady_refl s))).keptOver
  case peerDeadlineExpiry c =>
    cases hu; exact inner (moves_peerExpiry c (.refl s)) (upholds_peerExpiry c (upholds_refl s))
  case heartbeatExpiry =>
    cases hu; exact inner (moves_holderExpiry (.refl s)) (upholds_holderExpiry (upholds_refl s))
  case scanMark => cases hu; exact (steady_arbitrate (steady_takeMark (steady_refl s))).keptOver
  case ackTimeout i =>
    cases hu; exact inner (moves_judgeAckDeadline i (.refl s)) (upholds_judgeAckDeadline i (upholds_refl s))
  case powerGoodDeadlineExpiry i =>
    cases hu; exact inner (moves_powerGoodExpiry i (.refl s)) (upholds_powerGoodExpiry i (upholds_refl s))
  all_goals
    cases hu
    exact (steady_arbitrate (steady_handleFrame _ _ (steady_refl s))).keptOver

end

theorem powerOn_sound (policy : Policy) : (Power.powerOn policy).Sound := by
  have slot (i : Slot) : (Power.powerOn policy).slots.get i = ⟨none, .empty, true, 2⟩ := by
    simp [Power.powerOn, Vector.get_eq_getElem]
  have port (x : Port) : (Power.powerOn policy).ports.get x = .off := by
    simp [Power.powerOn, Vector.get_eq_getElem]
  refine ⟨⟨fun i => ?_, fun x on => absurd (port x) on, fun i => ?_⟩, ?_⟩
  · simp [slot]
  · simp [slot]
  · rw [demand_eq_sum, Finset.sum_eq_zero fun i _ => slotDraw_idle (by rw [slot]; rfl)]
    exact Nat.zero_le _

theorem powerOn_budgetKept (lines : BitVec 6) (held : PerCp Bool) : (State.powerOn lines held).budgetKept := by
  rw [budgetKept_iff]
  refine ⟨powerOn_sound _, fun i => ?_, nofun⟩
  simp [State.powerOn, Bus.powerOn, Power.powerOn, State.slotRec, Vector.get_eq_getElem]

theorem powerOn_zonesInOrder (lines : BitVec 6) (held : PerCp Bool) :
    (State.powerOn lines held).zonesInOrder :=
  ⟨inOrder_nil, fun _ => rfl, nofun, inOrder_nil, nofun⟩

/-- A step by its command: power-on gives what it keeps, an idle step changes neither record. -/
theorem step_keptOver {s t : State} (h : step s = .next t) : KeptOver s t := by
  unfold step at h
  split at h
  · cases h
    unfold tick
    split
    · exact (steady_modLink .b LinkPort.advance (steady_modLink .a LinkPort.advance (steady_refl s))).keptOver
    · exact (steady_refl s).keptOver
  · rename_i i is _
    by_cases reset : ∃ lines, i = .powerOnReset lines
    · obtain ⟨lines, rfl⟩ := reset
      cases h
      exact ⟨fun _ => powerOn_budgetKept lines ⟨s.link.a.resetHeld, s.link.b.resetHeld⟩,
        fun _ => powerOn_zonesInOrder lines ⟨s.link.a.resetHeld, s.link.b.resetHeld⟩⟩
    · exact keptOver_exec (s := s.setPending is) i (fun lines e => reset ⟨lines, e⟩) h

/-- Settles O39: the slot and port records are upheld by every operation, a recompute ending within the budget
it forms, and a rise or a loss moves reported presence and card together. -/
theorem stepsKeepTheBudget : Obligations.StepsKeepTheBudget := by
  unfold Obligations.StepsKeepTheBudget
  exact fun s t hs h => (step_keptOver h).1 hs

/-- Settles O50: the zone tables are written by the edits, the commit, the activation and the abort alone, and
each leaves them in order. -/
theorem stepsKeepTheZoneTables : Obligations.StepsKeepTheZoneTables := by
  unfold Obligations.StepsKeepTheZoneTables
  exact fun s t hs h => (step_keptOver h).2 hs

end Sys2Proof.Machine
end


-- ==== Sys2Proof/Proofs/PowerOnValues.lean ====
section
/-! SUPPORT. The state after power-on reset, field by field, and what an idle queue brings. -/

namespace Sys2Proof.Machine

/-! ### The time base (O2) -/

theorem step_idle {s : State} (h : s.pending = []) : step s = .next (tick s) := by
  unfold step
  rw [h]

theorem tick_none {s : State} (h : due s = []) : tick s = (advanceLinks s).setTime (s.time + 1) := by
  unfold tick
  rw [h]

theorem tick_due {s : State} (h : due s ≠ []) : tick s = s.setPending (due s) := by
  unfold tick
  split
  · exact absurd ‹_› h
  · rfl

theorem mem_duePresence {s : State} {c : Cp} {x : Instr} :
    x ∈ duePresence s c ↔ deadlineReached c s = true
      ∧ x = if s.auth.holder = some c then .heartbeatExpiry else .peerDeadlineExpiry c := by
  unfold duePresence State.isHolder
  by_cases h : deadlineReached c s = true <;> by_cases k : s.auth.holder = some c <;> simp [h, k]

theorem mem_duePowerGood {s : State} {i : Slot} {x : Instr} :
    x ∈ duePowerGood s i ↔ (∃ d, (s.slotRec i).power = .powering d ∧ reached s.time d = true)
      ∧ x = .powerGoodDeadlineExpiry i := by
  unfold duePowerGood
  split
  · rename_i d e
    by_cases h : reached s.time d = true <;> simp [e, h]
  · rename_i other
    constructor
    · exact fun h => absurd h (List.not_mem_nil)
    · rintro ⟨⟨d, e, _⟩, _⟩
      exact absurd e (other d)

/-- The events that are due: a mark, expired presences, expired power-good deadlines. -/
theorem mem_due {s : State} {x : Instr} :
    x ∈ due s ↔ (markDue s = true ∧ x = .scanMark)
      ∨ (∃ c, deadlineReached c s = true
          ∧ x = if s.auth.holder = some c then .heartbeatExpiry else .peerDeadlineExpiry c)
      ∨ ∃ i, (∃ d, (s.slotRec i).power = .powering d ∧ reached s.time d = true)
          ∧ x = .powerGoodDeadlineExpiry i := by
  have mark : x ∈ (if markDue s then [Instr.scanMark] else []) ↔ markDue s = true ∧ x = .scanMark := by
    split <;> simp_all
  have either (P : Cp → Prop) : (∃ c, P c) ↔ P .a ∨ P .b :=
    ⟨fun ⟨c, h⟩ => by cases c <;> simp [h], fun h => h.elim (⟨_, ·⟩) (⟨_, ·⟩)⟩
  unfold due
  rw [List.mem_append, List.mem_append, List.mem_append, mark, mem_duePresence, mem_duePresence,
    List.mem_flatMap, either]
  simp only [mem_allSlots, true_and, mem_duePowerGood, or_assoc]

theorem markDue_iff (s : State) :
    markDue s = true ↔ s.time ≠ 0 ∧ s.time.toNat % 20 = 0 ∧ s.lastMark ≠ s.time := by
  simp [markDue, and_assoc]

theorem scanMark_mem_due (s : State) : Instr.scanMark ∈ due s ↔ markDue s = true := by
  rw [mem_due]
  constructor
  · rintro (⟨h, _⟩ | ⟨c, _, e⟩ | ⟨i, _, e⟩)
    · exact h
    · split at e <;> cases e
    · cases e
  · exact fun h => .inl ⟨h, rfl⟩

theorem heartbeatExpiry_mem_due (s : State) : Instr.heartbeatExpiry ∈ due s ↔
    ∃ c d, s.auth.holder = some c ∧ s.auth.presence.get c = .live d ∧ reached s.time d = true := by
  rw [mem_due]
  constructor
  · rintro (⟨_, e⟩ | ⟨c, h, e⟩ | ⟨i, _, e⟩)
    · cases e
    · split at e
      · rename_i holds
        obtain ⟨d, live, past⟩ := (deadlineReached_iff c s).1 h
        exact ⟨c, d, holds, live, past⟩
      · cases e
    · cases e
  · rintro ⟨c, d, holds, live, past⟩
    exact .inr (.inl ⟨c, (deadlineReached_iff c s).2 ⟨d, live, past⟩, (if_pos holds).symm⟩)

theorem peerDeadlineExpiry_mem_due (s : State) (c : Cp) : Instr.peerDeadlineExpiry c ∈ due s ↔
    ∃ d, s.auth.holder ≠ some c ∧ s.auth.presence.get c = .live d ∧ reached s.time d = true := by
  rw [mem_due]
  constructor
  · rintro (⟨_, e⟩ | ⟨c', h, e⟩ | ⟨i, _, e⟩)
    · cases e
    · split at e
      · cases e
      · rename_i other
        cases e
        obtain ⟨d, live, past⟩ := (deadlineReached_iff c s).1 h
        exact ⟨d, other, live, past⟩
    · cases e
  · rintro ⟨d, other, live, past⟩
    exact .inr (.inl ⟨c, (deadlineReached_iff c s).2 ⟨d, live, past⟩, (if_neg other).symm⟩)

theorem powerGoodDeadlineExpiry_mem_due (s : State) (i : Slot) :
    Instr.powerGoodDeadlineExpiry i ∈ due s ↔
      ∃ d, (s.slotRec i).power = .powering d ∧ reached s.time d = true := by
  rw [mem_due]
  constructor
  · rintro (⟨_, e⟩ | ⟨c, _, e⟩ | ⟨j, h, e⟩)
    · cases e
    · split at e <;> cases e
    · cases e
      exact h
  · exact fun h => .inr (.inr ⟨i, h, rfl⟩)

theorem due_kinds {s : State} {x : Instr} (h : x ∈ due s) : x = .scanMark ∨ x = .heartbeatExpiry
    ∨ (∃ c, x = .peerDeadlineExpiry c) ∨ ∃ j, x = .powerGoodDeadlineExpiry j := by
  rcases mem_due.1 h with ⟨_, e⟩ | ⟨c, _, e⟩ | ⟨i, _, e⟩
  · exact .inl e
  · split at e
    · exact .inr (.inl e)
    · exact .inr (.inr (.inl ⟨c, e⟩))
  · exact .inr (.inr (.inr ⟨i, e⟩))

/-- Settles O2, by what the list of due events holds. -/
theorem idleStepPassesAMillisecond : Obligations.IdleStepPassesAMillisecond := by
  unfold Obligations.IdleStepPassesAMillisecond
  refine ⟨fun now d n => ⟨decide_eq_true_iff, timeAfter_toNat d n, reached_after d n,
    not_reached_before d n⟩, fun i s t hi h => (exec_time i s t hi h).1, fun s idle => ?_⟩
  refine ⟨fun none => ?_, fun some => ?_, (scanMark_mem_due s).trans (markDue_iff s),
    heartbeatExpiry_mem_due s, peerDeadlineExpiry_mem_due s, powerGoodDeadlineExpiry_mem_due s,
    fun i h => due_kinds h⟩
  · rw [step_idle idle, tick_none none]
  · rw [step_idle idle, tick_due some]

/-! ### Power-on reset (O4, O5) -/

theorem exec_powerOnReset (lines : BitVec 6) (s : State) :
    exec (.powerOnReset lines) s
      = .next ((State.powerOn lines ⟨s.link.a.resetHeld, s.link.b.resetHeld⟩).setPending s.pending) := rfl

/-- Two strap lines as a number, the higher-numbered line first. -/
theorem twoLines (x : BitVec 6) (k : Nat) :
    (x.extractLsb' k 2).toNat = 2 * (x.getLsbD (k + 1)).toNat + (x.getLsbD k).toNat := by
  have high : x.toNat / 2 ^ (k + 1) = x.toNat / 2 ^ k / 2 := by
    rw [Nat.pow_succ, Nat.div_div_eq_div_mul]
  simp only [BitVec.extractLsb'_toNat, Nat.shiftRight_eq_div_pow, BitVec.getLsbD, Nat.testBit,
    Nat.one_and_eq_mod_two, high]
  generalize x.toNat / 2 ^ k = n
  rcases Nat.mod_two_eq_zero_or_one n with a | a <;>
    rcases Nat.mod_two_eq_zero_or_one (n / 2) with b | b <;> simp [a, b] <;> omega

theorem ofLines_period (lines : BitVec 6) : (Straps.ofLines lines).period =
    match lines.getLsbD 1, lines.getLsbD 0 with
      | false, false => .ms250
      | false, true => .ms500
      | true, false => .ms1000
      | true, true => .ms2000 := by
  unfold Straps.ofLines
  rw [twoLines lines 0]
  cases lines.getLsbD 0 <;> cases lines.getLsbD 1 <;> rfl

theorem ofLines_policy (lines : BitVec 6) : (Straps.ofLines lines).policy =
    match lines.getLsbD 4, lines.getLsbD 3 with
      | false, false => .n
      | true, false => .grid
      | _, true => .nPlus1 := by
  unfold Straps.ofLines
  rw [twoLines lines 3]
  cases lines.getLsbD 3 <;> cases lines.getLsbD 4 <;> rfl

theorem mem_numbersTo (n k : Nat) : n ∈ numbersTo k ↔ 1 ≤ n ∧ n ≤ k := by
  unfold numbersTo
  rw [List.mem_map]
  constructor
  · rintro ⟨m, h, rfl⟩
    have := List.mem_range.1 h
    omega
  · rintro ⟨h, k⟩
    exact ⟨n - 1, List.mem_range.2 (by omega), by omega⟩

theorem AlarmClass.mem_all (c : AlarmClass) : c ∈ AlarmClass.all := by cases c <;> decide

theorem mem_condRows (c : AlarmClass) (n : Nat) :
    (∃ r ∈ condRows, r.cls = c ∧ r.number = n) ↔ c.kind = .condition ∧ 1 ≤ n ∧ n ≤ c.count := by
  constructor
  · rintro ⟨r, h, rfl, rfl⟩
    obtain ⟨c, ofKind, h⟩ := List.mem_flatMap.1 h
    obtain ⟨n, inRange, rfl⟩ := List.mem_map.1 h
    exact ⟨of_decide_eq_true (List.mem_filter.1 ofKind).2, (mem_numbersTo n _).1 inRange⟩
  · rintro ⟨ofKind, inRange⟩
    refine ⟨CondRow.powerOn c n, List.mem_flatMap.2 ⟨c, ?_, ?_⟩, rfl, rfl⟩
    · exact List.mem_filter.2 ⟨c.mem_all, by simpa using ofKind⟩
    · exact List.mem_map.2 ⟨n, (mem_numbersTo n _).2 inRange, rfl⟩

theorem mem_eventRows (c : AlarmClass) (n : Nat) :
    (∃ r ∈ eventRows, r.cls = c ∧ r.number = n) ↔ c.kind = .event ∧ 1 ≤ n ∧ n ≤ c.count := by
  constructor
  · rintro ⟨r, h, rfl, rfl⟩
    obtain ⟨c, ofKind, h⟩ := List.mem_flatMap.1 h
    obtain ⟨n, inRange, rfl⟩ := List.mem_map.1 h
    exact ⟨of_decide_eq_true (List.mem_filter.1 ofKind).2, (mem_numbersTo n _).1 inRange⟩
  · rintro ⟨ofKind, inRange⟩
    refine ⟨EventRow.powerOn c n, List.mem_flatMap.2 ⟨c, ?_, ?_⟩, rfl, rfl⟩
    · exact List.mem_filter.2 ⟨c.mem_all, by simpa using ofKind⟩
    · exact List.mem_map.2 ⟨n, (mem_numbersTo n _).2 inRange, rfl⟩

theorem classEntry_powerOn (c : AlarmClass) : classEntry Alarm.powerOn c = c.defaults := by
  cases c <;> rfl

/-- One row of the class table of R159, and the alarm rows that it stands for. -/
theorem classRow_powerOn {c : AlarmClass} {k : AlarmKind} {count : Nat} {e : ClassEntry}
    (kind : c.kind = k) (rows : c.count = count) (entry : c.defaults = e) :
    classEntry Alarm.powerOn c = e ∧ ∀ n,
      ((∃ r ∈ condRows, r.cls = c ∧ r.number = n) ↔ k = .condition ∧ 1 ≤ n ∧ n ≤ count)
      ∧ ((∃ r ∈ eventRows, r.cls = c ∧ r.number = n) ↔ k = .event ∧ 1 ≤ n ∧ n ≤ count) := by
  subst kind rows entry
  exact ⟨classEntry_powerOn c, fun n => ⟨mem_condRows c n, mem_eventRows c n⟩⟩

/-- Every entry of a replicated row is the entry that was replicated. -/
theorem get_replicate {α : Type} (n : Nat) (x : α) (i : Fin n) : (Vector.replicate n x).get i = x := by
  simp [Vector.get_eq_getElem]

theorem distributionSet_powerOn (lines : BitVec 6) (held : PerCp Bool) :
    distributionSet (State.powerOn lines held) = [] := by
  refine List.filter_eq_nil_iff.2 fun i _ => ?_
  simp [State.statusOf, State.powerOn, Zoning.powerOn]

theorem catchUpSet_powerOn (lines : BitVec 6) (held : PerCp Bool) :
    catchUpSet (State.powerOn lines held) = [] := by
  refine List.filter_eq_nil_iff.2 fun i _ => ?_
  simp [State.powerOn, Zoning.powerOn]

/-- Settles O4, field by field. -/
theorem powerOnResetValues : Obligations.PowerOnResetValues := by
  unfold Obligations.PowerOnResetValues
  intro lines s
  refine ⟨_, exec_powerOnReset lines s, ofLines_period lines, rfl, ofLines_policy lines, ?_⟩
  refine ⟨rfl, rfl, rfl, rfl, rfl, fun c => ?_, ?_⟩
  · cases c <;> exact ⟨rfl, rfl, rfl, rfl, rfl, rfl, rfl, rfl, rfl, rfl, rfl, rfl, rfl, rfl⟩
  refine ⟨rfl, rfl, rfl, rfl, rfl, rfl, ?_⟩
  refine ⟨rfl, rfl, rfl, rfl, rfl, rfl, rfl, rfl, rfl, get_replicate 8 _, get_replicate 4 _,
    get_replicate 3 _, ?_⟩
  refine ⟨rfl, rfl, rfl, rfl, rfl, rfl, rfl, rfl, rfl, get_replicate 2 _, get_replicate 4 _, ?_, ?_⟩
  · intro y
    have bare : (State.powerOn lines ⟨s.link.a.resetHeld, s.link.b.resetHeld⟩).cool.trays.get y
        = ⟨none, 0, Vector.replicate 4 RotorRec.bare⟩ := get_replicate 3 _ y
    exact ⟨congrArg TrayRec.maximum bare, congrArg TrayRec.settle bare,
      fun r => (congrArg (fun x => x.rotors.get r) bare).trans (get_replicate 4 _ r)⟩
  refine ⟨rfl, get_replicate 256 _, rfl, rfl, get_replicate 4 _, rfl, rfl, rfl, rfl, rfl, rfl, rfl,
    get_replicate 8 _, ?_⟩
  refine ⟨rfl, rfl, rfl, get_replicate 256 _, rfl, rfl, rfl, rfl, rfl, rfl, rfl, rfl,
    distributionSet_powerOn lines ⟨s.link.a.resetHeld, s.link.b.resetHeld⟩,
    catchUpSet_powerOn lines ⟨s.link.a.resetHeld, s.link.b.resetHeld⟩, get_replicate 8 _, rfl, rfl, rfl, rfl, ?_⟩
  refine ⟨?_, fun r h => ?_, fun r h => ?_⟩
  · have table (x : AlarmClass × AlarmKind × Nat × Nat × Route)
        (h : x.1.kind = x.2.1 ∧ x.1.count = x.2.2.1 ∧ x.1.defaults = ⟨x.2.2.2.1, x.2.2.2.2⟩) :=
      classRow_powerOn h.1 h.2.1 h.2.2
    exact fun x h => table x (by revert x; decide)
  · obtain ⟨c, n, rfl⟩ := condRows_bare h
    exact ⟨rfl, rfl, rfl, rfl⟩
  · obtain ⟨c, n, rfl⟩ := eventRows_bare h
    exact ⟨rfl, rfl, rfl, rfl⟩

/-- Settles O5: every kept relation holds after power-on, whatever the lines are. -/
theorem resetStateIsSound : Obligations.ResetStateIsSound := by
  unfold Obligations.ResetStateIsSound
  refine ⟨fun s idle a b => ?_, powerOn_attentionAgrees _ _, ?_, ?_, ?_, ?_, powerOn_budgetKept _ _,
    powerOn_zonesInOrder _ _⟩
  · rw [exec_powerOnReset, idle, a, b]
    rfl
  · exact ⟨Nat.le_of_ble_eq_true rfl, Nat.le_of_ble_eq_true rfl, fun _ => Nat.le_of_ble_eq_true rfl⟩
  · exact ⟨Nat.zero_le _, Nat.zero_le _⟩
  · exact Nat.zero_le _
  · exact ⟨List.nodup_nil, Nat.zero_le _⟩

end Sys2Proof.Machine
end


-- ==== Sys2Proof/Proofs/LinkRules.lean ====
section
/-! SUPPORT. The supervisor links: how a frame is read, how a request is queued, taken and settled, and what
a HEARTBEAT, a bad frame and the reset line do. -/

namespace Sys2Proof.Machine

/-! ### Frames and runs of bytes (O10, O11) -/

/-- A frame whose CRC-16 is right carries the tag, the code and the parameters of its body. -/
theorem parseFrame_good (len tag code : Byte) (params crc : List Byte)
    (fits : (tag :: code :: params).length = len.toNat) (two : crc.length = 2)
    (sum : beNum crc = (crc16 (len :: tag :: code :: params)).toNat) :
    parseFrame (0xA5 :: len :: ((tag :: code :: params) ++ crc)) = some ⟨tag.setWidth 4, code, params⟩ := by
  generalize body : tag :: code :: params = b at fits sum
  have long : 2 ≤ len.toNat := by rw [← fits, ← body]; simp
  have kept : (b ++ crc).take len.toNat = b := by rw [← fits, List.take_left]
  have rest : (b ++ crc).drop len.toNat = crc := by rw [← fits, List.drop_left]
  unfold parseFrame
  dsimp only
  rw [kept, rest, if_pos ⟨rfl, long, by simp [fits, two], sum⟩, ← body]

/-- A frame whose CRC-16 differs is bad. -/
theorem parseFrame_badSum (len : Byte) (body crc : List Byte) (fits : body.length = len.toNat)
    (differs : beNum crc ≠ (crc16 (len :: body)).toNat) :
    parseFrame (0xA5 :: len :: (body ++ crc)) = none := by
  have kept : (body ++ crc).take len.toNat = body := by rw [← fits, List.take_left]
  have rest : (body ++ crc).drop len.toNat = crc := by rw [← fits, List.drop_left]
  unfold parseFrame
  dsimp only
  rw [kept, rest, if_neg fun h => differs h.2.2.2]

/-- A frame that is cut short is bad. -/
theorem parseFrame_cut (len : Byte) (body : List Byte) (short : body.length < len.toNat + 2) :
    parseFrame (0xA5 :: len :: body) = none := by
  unfold parseFrame
  dsimp only
  rw [if_neg fun h => by omega]

/-- The length byte of a frame. -/
def Frame.lengthByte (f : Frame) : Byte := BitVec.ofNat 8 (f.params.length + 2)

theorem Frame.lengthByte_toNat {f : Frame} (h : f.params.length ≤ 253) :
    f.lengthByte.toNat = f.params.length + 2 := by
  simp only [Frame.lengthByte, BitVec.toNat_ofNat]
  omega

/-- The CRC-16 of a frame. -/
def Frame.sum (f : Frame) : List Byte :=
  be 2 (crc16 (f.lengthByte :: f.tag.setWidth 8 :: f.code :: f.params)).toNat

theorem Frame.bytes_eq (f : Frame) :
    f.bytes = 0xA5 :: f.lengthByte :: ((f.tag.setWidth 8 :: f.code :: f.params) ++ f.sum) := rfl

theorem parseFrame_bytes {f : Frame} (h : f.params.length ≤ 253) : parseFrame f.bytes = some f := by
  have tag : (f.tag.setWidth 8).setWidth 4 = f.tag := by
    apply BitVec.eq_of_toNat_eq
    simp only [BitVec.toNat_setWidth]
    omega
  have small := (crc16 (f.lengthByte :: f.tag.setWidth 8 :: f.code :: f.params)).isLt
  rw [Frame.bytes_eq, parseFrame_good, tag]
  · rw [Frame.lengthByte_toNat h]
    rfl
  · exact be_length 2 _
  · rw [Frame.sum, beNum_be]
    exact Nat.mod_eq_of_lt small

/-- Settles O11: length byte and CRC-16 are those of the body. -/
theorem framesReadBack : Obligations.FramesReadBack := by
  unfold Obligations.FramesReadBack
  exact fun f h => parseFrame_bytes h

theorem received_bytes_append {f : Frame} (h : f.params.length ≤ 253) (bs : List Byte) :
    received (f.bytes ++ bs) = some f :: received bs := by
  have long : 2 ≤ f.lengthByte.toNat := by rw [Frame.lengthByte_toNat h]; omega
  have fits : ((f.tag.setWidth 8 :: f.code :: f.params) ++ f.sum).length = f.lengthByte.toNat + 2 := by
    rw [Frame.lengthByte_toNat h, List.length_append, Frame.sum, be_length]
    rfl
  rw [← parseFrame_bytes h, Frame.bytes_eq]
  exact received_frame f.lengthByte _ bs long fits

theorem received_bytes {f : Frame} (h : f.params.length ≤ 253) : received f.bytes = [some f] := by
  rw [← List.append_nil f.bytes, received_bytes_append h, received_nil]

theorem exec_goodFrame_bytes (c : Cp) {f : Frame} (h : f.params.length ≤ 253) (s : State) :
    exec (.goodFrame c f.bytes) s = .next (arbitrate (handleFrame c f s)) :=
  exec_goodFrame_one c _ (some f) s (received_bytes h)

/-- The parameters of a request that fits are those of a frame. -/
theorem Request.params_length {r : Request} (h : r.fits = true) : r.params.length ≤ 253 := by
  cases r
  case writeHandover first count words =>
    simp only [Request.fits, handoverFits, Bool.and_eq_true, decide_eq_true_eq] at h
    have four : (words.flatMap fun w => be 4 w.toNat).length = 4 * words.length := by
      rw [List.length_flatMap, List.map_congr_left (g := fun _ => 4) fun w _ => be_length 4 _]
      simp [Nat.mul_comm]
    simp only [Request.params, List.cons_append, List.nil_append, List.length_cons, four]
    omega
  case installEntitlement e => simp [Request.params, e.bytes_length]
  all_goals simp [Request.params]

theorem exec_badFrame (c : Cp) (s : State) :
    exec (.badFrame c) s = .next (arbitrate (handleBadFrame c s)) := rfl

theorem exec_heartbeat (c : Cp) (tag : BitVec 4) (s : State) :
    exec (.heartbeat c tag) s = .next (arbitrate (handleFrame c ⟨tag, 0x01, []⟩ s)) := rfl

theorem exec_goodFrame (c : Cp) (bytes : List Byte) (s : State) :
    exec (.goodFrame c bytes) s = .next (arbitrate (handleBytes c bytes s)) := rfl

theorem Request.frame_length {r : Request} (tag : BitVec 4) (h : r.fits = true) :
    (r.frame tag).params.length ≤ 253 := Request.params_length h

/-- A holder-only request of the holder passes the check of R16. -/
theorem isHolder_of {r : Request} {c : Cp} {s : State} (h : r.holderOnly = true → s.auth.holder = some c) :
    r.holderOnly = true → s.isHolder c = true := fun k => by simp [State.isHolder, h k]

/-- Settles O10, by how a run of bytes is cut into frames. -/
theorem goodFrameCarriesTheRequest : Obligations.GoodFrameCarriesTheRequest := by
  unfold Obligations.GoodFrameCarriesTheRequest
  refine ⟨fun c tag r s fits => ?_, fun c tag s => ?_, fun c b bytes s => ⟨rfl, fun h => ?_⟩,
    fun c f bytes s fits => ?_, fun c len body crc bytes s =>
      ⟨exec_goodFrame_one c [0xA5] none s rfl, fun long short => ?_, ?_⟩⟩
  · have row : exec (.goodFrame c (r.frame tag).bytes) s = exec (r.command c tag) s := by
      rw [exec_goodFrame_bytes c (r.frame_length tag fits), exec_command]
    exact ⟨row, fun ready may => row.trans (exec_ready c tag r s ready fits (isHolder_of may))⟩
  · exact exec_goodFrame_bytes c (f := ⟨tag, 0x01, []⟩) (Nat.zero_le _) s
  · rw [exec_goodFrame, exec_goodFrame, handleBytes, handleBytes, received_idle b bytes h]
  · exact ⟨_, exec_goodFrame_bytes c fits s,
      exec_goodFrame_cons c _ bytes (some f) s (received_bytes_append fits bytes)⟩
  · exact exec_goodFrame_one c _ none s
      ((received_cut len body long short).trans (by rw [parseFrame_cut len body short]))
  · refine ⟨_, exec_badFrame c s, fun short => ?_, fun long fits two differs => ?_⟩
    · exact exec_goodFrame_cons c _ bytes none s (received_short len bytes short)
    · refine exec_goodFrame_cons c _ bytes none s ?_
      rw [received_frame len (body ++ crc) bytes long (by simp [fits, two]),
        parseFrame_badSum len body crc fits differs]

/-! ### The queue (O6, O12, O13, O14) -/

theorem modLink_modLink (s : State) (c : Cp) (f g : LinkPort → LinkPort) :
    (s.modLink c f).modLink c g = s.modLink c fun p => g (f p) := by
  simp [State.modLink]

theorem modLink_get_self (s : State) (c : Cp) (f : LinkPort → LinkPort) :
    ((s.modLink c f).link.get c) = f (s.link.get c) := by simp

/-- A change of a port that changes nothing of it. -/
theorem modLink_same {s : State} {c : Cp} {f : LinkPort → LinkPort} (h : f (s.link.get c) = s.link.get c) :
    s.modLink c f = s := by
  simp [State.modLink, h]

/-- Two changes of a port that agree on what it is. -/
theorem modLink_congr {s : State} {c : Cp} {f g : LinkPort → LinkPort}
    (h : f (s.link.get c) = g (s.link.get c)) : s.modLink c f = s.modLink c g := by
  simp [State.modLink, h]

theorem serveQueue_busy {s : State} {c : Cp} (h : (s.link.get c).current.isSome = true) :
    serveQueue c s = s := by
  unfold serveQueue
  cases (s.link.get c).queue.length with
  | zero => rfl
  | succ n => exact if_pos h

theorem serveQueue_empty {s : State} {c : Cp} (h : (s.link.get c).queue = []) : serveQueue c s = s := by
  unfold serveQueue
  rw [h]
  rfl

/-- The head of the queue is judged and settled, and the port goes on (R187). -/
theorem serveQueue_cons {s : State} {c : Cp} {f : Frame} {rest : List Frame}
    (idle : (s.link.get c).current = none) (queue : (s.link.get c).queue = f :: rest) :
    serveQueue c s = serveQueue c (settleRequest c f (judgeRequest c f
      (s.modLink c fun p => { p with queue := rest }))) := by
  have one (n : Nat) : takeRequests c (n + 1) s = takeRequests c n (settleRequest c f (judgeRequest c f
      (s.modLink c fun p => { p with queue := rest }))) := by
    rw [takeRequests, if_neg (by simp [idle]), queue]
  rw [serveQueue, queue, List.length_cons, one, takeRequests_eq]
  rw [taken_queue]
  simp

theorem handleFrame_request {s : State} {c : Cp} {f : Frame} (released : (s.link.get c).resetHeld = false)
    (other : f.code ≠ heartbeatCode) : handleFrame c f s = requestFrame c f (linkUp c s) := by
  unfold handleFrame
  rw [if_neg (by simp [released]), if_neg other]

theorem linkUp_heard {s : State} {c : Cp} (up : (s.link.get c).up = true) : linkUp c s = s.heard c :=
  if_pos up

/-- While a request is in execution, the next is queued (R186). -/
theorem requestFrame_busy {s : State} {c : Cp} {f : Frame} (busy : (s.link.get c).current.isSome = true)
    (room : (s.link.get c).queue.length < 4) :
    requestFrame c f s = s.modLink c fun p => { p with queue := p.queue ++ [f] } := by
  unfold requestFrame
  rw [if_neg (by omega), serveQueue_busy (by simpa using busy)]

theorem requestFrame_full {s : State} {c : Cp} {f : Frame} (full : 4 ≤ (s.link.get c).queue.length) :
    requestFrame c f s = s.answeredAtOnce c f.tag f.code .queueFull [] :=
  if_pos full

/-- An idle port takes the request at once (R187). -/
theorem requestFrame_idle {s : State} {c : Cp} {f : Frame} (idle : (s.link.get c).current = none)
    (empty : (s.link.get c).queue = []) :
    requestFrame c f s = settleRequest c f (judgeRequest c f s) := by
  unfold requestFrame
  rw [if_neg (by simp [empty]), serveQueue_cons (f := f) (rest := []) (by simpa using idle) (by simp [empty]),
    modLink_modLink, modLink_same, serveQueue_empty]
  · rw [taken_queue, empty]
  · simp [← empty]

/-- Settles O12: a request in execution keeps the port from taking another. -/
theorem queueTakesFourRequests : Obligations.QueueTakesFourRequests := by
  unfold Obligations.QueueTakesFourRequests
  intro c tag r f s up released busy other fits
  have room {g : Frame} (code : g.code ≠ 0x01) (h : (s.link.get c).queue.length < 4) :
      handleFrame c g s = s.modLink c fun p => { p with badFrames := 0, queue := p.queue ++ [g] } := by
    rw [handleFrame_request released code, linkUp_heard up,
      requestFrame_busy (by simpa [State.heard] using busy) (by simpa [State.heard] using h), State.heard,
      modLink_modLink]
  have full {g : Frame} (code : g.code ≠ 0x01) (h : 4 ≤ (s.link.get c).queue.length) :
      handleFrame c g s = (s.heard c).answeredAtOnce c g.tag g.code .queueFull [] := by
    rw [handleFrame_request released code, linkUp_heard up,
      requestFrame_full (by simpa [State.heard] using h)]
  refine ⟨⟨fun h => ?_, fun h => ?_⟩, fun h => ?_, fun h => ?_⟩
  · rw [exec_command, room r.code_ne_heartbeat h]
  · rw [exec_command, full r.code_ne_heartbeat h]
  · rw [exec_goodFrame_bytes c fits, room other h]
  · rw [exec_goodFrame_bytes c fits, full other h]

theorem judgeRequest_silent {s : State} {c : Cp} (f : Frame) (h : s.auth.presence.get c = .silent) :
    judgeRequest c f s = (s, .reply .silent []) := if_pos h

theorem judgeRequest_unknown {s : State} {c : Cp} {f : Frame} (h : s.auth.presence.get c ≠ .silent)
    (k : Request.parse f.code f.params = none) : judgeRequest c f s = (s, .reply .badParam []) := by
  unfold judgeRequest
  rw [if_neg h, k]

theorem judgeRequest_notHolder {s : State} {c : Cp} {f : Frame} {r : Request}
    (h : s.auth.presence.get c ≠ .silent) (k : Request.parse f.code f.params = some r)
    (only : r.holderOnly = true) (not : s.auth.holder ≠ some c) :
    judgeRequest c f s = (s, .reply .notHolder []) := by
  unfold judgeRequest
  rw [if_neg h, k]
  exact if_pos (by simp [only, State.isHolder, not])

theorem judgeRequest_served {s : State} {c : Cp} {f : Frame} {r : Request}
    (h : s.auth.presence.get c ≠ .silent) (k : Request.parse f.code f.params = some r)
    (may : r.holderOnly = true → s.auth.holder = some c) : judgeRequest c f s = serveRequest c r s := by
  unfold judgeRequest
  rw [if_neg h, k]
  refine if_neg ?_
  by_cases only : r.holderOnly = true
  · simp [State.isHolder, may only]
  · simp [only]

theorem settleRequest_reply (c : Cp) (f : Frame) (s : State) (o : OutcomeCode) (bs : List Byte) :
    settleRequest c f (s, .reply o bs) = s.answered c f.tag f.code o bs := rfl

/-- A frame on an idle port of an UP link is judged and settled. -/
theorem handleFrame_idle {s : State} {c : Cp} {f : Frame} (up : (s.link.get c).up = true)
    (released : (s.link.get c).resetHeld = false) (idle : (s.link.get c).current = none)
    (empty : (s.link.get c).queue = []) (other : f.code ≠ 0x01) :
    handleFrame c f s = settleRequest c f (judgeRequest c f (s.heard c)) :=
  handleFrame_ready c f s other up released idle empty

/-- Settles O13, by the order in which a request that is taken is judged. -/
theorem requestsAreFenced : Obligations.RequestsAreFenced := by
  unfold Obligations.RequestsAreFenced
  refine ⟨fun c tag r s fits up released idle empty => ?_, fun c f s fits up released => ⟨?_, ?_⟩⟩
  · have taken : exec (r.command c tag) s
        = .next (arbitrate (settleRequest c (r.frame tag) (judgeRequest c (r.frame tag) (s.heard c)))) := by
      rw [exec_command, handleFrame_idle up released idle empty r.code_ne_heartbeat]
    have parsed : Request.parse (r.frame tag).code (r.frame tag).params = some r := r.parse_params fits
    refine ⟨fun silent => ?_, fun audible only not => ?_, fun audible may => ?_⟩
    · rw [taken, judgeRequest_silent (s := s.heard c) _ silent]
      rfl
    · rw [taken, judgeRequest_notHolder (s := s.heard c) audible parsed only not]
      rfl
    · rw [taken, judgeRequest_served (s := s.heard c) audible parsed may]
  · intro other idle empty
    have taken : exec (.goodFrame c f.bytes) s
        = .next (arbitrate (settleRequest c f (judgeRequest c f (s.heard c)))) := by
      rw [exec_goodFrame_bytes c fits, handleFrame_idle up released idle empty other]
    refine ⟨fun silent => ?_, fun audible unknown => ?_⟩
    · rw [taken, judgeRequest_silent (s := s.heard c) _ silent]
      rfl
    · rw [taken, judgeRequest_unknown (s := s.heard c) audible unknown]
      rfl
  · intro heartbeat params
    have code : f.code = heartbeatCode := heartbeat
    have refused : handleFrame c f s = (s.heard c).answeredAtOnce c f.tag f.code .badParam [] := by
      unfold handleFrame heartbeatFrame
      rw [if_neg (by simp [released]), if_pos code, linkUp_heard up, if_neg (by simpa using params)]
      rfl
    rw [exec_goodFrame_bytes c fits, refused]

/-- What the port does with a request that the head of the queue is (R187). -/
theorem goesOn_iff {s t : State} {c : Cp} {f : Frame} {rest : List Frame} {r : State × Took}
    (idle : (s.link.get c).current = none) (queue : (s.link.get c).queue = f :: rest)
    (judged : judgeRequest c f (s.modLink c fun p => { p with queue := rest }) = r)
    (settled : settleRequest c f r = t) : serveQueue c s = serveQueue c t := by
  rw [serveQueue_cons idle queue, judged, settled]

theorem LinkPort.transferLeaving_iff (p : LinkPort) : p.transferLeaving = true ↔
    (∃ tag code, p.current = some ⟨tag, code, .transfer, false⟩) ∧ p.waiting = [] := by
  unfold LinkPort.transferLeaving
  split
  · rename_i tag code e
    simp [e]
  · rename_i other
    simp only [Bool.false_eq_true, false_iff, not_and]
    rintro ⟨tag, code, e⟩
    exact absurd e (other tag code)

/-- While the response of a data-transfer read leaves, the port waits for its end. -/
theorem LinkPort.advance_stays {p : LinkPort} (h : p.up = false ∨ p.transferLeaving = true) :
    p.advance = p := by
  unfold LinkPort.advance
  exact if_pos (by rcases h with h | h <;> simp [h])

theorem LinkPort.advance_next {p : LinkPort} (up : p.up = true) (free : p.transferLeaving = false) :
    p.advance = match p.immediate, p.waiting with
      | r :: rs, _ => { p with leaving := some r, immediate := rs }
      | [], r :: rs => { p with leaving := some r, waiting := rs }
      | [], [] => { p with leaving := none } := by
  unfold LinkPort.advance
  exact if_neg (by simp [up, free])

theorem LinkPort.transferred_of_waiting {p : LinkPort} (h : p.waiting ≠ []) :
    p.transferred = { p with leaving := none, immediate := [], waiting := [] } := by
  unfold LinkPort.transferred
  exact if_neg (by simpa using h)

theorem LinkPort.transferred_of_none {p : LinkPort} (h : p.waiting = []) :
    p.transferred = { p with leaving := none } := by
  unfold LinkPort.transferred
  exact if_pos (by simp [h])

theorem completeTransfer_eq {c : Cp} {s : State} {tag : BitVec 4} {code : Byte} {dropped : Bool}
    (h : (s.link.get c).current = some ⟨tag, code, .transfer, dropped⟩) :
    completeTransfer c s = serveQueue c (s.modLink c fun p =>
      { (if dropped then p else p.transferred) with current := none }) := by
  unfold completeTransfer
  rw [h]

theorem advanceLinks_get (c : Cp) (s : State) : (advanceLinks s).link.get c = (s.link.get c).advance := by
  cases c <;> rfl

/-- Settles O14, by what the end of a read leaves of the port, and what the port then takes and sends. -/
theorem transferReadCompletes : Obligations.TransferReadCompletes := by
  unfold Obligations.TransferReadCompletes
  refine ⟨fun c s tag code => ?_, fun c s h => ?_, fun c f rest s u idle queue hu => ?_,
    fun c f o bs phase t => ⟨rfl, rfl, rfl⟩, fun p tag code r rest => ?_, fun c s => advanceLinks_get c s⟩
  · have ends {dropped : Bool} (h : (s.link.get c).current = some ⟨tag, code, .transfer, dropped⟩)
        {f : LinkPort → LinkPort} (hf : { (if dropped then s.link.get c else (s.link.get c).transferred)
          with current := none } = f (s.link.get c)) :
        exec (.dataTransferReadComplete c) s = .next (arbitrate (serveQueue c (s.modLink c f))) := by
      show Host.Outcome.next (arbitrate (completeTransfer c s)) = _
      rw [completeTransfer_eq h, modLink_congr hf]
    refine ⟨fun h waiting => ends h ?_, fun h none => ends h ?_, fun h => ends h rfl⟩
    · rw [LinkPort.transferred_of_waiting waiting]
      rfl
    · rw [LinkPort.transferred_of_none none]
      rfl
  · exact h.elim serveQueue_busy serveQueue_empty
  · subst hu
    refine ⟨fun silent => ?_, fun audible unknown => ?_, fun r audible parsed =>
      ⟨fun only not => ?_, fun may => ?_⟩⟩
    · exact goesOn_iff idle queue (judgeRequest_silent _ silent) rfl
    · exact goesOn_iff idle queue (judgeRequest_unknown audible unknown) rfl
    · exact goesOn_iff idle queue (judgeRequest_notHolder audible parsed only not) rfl
    · exact goesOn_iff idle queue (judgeRequest_served audible parsed may) rfl
  · intro free
    have freed (h : free) : p.transferLeaving = false := by
      rw [← Bool.not_eq_true, LinkPort.transferLeaving_iff]
      rintro ⟨⟨tag, code, e⟩, none⟩
      exact h.elim (fun k => k none) (fun k => k tag code e)
    refine ⟨fun down => LinkPort.advance_stays (.inl down), fun h none =>
      LinkPort.advance_stays (.inr ((LinkPort.transferLeaving_iff p).2 ⟨⟨tag, code, h⟩, none⟩)),
      fun up h e => ?_, fun up h e e' => ?_, fun up h e e' => ?_, fun e => ?_, fun e => ?_⟩
    · rw [LinkPort.advance_next up (freed h), e]
    · rw [LinkPort.advance_next up (freed h), e, e']
    · rw [LinkPort.advance_next up (freed h), e, e']
    · rw [LinkPort.sends, e]
    · rw [LinkPort.sends, e]
      rfl

end Sys2Proof.Machine
end


-- ==== Sys2Proof/Proofs/OperandCodes.lean ====
section
/-! SUPPORT. What each operand code names: one lemma for the values in range, one for the others. And a
request that its block answers when it takes it, stated for the holder and for any CP. -/

namespace Sys2Proof.Machine

/-! ### Numbers -/

theorem index256_some {w : BitVec 16} {n : Fin 256} (h : w.toNat = n.val) : index256 w = some n := by
  unfold index256
  rw [dif_pos (by omega)]
  exact congrArg some (Fin.ext h)

theorem index256_none {w : BitVec 16} (h : 255 < w.toNat) : index256 w = none :=
  dif_neg (by omega)

theorem slotOf_some {b : Byte} {i : Slot} (h : b.toNat = i.val + 1) : slotOf b = some i := by
  unfold slotOf
  rw [dif_pos (by omega)]
  exact congrArg some (Fin.ext (by simp only; omega))

theorem slotOf_none {b : Byte} (h : b.toNat = 0 ∨ 8 < b.toNat) : slotOf b = none :=
  dif_neg (by omega)

theorem trayOf_some {b : Byte} {y : Tray} (h : b.toNat = y.val + 1) : trayOf b = some y := by
  unfold trayOf
  rw [dif_pos (by omega)]
  exact congrArg some (Fin.ext (by simp only; omega))

theorem trayOf_none {b : Byte} (h : b.toNat = 0 ∨ 3 < b.toNat) : trayOf b = none :=
  dif_neg (by omega)

theorem halfOf_some {b : Byte} {h : Fin 2} (e : b.toNat = h.val) : halfOf b = some h := by
  unfold halfOf
  rw [e]
  match h with
  | 0 => rfl
  | 1 => rfl

theorem halfOf_none {b : Byte} (h : 1 < b.toNat) : halfOf b = none := by
  unfold halfOf
  split
  · omega
  · omega
  · rfl

/-! ### Enumerated values -/

theorem cpOf_some {b : Byte} {c : Cp} (h : b.toNat = cpNumber c) : cpOf b = some c := by
  unfold cpOf
  rw [h]
  cases c <;> rfl

theorem cpOf_none {b : Byte} (h : b.toNat ≠ 1 ∧ b.toNat ≠ 2) : cpOf b = none := by
  unfold cpOf
  split
  · exact absurd ‹_› h.1
  · exact absurd ‹_› h.2
  · rfl

theorem slotActionOf_some {b : Byte} {on : Bool} (h : b.toNat = if on then 1 else 2) :
    slotActionOf b = some on := by
  unfold slotActionOf
  rw [h]
  cases on <;> rfl

theorem slotActionOf_none {b : Byte} (one : b.toNat ≠ 1) (two : b.toNat ≠ 2) : slotActionOf b = none := by
  unfold slotActionOf
  split
  · exact absurd ‹_› one
  · exact absurd ‹_› two
  · rfl

theorem portActionOf_some {b : Byte} {up : Bool} (h : b.toNat = if up then 1 else 2) :
    portActionOf b = some up := by
  unfold portActionOf
  rw [h]
  cases up <;> rfl

theorem classOf_some {b : Byte} {k : PortClass} (h : b.toNat = k.code) : classOf b = some k := by
  unfold classOf
  rw [h]
  cases k <;> rfl

theorem holdOf_some {b : Byte} {hold : Bool} (h : b.toNat = hold.toNat) : holdOf b = some hold := by
  unfold holdOf
  rw [h]
  cases hold <;> rfl

theorem holdOf_none {b : Byte} (h : 1 < b.toNat) : holdOf b = none := by
  unfold holdOf
  split
  · omega
  · omega
  · rfl

theorem editModeOf_none {b : Byte} (h : b.toNat ≠ 1 ∧ b.toNat ≠ 2) : editModeOf b = none := by
  unfold editModeOf
  split
  · exact absurd ‹_› h.1
  · exact absurd ‹_› h.2
  · rfl

theorem zoneKindOf_none {b : Byte} (h : b.toNat ≠ 1 ∧ b.toNat ≠ 2) : zoneKindOf b = none := by
  unfold zoneKindOf
  split
  · exact absurd ‹_› h.1
  · exact absurd ‹_› h.2
  · rfl

theorem principalOf_eq (b : Byte) : principalOf b = if b.toNat = 1 then some .notGiven
    else if b.toNat = 2 then some .principal else if b.toNat = 3 then some .ordinary else none := by
  unfold principalOf
  split
  · rename_i h; rw [h]; rfl
  · rename_i h; rw [h]; rfl
  · rename_i h; rw [h]; rfl
  · rename_i one two three
    rw [if_neg one, if_neg two, if_neg three]

theorem principalOf_none {b : Byte} (h : b.toNat = 0 ∨ 3 < b.toNat) : principalOf b = none := by
  rw [principalOf_eq, if_neg (by omega), if_neg (by omega), if_neg (by omega)]

theorem routeOf_none {b : Byte} (h : 3 < b.toNat) : routeOf b = none := by
  unfold routeOf
  split
  · omega
  · omega
  · omega
  · omega
  · rfl

/-! ### Alarm classes -/

theorem AlarmClass.all_number (k : AlarmClass) : AlarmClass.all[k.number - 1]? = some k := by
  cases k <;> rfl

theorem AlarmClass.number_pos (k : AlarmClass) : k.number ≠ 0 := Nat.succ_ne_zero _

theorem AlarmClass.number_inj {k l : AlarmClass} (h : k.number = l.number) : k = l :=
  Option.some.inj (by rw [← k.all_number, h, l.all_number])

theorem alarmClassOf_some {b : Byte} {k : AlarmClass} (h : b.toNat = k.number) : alarmClassOf b = some k := by
  unfold alarmClassOf
  rw [if_neg (by rw [h]; exact k.number_pos), h, k.all_number]

theorem alarmClassOf_none {b : Byte} (h : b.toNat = 0 ∨ 20 < b.toNat) : alarmClassOf b = none := by
  unfold alarmClassOf
  split
  · rfl
  · exact List.getElem?_eq_none (by show 20 ≤ _; omega)

theorem alarmRef_some {b : Byte} {k : AlarmClass} {n : BitVec 16} (h : b.toNat = k.number)
    (inRange : 1 ≤ n.toNat ∧ n.toNat ≤ k.count) : alarmRef b n = some (k, n.toNat) := by
  unfold alarmRef
  rw [alarmClassOf_some h]
  exact if_pos inRange

theorem alarmRef_outOfRange {b : Byte} {k : AlarmClass} {n : BitVec 16} (h : b.toNat = k.number)
    (outside : ¬ (1 ≤ n.toNat ∧ n.toNat ≤ k.count)) : alarmRef b n = none := by
  unfold alarmRef
  rw [alarmClassOf_some h]
  exact if_neg outside

theorem alarmRef_noClass {b : Byte} {n : BitVec 16} (h : b.toNat = 0 ∨ 20 < b.toNat) :
    alarmRef b n = none := by
  unfold alarmRef
  rw [alarmClassOf_none h]

/-! ### A request that is answered when it is taken -/

/-- A request of the holder, answered by its block. -/
theorem exec_holder {c : Cp} {tag : BitVec 4} {r : Request} {s u : State} {o : OutcomeCode} {bs : List Byte}
    (ready : Ready c s) (holds : s.auth.holder = some c) (fits : r.fits = true)
    (served : serveRequest c r (s.heard c) = (u, .reply o bs)) :
    exec (r.command c tag) s = .next (arbitrate (u.answered c tag r.code o bs)) :=
  exec_reply c tag r s u o bs ready fits (fun _ => by simp [State.isHolder, holds]) served

/-- A request of any CP, answered by its block. -/
theorem exec_anyCp {c : Cp} {tag : BitVec 4} {r : Request} {s u : State} {o : OutcomeCode} {bs : List Byte}
    (ready : Ready c s) (any : r.holderOnly = false) (fits : r.fits = true)
    (served : serveRequest c r (s.heard c) = (u, .reply o bs)) :
    exec (r.command c tag) s = .next (arbitrate (u.answered c tag r.code o bs)) :=
  exec_reply c tag r s u o bs ready fits (by simp [any]) served

end Sys2Proof.Machine
end


-- ==== Sys2Proof/Proofs/AlarmRules.lean ====
section
/-! SUPPORT. The Alarm Unit: what an occurrence records, what the lines and the LED follow, which row a CP
fetches, and the requests on masks, levels, routes and injections. -/

namespace Sys2Proof.Machine

/-! ### Re-evaluation (R166, R176) -/

theorem reevaluate_attn (c : Cp) (s : State) : (reevaluate s).alarm.attn.get c = attentionOf s c := by
  rw [reevaluate_alarm]
  cases c <;> rfl

theorem reevaluate_led (s : State) : (reevaluate s).alarm.led = ledOf s.alarm := by rw [reevaluate_alarm]

@[simp] theorem reevaluate_conds (s : State) : (reevaluate s).alarm.conds = s.alarm.conds := by
  rw [reevaluate_alarm]

@[simp] theorem reevaluate_events (s : State) : (reevaluate s).alarm.events = s.alarm.events := by
  rw [reevaluate_alarm]

@[simp] theorem reevaluate_classes (s : State) : (reevaluate s).alarm.classes = s.alarm.classes := by
  rw [reevaluate_alarm]

@[simp] theorem reevaluate_mask (s : State) : (reevaluate s).alarm.mask = s.alarm.mask := by
  rw [reevaluate_alarm]

@[simp] theorem reevaluate_stack (s : State) : (reevaluate s).alarm.stack = s.alarm.stack := by
  rw [reevaluate_alarm]

theorem reevaluate_bus_same {s : State} (h : ledOf s.alarm = s.alarm.led) : (reevaluate s).bus = s.bus := by
  unfold reevaluate
  dsimp only
  rw [if_pos h]
  rfl

theorem reevaluate_bus_changed {s : State} (h : ledOf s.alarm ≠ s.alarm.led) :
    (reevaluate s).bus = (joinHeld .indicator s).bus := by
  unfold reevaluate
  dsimp only
  rw [if_neg h]
  exact joinHeld_bus_congr .indicator _ _ rfl

theorem attentionOf_iff (s : State) (c : Cp) : attentionOf s c = true ↔
    (∃ r ∈ s.alarm.conds, condEligible s c r = true) ∨ ∃ r ∈ s.alarm.events, eventEligible s c r = true := by
  simp [attentionOf]

theorem CondRow.active_iff (r : CondRow) : r.active = true ↔ r.condition = true ∨ r.forced = true := by
  simp [CondRow.active]

theorem EventRow.latched_iff (r : EventRow) :
    r.latched = true ↔ r.latch.a = true ∨ r.latch.b = true ∨ r.latchH = true := by
  simp [EventRow.latched, or_assoc]

/-- What makes the LED steady: an active condition of level 5 or above (R176). -/
def Alarm.steady (a : Alarm) : Prop :=
  ∃ r ∈ a.conds, (r.condition = true ∨ r.forced = true) ∧ 5 ≤ (classEntry a r.cls).level

/-- What makes the LED blink: a latched event of level 5 or above (R176). -/
def Alarm.blinking (a : Alarm) : Prop :=
  ∃ r ∈ a.events, (r.latch.a = true ∨ r.latch.b = true ∨ r.latchH = true) ∧ 5 ≤ (classEntry a r.cls).level

theorem Alarm.steady_iff (a : Alarm) :
    (a.conds.any fun r => r.active && decide (5 ≤ (classEntry a r.cls).level)) = true ↔ a.steady := by
  simp only [List.any_eq_true, Bool.and_eq_true, decide_eq_true_eq, CondRow.active_iff, Alarm.steady]

theorem Alarm.blinking_iff (a : Alarm) :
    (a.events.any fun r => r.latched && decide (5 ≤ (classEntry a r.cls).level)) = true ↔ a.blinking := by
  simp only [List.any_eq_true, Bool.and_eq_true, decide_eq_true_eq, EventRow.latched_iff, Alarm.blinking]

theorem ledOf_steady {a : Alarm} (h : a.steady) : ledOf a = .steady := if_pos (a.steady_iff.2 h)

theorem ledOf_blinking {a : Alarm} (h : ¬ a.steady) (k : a.blinking) : ledOf a = .blinking := by
  unfold ledOf
  rw [if_neg (mt a.steady_iff.1 h), if_pos (a.blinking_iff.2 k)]

theorem ledOf_off {a : Alarm} (h : ¬ a.steady) (k : ¬ a.blinking) : ledOf a = .off := by
  unfold ledOf
  rw [if_neg (mt a.steady_iff.1 h), if_neg (mt a.blinking_iff.1 k)]

/-! ### Rows -/

theorem condRow?_modCond {c : AlarmClass} {n : Nat} {f : CondRow → CondRow} (s : State)
    (key : ∀ r, (f r).cls = r.cls ∧ (f r).number = r.number) :
    condRow? (modCond c n f s).alarm c n = (condRow? s.alarm c n).map f := by
  have same : ((fun r => decide (r.cls = c ∧ r.number = n)) ∘ fun r : CondRow =>
      if r.cls = c ∧ r.number = n then f r else r) = fun r => decide (r.cls = c ∧ r.number = n) := by
    funext r
    obtain ⟨cls, number⟩ := key r
    by_cases h : r.cls = c ∧ r.number = n
    · simp [h, cls, number]
    · simp only [Function.comp_apply, if_neg h]
  show List.find? _ (List.map _ _) = _
  rw [List.find?_map, same]
  unfold condRow?
  cases e : s.alarm.conds.find? fun r => decide (r.cls = c ∧ r.number = n) with
  | none => rfl
  | some r =>
    have h := List.find?_some e
    simp only [Option.map_some, if_pos (of_decide_eq_true h)]

theorem eventRow?_modEvent {c : AlarmClass} {n : Nat} {f : EventRow → EventRow} (s : State)
    (key : ∀ r, (f r).cls = r.cls ∧ (f r).number = r.number) :
    eventRow? (modEvent c n f s).alarm c n = (eventRow? s.alarm c n).map f := by
  have same : ((fun r => decide (r.cls = c ∧ r.number = n)) ∘ fun r : EventRow =>
      if r.cls = c ∧ r.number = n then f r else r) = fun r => decide (r.cls = c ∧ r.number = n) := by
    funext r
    obtain ⟨cls, number⟩ := key r
    by_cases h : r.cls = c ∧ r.number = n
    · simp [h, cls, number]
    · simp only [Function.comp_apply, if_neg h]
  show List.find? _ (List.map _ _) = _
  rw [List.find?_map, same]
  unfold eventRow?
  cases e : s.alarm.events.find? fun r => decide (r.cls = c ∧ r.number = n) with
  | none => rfl
  | some r =>
    have h := List.find?_some e
    simp only [Option.map_some, if_pos (of_decide_eq_true h)]

theorem condRow?_conds {a b : Alarm} (h : a.conds = b.conds) (c : AlarmClass) (n : Nat) :
    condRow? a c n = condRow? b c n := by
  unfold condRow?
  rw [h]

theorem eventRow?_events {a b : Alarm} (h : a.events = b.events) (c : AlarmClass) (n : Nat) :
    eventRow? a c n = eventRow? b c n := by
  unfold eventRow?
  rw [h]

theorem heldCondition_row {a : Alarm} {c : AlarmClass} {n : Nat} {r : CondRow} (h : condRow? a c n = some r) :
    heldCondition a c n = r.condition := by
  unfold heldCondition
  rw [h]

/-- A row whose condition and forced flag are written, with its seen marks settled (R161). -/
theorem CondRow.settleSeen_eq (r : CondRow) :
    r.settleSeen = { r with seen := if r.condition || r.forced then r.seen else ⟨false, false⟩ } := by
  unfold CondRow.settleSeen CondRow.active
  split <;> simp_all

/-! ### The history ring (R177, R178) -/

theorem latchEvent_conds (c : AlarmClass) (n : Nat) (i : Bool) (s : State) :
    (latchEvent c n i s).alarm.conds = s.alarm.conds := rfl

/-- The entries of a half with one more occurrence (R177). -/
def entriesWith (s : State) (c : AlarmClass) (n : Nat) (t : Transition) (i : Bool) (h : Fin 2) :
    List HistoryEntry :=
  (halfAt s.alarm h).entries ++
    [{ time := s.time.setWidth 32, cls := c, number := n, transition := t, injected := i
       level := (classEntry s.alarm c).level, epoch := s.auth.epoch }]

theorem appendHistory_half {s : State} {c : AlarmClass} (n : Nat) (t : Transition) (i : Bool) {h : Fin 2}
    (other : c ≠ .historyHalf) (filling : fillingHalf s.alarm = some h) :
    appendHistory c n t i s =
      if (entriesWith s c n t i h).length = 32 then
        closeHalf h (s.modAlarm fun a => putHalf a h ⟨.filling, entriesWith s c n t i h⟩)
      else s.modAlarm fun a => putHalf a h ⟨.filling, entriesWith s c n t i h⟩ := by
  unfold appendHistory
  rw [if_neg other, filling]
  rfl

theorem appendHistory_stalled {s : State} {c : AlarmClass} (n : Nat) (t : Transition) (i : Bool)
    (other : c ≠ .historyHalf) (stalled : fillingHalf s.alarm = none) :
    appendHistory c n t i s = s.modAlarm fun a => { a with overrun := true } := by
  unfold appendHistory
  rw [if_neg other, stalled]

theorem appendHistory_historyHalf (n : Nat) (t : Transition) (i : Bool) (s : State) :
    appendHistory .historyHalf n t i s = s := if_pos rfl

@[simp] theorem putHalf_conds (a : Alarm) (h : Fin 2) (v : Half) : (putHalf a h v).conds = a.conds := by
  unfold putHalf; split <;> rfl

@[simp] theorem putHalf_events (a : Alarm) (h : Fin 2) (v : Half) : (putHalf a h v).events = a.events := by
  unfold putHalf; split <;> rfl

@[simp] theorem putHalf_classes (a : Alarm) (h : Fin 2) (v : Half) : (putHalf a h v).classes = a.classes := by
  unfold putHalf; split <;> rfl

@[simp] theorem putHalf_mask (a : Alarm) (h : Fin 2) (v : Half) : (putHalf a h v).mask = a.mask := by
  unfold putHalf; split <;> rfl

@[simp] theorem putHalf_stack (a : Alarm) (h : Fin 2) (v : Half) : (putHalf a h v).stack = a.stack := by
  unfold putHalf; split <;> rfl

@[simp] theorem halfAt_putHalf_self (a : Alarm) (h : Fin 2) (v : Half) : halfAt (putHalf a h v) h = v := by
  unfold putHalf halfAt
  split <;> rfl

theorem otherHalf_ne (h : Fin 2) : otherHalf h ≠ h := by
  match h with
  | 0 => exact nofun
  | 1 => exact nofun

theorem halfAt_putHalf_other (a : Alarm) (h : Fin 2) (v : Half) :
    halfAt (putHalf a h v) (otherHalf h) = halfAt a (otherHalf h) := by
  match h with
  | 0 => rfl
  | 1 => rfl

theorem putHalf_putHalf (a : Alarm) (h : Fin 2) (v w : Half) : putHalf (putHalf a h v) h w = putHalf a h w := by
  unfold putHalf
  split <;> rfl

/-- What a history entry leaves as it was: all but the ring, and the latches that a full half sets. -/
structure RingOnly (s t : State) : Prop where
  conds : t.alarm.conds = s.alarm.conds
  classes : t.alarm.classes = s.alarm.classes
  mask : t.alarm.mask = s.alarm.mask
  stack : t.alarm.stack = s.alarm.stack
  auth : t.auth = s.auth

theorem closeHalf_ringOnly (h : Fin 2) (s : State) : RingOnly s (closeHalf h s) := by
  have last (u : State) (v : Half) : RingOnly u (u.modAlarm fun a => if
      (halfAt a (otherHalf h)).state = .free then putHalf a (otherHalf h) v else a) := by
    by_cases free : (halfAt u.alarm (otherHalf h)).state = .free <;>
      constructor <;> simp [State.modAlarm, free]
  obtain ⟨conds, classes, mask, stack, auth⟩ :=
    last (latchEvent .historyHalf (h.val + 1) false
      (s.modAlarm fun a => putHalf a h { halfAt a h with state := .full })) ⟨.filling, []⟩
  exact ⟨conds.trans (putHalf_conds _ _ _), classes.trans (putHalf_classes _ _ _),
    mask.trans (putHalf_mask _ _ _), stack.trans (putHalf_stack _ _ _), auth⟩

theorem RingOnly.trans {s t u : State} (h : RingOnly s t) (k : RingOnly t u) : RingOnly s u :=
  ⟨k.conds.trans h.conds, k.classes.trans h.classes, k.mask.trans h.mask, k.stack.trans h.stack,
    k.auth.trans h.auth⟩

theorem appendHistory_ringOnly (c : AlarmClass) (n : Nat) (t : Transition) (i : Bool) (s : State) :
    RingOnly s (appendHistory c n t i s) := by
  have put (h : Fin 2) (v : Half) : RingOnly s (s.modAlarm fun a => putHalf a h v) :=
    ⟨putHalf_conds _ _ _, putHalf_classes _ _ _, putHalf_mask _ _ _, putHalf_stack _ _ _, rfl⟩
  by_cases other : c = .historyHalf
  · subst other
    rw [appendHistory_historyHalf]
    exact ⟨rfl, rfl, rfl, rfl, rfl⟩
  · cases filling : fillingHalf s.alarm with
    | none =>
      rw [appendHistory_stalled n t i other filling]
      exact ⟨rfl, rfl, rfl, rfl, rfl⟩
    | some h =>
      rw [appendHistory_half n t i other filling]
      split
      · exact (put h _).trans (closeHalf_ringOnly h _)
      · exact put h _

theorem modAlarm_ite (u : State) (p : Alarm → Prop) [∀ a, Decidable (p a)] (f : Alarm → Alarm) :
    (u.modAlarm fun a => if p a then f a else a) = if p u.alarm then u.modAlarm f else u := by
  by_cases h : p u.alarm <;> simp [State.modAlarm, h]

theorem closeHalf_eq (h : Fin 2) (s : State) : closeHalf h s =
    if (halfAt s.alarm (otherHalf h)).state = .free then
      (latchEvent .historyHalf (h.val + 1) false
        (s.modAlarm fun a => putHalf a h { halfAt a h with state := .full })).modAlarm
          fun a => putHalf a (otherHalf h) ⟨.filling, []⟩
    else latchEvent .historyHalf (h.val + 1) false
      (s.modAlarm fun a => putHalf a h { halfAt a h with state := .full }) := by
  have other (u : State) : halfAt (latchEvent .historyHalf (h.val + 1) false u).alarm (otherHalf h)
      = halfAt u.alarm (otherHalf h) := rfl
  have state : (halfAt (latchEvent .historyHalf (h.val + 1) false
      (s.modAlarm fun a => putHalf a h { halfAt a h with state := .full })).alarm (otherHalf h)).state
      = (halfAt s.alarm (otherHalf h)).state := by
    rw [other]
    exact congrArg Half.state (halfAt_putHalf_other _ _ _)
  unfold closeHalf
  dsimp only
  rw [modAlarm_ite, state]

/-- The half that an occurrence fills becomes FULL, and the other FILLING if it is FREE (R178). -/
theorem closeHalf_filled (h : Fin 2) (s : State) (entries : List HistoryEntry) :
    closeHalf h (s.modAlarm fun a => putHalf a h ⟨.filling, entries⟩) =
      if (halfAt s.alarm (otherHalf h)).state = .free then
        (latchEvent .historyHalf (h.val + 1) false
          (s.modAlarm fun a => putHalf a h ⟨.full, entries⟩)).modAlarm
            fun a => putHalf a (otherHalf h) ⟨.filling, []⟩
      else latchEvent .historyHalf (h.val + 1) false
        (s.modAlarm fun a => putHalf a h ⟨.full, entries⟩) := by
  have full : ((s.modAlarm fun a => putHalf a h ⟨.filling, entries⟩).modAlarm
      fun a => putHalf a h { halfAt a h with state := .full })
      = s.modAlarm fun a => putHalf a h ⟨.full, entries⟩ := by
    simp only [State.modAlarm, halfAt_putHalf_self, putHalf_putHalf]
  have free : (halfAt (s.modAlarm fun a => putHalf a h ⟨.filling, entries⟩).alarm (otherHalf h)).state
      = (halfAt s.alarm (otherHalf h)).state := congrArg Half.state (halfAt_putHalf_other _ _ _)
  rw [closeHalf_eq, full, free]

/-! ### The records behind a condition -/

theorem conditionNow_psuFault (b : Bay) (s : State) :
    conditionNow s .psuFault (b.val + 1) = true ↔ (s.cool.supplies.get b).state = .failed := by
  simp [conditionNow, Vector.get_eq_getElem]

theorem conditionNow_psuInputLost (b : Bay) (s : State) :
    conditionNow s .psuInputLost (b.val + 1) = true ↔ (s.cool.supplies.get b).state = .off := by
  simp [conditionNow, Vector.get_eq_getElem]

theorem conditionNow_fanRotorFail (y : Tray) (r : Rotor) (s : State) :
    conditionNow s .fanRotorFail (4 * y.val + r.val + 1) = true ↔
      ((s.cool.trays.get y).rotors.get r).fit = .failed := by
  have tray : (4 * y.val + r.val) / 4 = y.val := by omega
  have rotor : (4 * y.val + r.val) % 4 = r.val := by omega
  simp [conditionNow, Vector.get_eq_getElem, tray, rotor]

theorem conditionNow_fanTrayAbsent (y : Tray) (s : State) :
    conditionNow s .fanTrayAbsent (y.val + 1) = true ↔ (s.cool.trays.get y).maximum = none := by
  simp [conditionNow, Vector.get_eq_getElem]

theorem conditionNow_sensorLost (w : Fin 2) (s : State) :
    conditionNow s .sensorLost (w.val + 1) = true ↔ (s.cool.sensors.get w).invalidPasses = 4 := by
  have row : s.cool.sensors[w.val + 1 - 1]? = some (s.cool.sensors.get w) :=
    Vector.getElem?_eq_getElem w.isLt
  unfold conditionNow
  dsimp only
  rw [row]
  exact decide_eq_true_iff

theorem conditionNow_slotFault (i : Slot) (s : State) :
    conditionNow s .slotFault (i.val + 1) = true ↔ (s.slotRec i).power = .faulted := by
  simp [conditionNow, State.slotRec, Vector.get_eq_getElem]

theorem conditionNow_licenseWait (s : State) : conditionNow s .licenseWait 1 = true ↔ s.lic.waiting ≠ [] := by
  simp [conditionNow]

theorem conditionNow_peerSilent (c : Cp) (s : State) :
    conditionNow s .peerSilent (cpNumber c) = true ↔ s.auth.presence.get c = .silent := by
  cases c <;> simp [conditionNow, cpNumber, PerCp.get]

/-- BUDGET_TIGHT stands while a slot is DENIED, a port HELD, or grid redundancy lost (R88). -/
theorem budgetTight_iff (p : Power) : budgetTight p = true ↔ (∃ j x, (p.slots.get j).power = .denied x)
    ∨ (∃ q x, p.ports.get q = .held x) ∨ p.gridLost = true := by
  have slots : (p.slots.toList.any fun r => match r.power with | .denied _ => true | _ => false) = true
      ↔ ∃ j x, (p.slots.get j).power = .denied x := by
    rw [any_toList_iff]
    refine exists_congr fun j => ?_
    cases (p.slots.get j).power <;> simp
  have ports : (p.ports.toList.any fun st => match st with | .held _ => true | _ => false) = true
      ↔ ∃ q x, p.ports.get q = .held x := by
    rw [any_toList_iff]
    refine exists_congr fun q => ?_
    cases p.ports.get q <;> simp
  unfold budgetTight
  rw [Bool.or_eq_true, Bool.or_eq_true, or_assoc]
  exact or_congr slots (or_congr ports Iff.rfl)

/-! ### Occurrences (O56) -/

/-- Step 1 of an EVENT occurrence, by the route of its class (R163). -/
theorem setLatches_eq (a : Authority) (route : Route) (r : EventRow) : setLatches a route r =
    { r with
      latchH := r.latchH || route = .active
      latch :=
        match route with
        | .standby => ⟨r.latch.a || routeTargets a .standby .a, r.latch.b || routeTargets a .standby .b⟩
        | .both => ⟨r.latch.a || a.presence.a ≠ .absent, r.latch.b || a.presence.b ≠ .absent⟩
        | _ => r.latch } := by
  cases route with
  | active | standby | none => simp [setLatches]
  | both =>
    by_cases ha : a.presence.a = .absent <;> by_cases hb : a.presence.b = .absent <;>
      simp [setLatches, routeTargets, PerCp.get, ha, hb]

theorem latchEvent_events (k : AlarmClass) (n : Nat) (injected : Bool) (s : State) :
    (latchEvent k n injected s).alarm.events = s.alarm.events.map fun r =>
      if r.cls = k ∧ r.number = n then
        { r with
          last := s.time, injected := injected
          latchH := r.latchH || (classEntry s.alarm k).route = .active
          latch :=
            match (classEntry s.alarm k).route with
            | .standby => ⟨r.latch.a || routeTargets s.auth .standby .a,
                r.latch.b || routeTargets s.auth .standby .b⟩
            | .both => ⟨r.latch.a || s.auth.presence.a ≠ .absent,
                r.latch.b || s.auth.presence.b ≠ .absent⟩
            | _ => r.latch }
      else r := by
  refine List.map_congr_left fun r _ => ?_
  dsimp only
  rw [setLatches_eq]

theorem handCondition_same {s : State} {k : AlarmClass} {n : Nat} {r : CondRow}
    (row : condRow? s.alarm k n = some r) (same : r.condition = conditionNow s k n) :
    handCondition k n s = s := by
  unfold handCondition
  exact if_pos (by rw [heldCondition_row row, same])

theorem handCondition_changed {s : State} {k : AlarmClass} {n : Nat} {r : CondRow}
    (row : condRow? s.alarm k n = some r) (differs : r.condition ≠ conditionNow s k n) :
    handCondition k n s = occurCondition k n (conditionNow s k n) s := by
  unfold handCondition
  exact if_neg (by rw [heldCondition_row row]; exact differs)

theorem handSettled_settled {s : State} (h : s.cool.settled = true) (k : AlarmClass) (n : Nat) :
    handSettled k n s = handCondition k n s := if_pos h

theorem handSettled_unsettled {s : State} (h : s.cool.settled = false) (k : AlarmClass) (n : Nat) :
    handSettled k n s = s := if_neg (by simp [h])

theorem eventSettled_settled {s : State} (h : s.cool.settled = true) (k : AlarmClass) (n : Nat) :
    eventSettled k n s = occurEvent k n false s := if_pos h

theorem eventSettled_unsettled {s : State} (h : s.cool.settled = false) (k : AlarmClass) (n : Nat) :
    eventSettled k n s = s := if_neg (by simp [h])

theorem modCond_conds (k : AlarmClass) (n : Nat) (f g : CondRow → CondRow) (s : State)
    (same : ∀ r, f r = g r) : modCond k n f s = s.modAlarm fun a =>
      { a with conds := a.conds.map fun r => if r.cls = k ∧ r.number = n then g r else r } := by
  rw [funext same]
  rfl

/-- Settles O56, by the branches of an occurrence and of the history writer. -/
theorem occurrencesAreRecorded : Obligations.OccurrencesAreRecorded := by
  unfold Obligations.OccurrencesAreRecorded
  refine ⟨fun s => ?_, fun k n forced s => ⟨?_, fun r row => ⟨handCondition_same row, handCondition_changed row⟩,
      fun h => ⟨handSettled_unsettled h k n, eventSettled_unsettled h k n⟩,
      fun h => ⟨handSettled_settled h k n, eventSettled_settled h k n⟩⟩,
    fun b y r w i c s => ?_, fun k n tr injected value s => ?_⟩
  · refine ⟨fun c => by rw [reevaluate_attn, attentionOf_iff], fun h => ?_, fun h k => ?_, fun h k => ?_, ?_,
      fun h => ?_, fun h => ?_⟩
    · rw [reevaluate_led]; exact ledOf_steady h
    · rw [reevaluate_led]; exact ledOf_blinking h k
    · rw [reevaluate_led]; exact ledOf_off h k
    · rw [reevaluate_alarm]
    · exact reevaluate_bus_same ((reevaluate_led s).symm.trans h)
    · exact reevaluate_bus_changed fun e => h ((reevaluate_led s).trans e)
  · exact ⟨_, rfl, modCond_conds k n _ _ s fun r => CondRow.settleSeen_eq _⟩
  · exact ⟨conditionNow_psuFault b s, conditionNow_psuInputLost b s, conditionNow_fanRotorFail y r s,
      conditionNow_fanTrayAbsent y s, decide_eq_true_iff, decide_eq_true_iff, conditionNow_sensorLost w s,
      budgetTight_iff s.power, conditionNow_slotFault i s, conditionNow_licenseWait s,
      conditionNow_peerSilent c s⟩
  · refine ⟨rfl, latchEvent_events k n injected s, ⟨_, rfl, rfl, ?_⟩, appendHistory_historyHalf n tr injected s,
      fun other stalled => appendHistory_stalled n tr injected other stalled, fun h other filling => ?_⟩
    · exact congrArg (fun u : State => u.alarm.conds)
        (modCond_conds k n _ _ s fun r => CondRow.settleSeen_eq { r with condition := value, changed := s.time })
    · have entry := appendHistory_half n tr injected other filling
      refine ⟨fun short => entry.trans (if_neg short), fun full => ⟨_, rfl, fun free => ?_, fun taken => ?_⟩⟩
      · exact (entry.trans (if_pos full)).trans ((closeHalf_filled h s _).trans (if_pos free))
      · exact (entry.trans (if_pos full)).trans ((closeHalf_filled h s _).trans (if_neg taken))

end Sys2Proof.Machine
end


-- ==== Sys2Proof/Proofs/AlarmRequests.lean ====
section
/-! SUPPORT. Eligibility and the choice of a notice, and the requests of the Alarm Unit that change its
records. -/

namespace Sys2Proof.Machine

/-! ### Routes and eligibility (O59) -/

theorem Presence.isLive_iff (p : Presence) : p.isLive = true ↔ ∃ d, p = .live d := by
  cases p <;> simp [Presence.isLive]

theorem routeTargets_active_held {a : Authority} {x : Cp} (h : a.holder = some x) (c : Cp) :
    routeTargets a .active c = true ↔ c = x := by
  simp [routeTargets, h, eq_comm]

theorem routeTargets_standby_held {a : Authority} {x : Cp} (h : a.holder = some x) (c : Cp) :
    routeTargets a .standby c = true ↔ c ≠ x ∧ ∃ d, a.presence.get c = .live d := by
  simp only [routeTargets, h, Bool.and_eq_true, decide_eq_true_eq, Presence.isLive_iff]
  exact and_congr_left' ne_comm

theorem routeTargets_active_none {a : Authority} (h : a.holder = none) (c : Cp) :
    routeTargets a .active c = true ↔ ∃ d, a.presence.get c = .live d := by
  simp [routeTargets, h, Presence.isLive_iff]

theorem routeTargets_standby_none {a : Authority} (h : a.holder = none) (c : Cp) :
    routeTargets a .standby c = false := by
  simp [routeTargets, h]

theorem routeTargets_both (a : Authority) (c : Cp) :
    routeTargets a .both c = true ↔ a.presence.get c ≠ .absent := by
  simp [routeTargets]

/-- Whether a class calls a CP: it is enabled in the mask, and its level is above the top of the stack (R165). -/
def State.calls (s : State) (c : Cp) (k : AlarmClass) : Prop :=
  (s.alarm.mask.get c).get k.index = true
    ∧ (∀ x rest, s.alarm.stack.get c = x :: rest → x.level < (classEntry s.alarm k).level)
    ∧ (s.alarm.stack.get c = [] → 0 < (classEntry s.alarm k).level)

theorem classCalls_iff (s : State) (c : Cp) (k : AlarmClass) : classCalls s c k = true ↔ s.calls c k := by
  unfold classCalls State.calls
  cases s.alarm.stack.get c <;> simp [topLevel] <;> exact fun _ => decide_eq_true_iff

theorem condEligible_iff (s : State) (c : Cp) (r : CondRow) : condEligible s c r = true ↔ s.calls c r.cls
    ∧ (r.condition = true ∨ r.forced = true)
    ∧ routeTargets s.auth (classEntry s.alarm r.cls).route c = true ∧ r.seen.get c = false := by
  simp [condEligible, classCalls_iff, CondRow.active_iff, and_assoc]

theorem eventEligible_iff (s : State) (c : Cp) (e : EventRow) : eventEligible s c e = true ↔ s.calls c e.cls
    ∧ (e.latch.get c = true ∨ (e.latchH = true ∧ routeTargets s.auth .active c = true)) := by
  simp [eventEligible, classCalls_iff]

theorem mem_candidates (s : State) (c : Cp) (x : StackEntry) : x ∈ candidates s c ↔
    x.level = (classEntry s.alarm x.cls).level
    ∧ ((∃ r ∈ s.alarm.conds, r.cls = x.cls ∧ r.number = x.number ∧ condEligible s c r = true)
      ∨ ∃ e ∈ s.alarm.events, e.cls = x.cls ∧ e.number = x.number ∧ eventEligible s c e = true) := by
  unfold candidates
  simp only [List.mem_append, List.mem_map, List.mem_filter]
  constructor
  · rintro (⟨r, ⟨mem, eligible⟩, rfl⟩ | ⟨r, ⟨mem, eligible⟩, rfl⟩)
    · exact ⟨rfl, .inl ⟨r, mem, rfl, rfl, eligible⟩⟩
    · exact ⟨rfl, .inr ⟨r, mem, rfl, rfl, eligible⟩⟩
  · obtain ⟨level, cls, number⟩ := x
    rintro ⟨e, ⟨r, mem, rfl, rfl, eligible⟩ | ⟨r, mem, rfl, rfl, eligible⟩⟩
    · exact .inl ⟨r, ⟨mem, eligible⟩, by rw [← show level = _ from e]⟩
    · exact .inr ⟨r, ⟨mem, eligible⟩, by rw [← show level = _ from e]⟩

/-! ### The most urgent row (R169) -/

/-- The first entry is chosen before the second, or they rank alike. -/
def StackEntry.urgent (x y : StackEntry) : Prop :=
  y.level < x.level ∨ (y.level = x.level
    ∧ (x.cls.number < y.cls.number ∨ (x.cls.number = y.cls.number ∧ x.number ≤ y.number)))

theorem Candidate.before_iff (x y : StackEntry) : Candidate.before x y = true ↔ ¬ y.urgent x := by
  have number : x.cls = y.cls ↔ x.cls.number = y.cls.number :=
    ⟨congrArg _, AlarmClass.number_inj⟩
  simp only [Candidate.before, StackEntry.urgent, Bool.or_eq_true, Bool.and_eq_true, decide_eq_true_eq,
    number]
  omega

theorem StackEntry.urgent_refl (x : StackEntry) : x.urgent x := by
  unfold StackEntry.urgent
  omega

theorem StackEntry.urgent_trans {x y z : StackEntry} (h : x.urgent y) (k : y.urgent z) : x.urgent z := by
  unfold StackEntry.urgent at *
  omega

theorem StackEntry.urgent_total {x y : StackEntry} (h : ¬ x.urgent y) : y.urgent x := by
  unfold StackEntry.urgent at *
  omega

theorem mostUrgent_spec : ∀ {xs : List StackEntry}, xs ≠ [] →
    ∃ x ∈ xs, mostUrgent xs = some x ∧ ∀ y ∈ xs, x.urgent y
  | [x], _ => ⟨x, by simp, rfl, by simpa using x.urgent_refl⟩
  | x :: y :: xs, _ => by
    obtain ⟨z, mem, e, best⟩ := mostUrgent_spec (xs := y :: xs) nofun
    have step : mostUrgent (x :: y :: xs) = if Candidate.before z x then some z else some x := by
      rw [mostUrgent, e]
    rw [step]
    split
    · rename_i before
      refine ⟨z, List.mem_cons_of_mem _ mem, rfl, fun w hw => ?_⟩
      rcases List.mem_cons.1 hw with rfl | hw
      · exact StackEntry.urgent_total ((Candidate.before_iff z w).1 before)
      · exact best w hw
    · rename_i not
      have first : x.urgent z := not_not.1 fun h => not ((Candidate.before_iff z x).2 h)
      refine ⟨x, by simp, rfl, fun w hw => ?_⟩
      rcases List.mem_cons.1 hw with rfl | hw
      · exact w.urgent_refl
      · exact StackEntry.urgent_trans first (best w hw)

theorem mostUrgent_nil : mostUrgent [] = none := rfl

theorem markTaken_condition {c : Cp} {x : StackEntry} (s : State) (h : x.cls.kind = .condition) :
    markTaken c x s = modCond x.cls x.number (fun r => { r with seen := r.seen.put c true }) s := by
  unfold markTaken
  rw [h]

theorem markTaken_event {c : Cp} {x : StackEntry} (s : State) (h : x.cls.kind = .event) :
    markTaken c x s = modEvent x.cls x.number (fun r =>
      { r with latch := r.latch.put c false, latchH := r.latchH && !routeTargets s.auth .active c }) s := by
  unfold markTaken
  rw [h]

/-- What FETCH NOTICE reports of the row it takes (R169). -/
def fetchedRow (t : State) (x : StackEntry) : List Byte :=
  match x.cls.kind with
  | .condition =>
    match condRow? t.alarm x.cls x.number with
    | some r => yes r.condition ++ yes r.forced ++ encTime r.changed
    | none => []
  | .event =>
    match eventRow? t.alarm x.cls x.number with
    | some r => encTime r.last ++ yes r.injected
    | none => []

/-- The state after a notice is fetched. -/
def fetched (c : Cp) (x : StackEntry) (s : State) : State :=
  reevaluate (markTaken c x (s.modAlarm fun a => { a with stack := a.stack.put c (x :: a.stack.get c) }))

theorem fetched_stack (c : Cp) (x : StackEntry) (s : State) :
    (fetched c x s).alarm.stack.get c = x :: s.alarm.stack.get c := by
  unfold fetched
  rw [reevaluate_stack]
  cases h : x.cls.kind with
  | condition =>
    rw [markTaken_condition _ h]
    exact PerCp.get_put_self _ _ _
  | event =>
    rw [markTaken_event _ h]
    exact PerCp.get_put_self _ _ _

theorem fetchedRow_condition {c : Cp} {x : StackEntry} {s : State} {r : CondRow}
    (kind : x.cls.kind = .condition) (row : condRow? s.alarm x.cls x.number = some r) :
    fetchedRow (fetched c x s) x = yes r.condition ++ yes r.forced ++ encTime r.changed := by
  have after : condRow? (fetched c x s).alarm x.cls x.number
      = some { r with seen := r.seen.put c true } := by
    rw [fetched, condRow?_conds (reevaluate_conds _), markTaken_condition _ kind, condRow?_modCond]
    · exact congrArg (Option.map _) row
    · exact fun _ => ⟨rfl, rfl⟩
  unfold fetchedRow
  rw [kind, after]

theorem fetchedRow_event {c : Cp} {x : StackEntry} {s : State} {r : EventRow}
    (kind : x.cls.kind = .event) (row : eventRow? s.alarm x.cls x.number = some r) :
    fetchedRow (fetched c x s) x = encTime r.last ++ yes r.injected := by
  have after : eventRow? (fetched c x s).alarm x.cls x.number = some
      { r with latch := r.latch.put c false, latchH := r.latchH && !routeTargets s.auth .active c } := by
    rw [fetched, eventRow?_events (reevaluate_events _), markTaken_event _ kind,
      eventRow?_modEvent]
    · exact congrArg (Option.map _) row
    · exact fun _ => ⟨rfl, rfl⟩
  unfold fetchedRow
  rw [kind, after]

theorem fetchNotice_none {c : Cp} {s : State} (h : candidates s c = []) : fetchNotice c s
    = (s, .reply .none (u8 (s.alarm.stack.get c).length ++ encAttention s c)) := by
  unfold fetchNotice
  rw [h, mostUrgent_nil]

theorem fetchNotice_some {c : Cp} {s : State} {x : StackEntry} (h : mostUrgent (candidates s c) = some x) :
    fetchNotice c s = (fetched c x s, .reply .done
      (u8 x.cls.number ++ u16 x.number ++ encAlarmKind x.cls.kind ++ u8 x.level
        ++ fetchedRow (fetched c x s) x ++ u8 (s.alarm.stack.get c).length.succ
        ++ yes ((fetched c x s).alarm.attn.get c))) := by
  have depth : u8 ((fetched c x s).alarm.stack.get c).length = u8 (s.alarm.stack.get c).length.succ := by
    rw [fetched_stack]
    rfl
  unfold fetchNotice
  rw [h, ← depth]
  rfl

theorem retireNotice_empty {c : Cp} {s : State} (h : s.alarm.stack.get c = []) : retireNotice c s
    = (s, .reply .state (u8 0 ++ u8 0 ++ yes (s.alarm.attn.get c))) := by
  simp only [retireNotice, h]
  rfl

theorem retireNotice_cons {c : Cp} {s : State} {e : StackEntry} {rest : List StackEntry}
    (h : s.alarm.stack.get c = e :: rest) : retireNotice c s
    = (reevaluate (s.modAlarm fun a => { a with stack := a.stack.put c rest }), .reply .done
        (u8 e.level ++ u8 e.cls.number ++ u16 e.number ++ u8 rest.length ++ u8 (topLevel rest)
          ++ yes ((reevaluate (s.modAlarm fun a => { a with stack := a.stack.put c rest })).alarm.attn.get c))) := by
  have after : (reevaluate (s.modAlarm fun a => { a with stack := a.stack.put c rest })).alarm.stack.get c
      = rest := by
    rw [reevaluate_stack]
    exact PerCp.get_put_self _ _ _
  unfold retireNotice
  rw [h]
  dsimp only
  rw [after]
  simp only [List.append_assoc]
  rfl

/-- Settles O59: routes and eligibility by their cases, the choice by the order of R169. -/
theorem noticesAreFetchedAndRetired : Obligations.NoticesAreFetchedAndRetired := by
  unfold Obligations.NoticesAreFetchedAndRetired
  refine ⟨fun a c x => ⟨fun h => ⟨routeTargets_active_held h c, routeTargets_standby_held h c⟩,
      fun h => ⟨routeTargets_active_none h c, routeTargets_standby_none h c⟩, routeTargets_both a c, rfl⟩,
    fun c r e s => ⟨condEligible_iff s c r, eventEligible_iff s c e, mem_candidates s c⟩,
    fun c x s => ⟨fun h => markTaken_condition s h, fun h => markTaken_event s h⟩,
    fun c tag e rest s ready => ⟨fun none => ?_, fun some => ?_, fun empty => ?_, fun top => ?_⟩⟩
  · exact exec_anyCp (r := .fetchNotice) ready rfl rfl (fetchNotice_none (s := s.heard c) none)
  · obtain ⟨x, mem, first, best⟩ := mostUrgent_spec some
    refine ⟨x, mem, fun y hy _ => ?_, _, fetchedRow (fetched c x (s.heard c)) x, rfl,
      exec_anyCp (r := .fetchNotice) ready rfl rfl (fetchNotice_some (s := s.heard c) first),
      fun r kind row => fetchedRow_condition (s := s.heard c) kind row,
      fun r kind row => fetchedRow_event (s := s.heard c) kind row⟩
    exact (best y hy).imp_right fun ⟨level, rank⟩ =>
      ⟨level, rank.imp_right fun ⟨cls, number⟩ => ⟨AlarmClass.number_inj cls, number⟩⟩
  · exact exec_anyCp (r := .retireNotice) ready rfl rfl (retireNotice_empty (s := s.heard c) empty)
  · exact ⟨_, rfl, reevaluate_conds _, reevaluate_events _,
      exec_anyCp (r := .retireNotice) ready rfl rfl (retireNotice_cons (s := s.heard c) top)⟩

/-! ### Masks, levels, routes, injections and the ring (O60) -/

theorem flagOf_known {b : Byte} (h : b.toNat ≤ 1) : flagOf b = decide (b.toNat = 1) := by
  rcases Nat.le_one_iff_eq_zero_or_eq_one.1 h with e | e <;> simp [flagOf, e]

theorem yes_flag {b : Byte} (h : b.toNat ≤ 1) : yes (decide (b.toNat = 1)) = [b] := by
  have bit : b = if b.toNat = 1 then 1 else 0 := by
    apply BitVec.eq_of_toNat_eq
    split
    · assumption
    · show b.toNat = 0
      omega
  rw [bit]
  split <;> rfl

theorem forall_mem_toList {α : Type} {n : Nat} {v : Vector α n} {p : α → Prop} (h : ∀ i, p (v.get i))
    {x : α} (mem : x ∈ v.toList) : p x := by
  rw [toList_eq_map_get] at mem
  obtain ⟨i, _, rfl⟩ := List.mem_map.1 mem
  exact h i

theorem map_flagOf {flags : Vector Byte 20} (h : ∀ j : Fin 20, (flags.get j).toNat ≤ 1) :
    flags.map flagOf = flags.map fun b => decide (b.toNat = 1) := by
  refine Vector.map_congr_left fun b mem => flagOf_known ?_
  exact forall_mem_toList (p := fun b => b.toNat ≤ 1) h (Vector.mem_toList_iff.2 mem)

theorem encMask_flags {flags : Vector Byte 20} (h : ∀ j : Fin 20, (flags.get j).toNat ≤ 1) :
    encMask (flags.map fun b => decide (b.toNat = 1)) = flags.toList := by
  unfold encMask
  rw [Vector.toList_map, List.flatMap_map]
  have each : ∀ l : List Byte, (∀ b ∈ l, b.toNat ≤ 1) →
      l.flatMap (fun b => yes (decide (b.toNat = 1))) = l := by
    intro l
    induction l with
    | nil => exact fun _ => rfl
    | cons b bs ih =>
      intro hl
      rw [List.flatMap_cons, yes_flag (hl b (by simp)), ih fun x hx => hl x (by simp [hx])]
      rfl
  exact each _ fun b mem => forall_mem_toList (p := fun b => b.toNat ≤ 1) h mem

theorem setAlarmMask_known {c : Cp} {flags : Vector Byte 20} (s : State)
    (h : ∀ j : Fin 20, (flags.get j).toNat ≤ 1) : setAlarmMask c flags s
    = (reevaluate (s.modAlarm fun a => { a with mask := a.mask.put c (flags.map fun b => b.toNat = 1) }),
      .reply .done (flags.toList ++ yes ((reevaluate (s.modAlarm fun a =>
        { a with mask := a.mask.put c (flags.map fun b => b.toNat = 1) })).alarm.attn.get c))) := by
  have mask : (reevaluate (s.modAlarm fun a => { a with mask := a.mask.put c (flags.map fun b =>
      decide (b.toNat = 1)) })).alarm.mask.get c = flags.map fun b => decide (b.toNat = 1) := by
    rw [reevaluate_mask]
    exact PerCp.get_put_self _ _ _
  unfold setAlarmMask
  dsimp only
  rw [map_flagOf h, mask, encMask_flags h]
  rfl

theorem classEntry_updAt (a : Alarm) (k : AlarmClass) (f : ClassEntry → ClassEntry) :
    classEntry { a with classes := updAt a.classes k.index f } k = f (classEntry a k) := updAt_self _ _ _

/-- The class entry after a change of it. -/
theorem classEntry_changed (s : State) (k : AlarmClass) (f : ClassEntry → ClassEntry) :
    classEntry (reevaluate (s.modAlarm fun a => { a with classes := updAt a.classes k.index f })).alarm k
      = f (classEntry s.alarm k) := by
  unfold classEntry
  rw [reevaluate_classes]
  exact classEntry_updAt s.alarm k f

theorem setAlarmLevel_named {x y : Byte} {k : AlarmClass} (s : State) (h : x.toNat = k.number) :
    setAlarmLevel x y s = (reevaluate (s.modAlarm fun a => { a with
        classes := updAt a.classes k.index fun e => { e with level := max 1 (min 7 y.toNat) } }),
      .reply .done (u8 k.number ++ u8 (max 1 (min 7 y.toNat)))) := by
  unfold setAlarmLevel
  rw [alarmClassOf_some h]
  dsimp only
  rw [classEntry_changed]
  rfl

theorem routeOf_enc {y : Byte} {r : Route} (h : routeOf y = some r) : encRoute r = [y] := by
  have known (n : Nat) (e : y.toNat = n) : u8 n = [y] := by
    rw [← e, u8, be, be, BitVec.ofNat_toNat, BitVec.setWidth_eq, List.nil_append]
  unfold routeOf at h
  split at h
  · cases h; exact known 0 ‹_›
  · cases h; exact known 1 ‹_›
  · cases h; exact known 2 ‹_›
  · cases h; exact known 3 ‹_›
  · cases h

theorem setAlarmRoute_named {x y : Byte} {k : AlarmClass} {r : Route} (s : State) (h : x.toNat = k.number)
    (route : routeOf y = some r) (may : ¬ (k = .peerSilent ∧ r = .none)) :
    setAlarmRoute x y s = (reevaluate (s.modAlarm fun a => { a with
        classes := updAt a.classes k.index fun e => { e with route := r } }),
      .reply .done (u8 k.number ++ [y])) := by
  unfold setAlarmRoute
  rw [alarmClassOf_some h]
  dsimp only
  rw [route]
  dsimp only
  rw [if_neg may, classEntry_changed, ← routeOf_enc route]
  rfl

theorem setAlarmRoute_refused {x y : Byte} {k : AlarmClass} (s : State) (h : x.toNat = k.number)
    (bad : 3 < y.toNat ∨ (k = .peerSilent ∧ y.toNat = 0)) : setAlarmRoute x y s
    = (s, .reply .badParam (u8 k.number ++ encRoute (classEntry s.alarm k).route)) := by
  unfold setAlarmRoute
  rw [alarmClassOf_some h]
  dsimp only
  rcases bad with bad | ⟨rfl, zero⟩
  · rw [routeOf_none bad]
    rfl
  · have none : routeOf y = some .none := by
      unfold routeOf
      rw [zero]
      rfl
    rw [none]
    rfl

theorem isForced_row {s : State} {k : AlarmClass} {n : Nat} {r : CondRow} (row : condRow? s.alarm k n = some r) :
    isForced s k n = r.forced := by
  unfold isForced
  rw [row]

theorem encCondition_row {s : State} {k : AlarmClass} {n : Nat} {r : CondRow}
    (row : condRow? s.alarm k n = some r) : encCondition s k n = yes r.condition ++ yes r.forced := by
  unfold encCondition
  rw [row]

/-- The condition and the forced flag of a row after a forcing or its withdrawal (R174, R175). -/
theorem encCondition_occurForced {s : State} {k : AlarmClass} {n : Nat} {r : CondRow} (v : Bool)
    (row : condRow? s.alarm k n = some r) :
    encCondition (occurForced k n v s) k n = yes r.condition ++ yes v := by
  have key (q : CondRow) : ({ q with forced := v, changed := s.time }.settleSeen).cls = q.cls
      ∧ ({ q with forced := v, changed := s.time }.settleSeen).number = q.number := by
    rw [CondRow.settleSeen_eq]
    exact ⟨rfl, rfl⟩
  have after : condRow? (occurForced k n v s).alarm k n
      = some { r with forced := v, changed := s.time }.settleSeen := by
    unfold occurForced
    rw [condRow?_conds ((reevaluate_conds _).trans (appendHistory_ringOnly _ _ _ _ _).conds),
      condRow?_modCond _ key, row]
    rfl
  rw [encCondition_row after, CondRow.settleSeen_eq]

theorem injectAlarm_event {x : Byte} {n : BitVec 16} {k : AlarmClass} (s : State)
    (ref : alarmRef x n = some (k, n.toNat)) (kind : k.kind = .event) :
    injectAlarm x n s = (occurEvent k n.toNat true s, .reply .done (yes true)) := by
  unfold injectAlarm
  rw [ref]
  dsimp only
  rw [kind]

theorem withdrawInjection_event {x : Byte} {n : BitVec 16} {k : AlarmClass} (s : State)
    (ref : alarmRef x n = some (k, n.toNat)) (kind : k.kind = .event) :
    withdrawInjection x n s = (s, .reply .badParam []) := by
  unfold withdrawInjection
  rw [ref]
  dsimp only
  rw [kind]

theorem injectAlarm_condition {x : Byte} {n : BitVec 16} {k : AlarmClass} (s : State)
    (ref : alarmRef x n = some (k, n.toNat)) (kind : k.kind = .condition) : injectAlarm x n s =
      if isForced s k n.toNat then (s, .reply .done (encCondition s k n.toNat ++ yes false))
      else (occurForced k n.toNat true s,
        .reply .done (encCondition (occurForced k n.toNat true s) k n.toNat ++ yes true)) := by
  unfold injectAlarm
  rw [ref]
  dsimp only
  rw [kind]

theorem withdrawInjection_condition {x : Byte} {n : BitVec 16} {k : AlarmClass} (s : State)
    (ref : alarmRef x n = some (k, n.toNat)) (kind : k.kind = .condition) : withdrawInjection x n s =
      if isForced s k n.toNat then (occurForced k n.toNat false s,
        .reply .done (encCondition (occurForced k n.toNat false s) k n.toNat ++ yes true))
      else (s, .reply .done (encCondition s k n.toNat ++ yes false)) := by
  unfold withdrawInjection
  rw [ref]
  dsimp only
  rw [kind]

theorem releaseHistoryHalf_full {x : Byte} {j : Fin 2} {s : State} (h : x.toNat = j.val)
    (full : (halfAt s.alarm j).state = .full) : releaseHistoryHalf x s
    = (s.modAlarm (fun a => { putHalf a j ⟨if fillingHalf s.alarm = none then .filling else .free, []⟩ with
        overrun := false }), .reply .done (yes s.alarm.overrun
          ++ (encHalves (s.modAlarm (fun a => { putHalf a j
              ⟨if fillingHalf s.alarm = none then .filling else .free, []⟩ with overrun := false })).alarm
            ++ encWriter (s.modAlarm (fun a => { putHalf a j
              ⟨if fillingHalf s.alarm = none then .filling else .free, []⟩ with overrun := false })).alarm))) := by
  unfold releaseHistoryHalf
  rw [halfOf_some h]
  dsimp only
  rw [if_pos full]

theorem releaseHistoryHalf_state {x : Byte} {j : Fin 2} {s : State} (h : x.toNat = j.val)
    (full : (halfAt s.alarm j).state ≠ .full) :
    releaseHistoryHalf x s = (s, .reply .state (encHalves s.alarm ++ encWriter s.alarm)) := by
  unfold releaseHistoryHalf
  rw [halfOf_some h]
  dsimp only
  rw [if_neg full]

/-- Settles O60, by what each request of the Alarm Unit answers. -/
theorem alarmRequestsAreJudged : Obligations.AlarmRequestsAreJudged := by
  unfold Obligations.AlarmRequestsAreJudged
  intro c tag flags x y k n s ready
  refine ⟨fun t known ht => ?_, fun holds outside => ⟨?_, ?_, ?_, ?_⟩, fun holds named => ?_,
    fun holds named bad => ?_, fun r holds named route may => ?_, fun holds named outside => ⟨?_, ?_⟩,
    fun holds named inRange kind => ⟨?_, ?_⟩, fun r holds named inRange kind row => ⟨fun forced => ⟨?_, ?_⟩,
    fun free => ⟨?_, ?_⟩⟩, fun holds bad => ?_, fun j holds named => ⟨fun other => ?_, fun full => ?_⟩⟩
  · subst ht
    exact exec_anyCp (r := .setAlarmMask flags) ready rfl rfl (setAlarmMask_known (s.heard c) known)
  · exact exec_holder (r := .setAlarmLevel x y) ready holds rfl (by
      simp only [serveRequest, setAlarmLevel, alarmClassOf_none outside])
  · exact exec_holder (r := .setAlarmRoute x y) ready holds rfl (by
      simp only [serveRequest, setAlarmRoute, alarmClassOf_none outside])
  · exact exec_holder (r := .injectAlarm x n) ready holds rfl (by
      simp only [serveRequest, injectAlarm, alarmRef_noClass outside])
  · exact exec_holder (r := .withdrawInjection x n) ready holds rfl (by
      simp only [serveRequest, withdrawInjection, alarmRef_noClass outside])
  · exact exec_holder (r := .setAlarmLevel x y) ready holds rfl (setAlarmLevel_named (s.heard c) named)
  · exact exec_holder (r := .setAlarmRoute x y) ready holds rfl (setAlarmRoute_refused (s.heard c) named bad)
  · exact exec_holder (r := .setAlarmRoute x y) ready holds rfl
      (setAlarmRoute_named (s.heard c) named route may)
  · exact exec_holder (r := .injectAlarm x n) ready holds rfl (by
      simp only [serveRequest, injectAlarm, alarmRef_outOfRange named outside])
  · exact exec_holder (r := .withdrawInjection x n) ready holds rfl (by
      simp only [serveRequest, withdrawInjection, alarmRef_outOfRange named outside])
  · exact exec_holder (r := .injectAlarm x n) ready holds rfl
      (injectAlarm_event (s.heard c) (alarmRef_some named inRange) kind)
  · exact exec_holder (r := .withdrawInjection x n) ready holds rfl
      (withdrawInjection_event (s.heard c) (alarmRef_some named inRange) kind)
  · refine exec_holder (r := .injectAlarm x n) ready holds rfl
      ((injectAlarm_condition (s.heard c) (alarmRef_some named inRange) kind).trans ?_)
    rw [if_pos ((isForced_row (s := s.heard c) row).trans forced), encCondition_row (s := s.heard c) row, forced]
  · rintro t rfl
    refine exec_holder (r := .withdrawInjection x n) ready holds rfl
      ((withdrawInjection_condition (s.heard c) (alarmRef_some named inRange) kind).trans ?_)
    rw [if_pos ((isForced_row (s := s.heard c) row).trans forced),
      encCondition_occurForced (s := s.heard c) false row]
  · refine exec_holder (r := .withdrawInjection x n) ready holds rfl
      ((withdrawInjection_condition (s.heard c) (alarmRef_some named inRange) kind).trans ?_)
    rw [if_neg (by rw [isForced_row (s := s.heard c) row, free]; exact nofun),
      encCondition_row (s := s.heard c) row, free]
  · rintro t rfl
    refine exec_holder (r := .injectAlarm x n) ready holds rfl
      ((injectAlarm_condition (s.heard c) (alarmRef_some named inRange) kind).trans ?_)
    rw [if_neg (by rw [isForced_row (s := s.heard c) row, free]; exact nofun),
      encCondition_occurForced (s := s.heard c) true row]
  · exact exec_holder (r := .releaseHistoryHalf x) ready holds rfl (by
      simp only [serveRequest, releaseHistoryHalf, halfOf_none bad, encHalves])
  · exact exec_holder (r := .releaseHistoryHalf x) ready holds rfl
      (releaseHistoryHalf_state (s := s.heard c) named other)
  · refine ⟨_, rfl, ?_⟩
    have served := releaseHistoryHalf_full (s := s.heard c) named full
    exact exec_holder (r := .releaseHistoryHalf x) ready holds rfl served

end Sys2Proof.Machine
end


-- ==== Sys2Proof/Proofs/LinkStates.lean ====
section
/-! SUPPORT. What brings a link UP and DOWN and what a HEARTBEAT does. And what the operations that every
block shares leave of the bus records and of a CP's service state. -/

namespace Sys2Proof.Machine

/-! ### Operations that only join class 1 -/

/-- Of the bus records, class 1 alone may differ. -/
def OnlyJoins (s t : State) : Prop := t.bus = { s.bus with class1 := t.bus.class1 }

theorem OnlyJoins.trans {s t u : State} (h : OnlyJoins s t) (k : OnlyJoins t u) : OnlyJoins s u := by
  unfold OnlyJoins at *
  rw [k, h]

theorem onlyJoins_same {s t : State} (h : t.bus = s.bus) : OnlyJoins s t := by
  unfold OnlyJoins
  rw [h]

theorem onlyJoins_joinHeld (f : HeldField) (s : State) : OnlyJoins s (joinHeld f s) := by
  unfold joinHeld joinClass1
  split <;> rfl

theorem onlyJoins_joinAll : ∀ (fs : List HeldField) (s : State), OnlyJoins s (joinAll fs s)
  | [], _ => rfl
  | f :: fs, s => (onlyJoins_joinHeld f s).trans (onlyJoins_joinAll fs _)

theorem onlyJoins_recomputeDuty (s : State) : OnlyJoins s (recomputeDuty s) := by
  unfold recomputeDuty
  dsimp only
  split
  · exact onlyJoins_same rfl
  · exact .trans (onlyJoins_same rfl) (onlyJoins_joinAll _ _)

theorem onlyJoins_reevaluate (s : State) : OnlyJoins s (reevaluate s) := by
  unfold reevaluate
  dsimp only
  split
  · exact onlyJoins_same rfl
  · exact .trans (onlyJoins_same rfl) (onlyJoins_joinHeld .indicator _)

theorem onlyJoins_occurEvent (k : AlarmClass) (n : Nat) (i : Bool) (s : State) :
    OnlyJoins s (occurEvent k n i s) :=
  .trans (onlyJoins_same (by simp)) (onlyJoins_reevaluate _)

theorem onlyJoins_handCondition (k : AlarmClass) (n : Nat) (s : State) :
    OnlyJoins s (handCondition k n s) := by
  unfold handCondition
  dsimp only
  split
  · exact onlyJoins_same rfl
  · exact .trans (onlyJoins_same (by simp)) (onlyJoins_reevaluate _)

theorem onlyJoins_clearService (c : Cp) (s : State) : OnlyJoins s (clearService c s) :=
  .trans (onlyJoins_same rfl) (onlyJoins_reevaluate _)

theorem onlyJoins_setPresence (c : Cp) (p : Presence) (s : State) : OnlyJoins s (setPresence c p s) :=
  .trans (onlyJoins_same rfl) (onlyJoins_reevaluate _)

theorem onlyJoins_moveAuthority (h : Option Cp) (k : Cause) (s : State) :
    OnlyJoins s (moveAuthority h k s) := by
  refine .trans ?_ (onlyJoins_recomputeDuty _)
  refine .trans (onlyJoins_same ?_) (onlyJoins_joinHeld .indicator _)
  split <;> simp [setHolder]

theorem OnlyJoins.maint {s t : State} (h : OnlyJoins s t) : t.bus.maint = s.bus.maint := by
  rw [h]

/-! ### The service state of a CP (R183) -/

theorem occurCondition_service (k : AlarmClass) (n : Nat) (v : Bool) (s : State) :
    (occurCondition k n v s).alarm.stack = s.alarm.stack ∧ (occurCondition k n v s).alarm.mask = s.alarm.mask := by
  have ring := appendHistory_ringOnly k n (if v then .raised else .cleared) false
    (modCond k n (fun r => { r with condition := v, changed := s.time }.settleSeen) s)
  exact ⟨(reevaluate_stack _).trans ring.stack, (reevaluate_mask _).trans ring.mask⟩

theorem handCondition_service (k : AlarmClass) (n : Nat) (s : State) :
    (handCondition k n s).alarm.stack = s.alarm.stack ∧ (handCondition k n s).alarm.mask = s.alarm.mask := by
  unfold handCondition
  dsimp only
  split
  · exact ⟨rfl, rfl⟩
  · exact occurCondition_service k n _ s

theorem occurEvent_service (k : AlarmClass) (n : Nat) (i : Bool) (s : State) :
    (occurEvent k n i s).alarm.stack = s.alarm.stack ∧ (occurEvent k n i s).alarm.mask = s.alarm.mask := by
  have ring := appendHistory_ringOnly k n .event i (latchEvent k n i s)
  exact ⟨(reevaluate_stack _).trans ring.stack, (reevaluate_mask _).trans ring.mask⟩

theorem clearService_service (c : Cp) (s : State) :
    (clearService c s).alarm.stack = s.alarm.stack.put c []
    ∧ (clearService c s).alarm.mask = s.alarm.mask.put c (Vector.replicate 20 true) :=
  ⟨reevaluate_stack _, reevaluate_mask _⟩

/-- A CP's seen marks and latches are cleared. -/
structure Unmarked (c : Cp) (s : State) : Prop where
  seen : ∀ r ∈ s.alarm.conds, r.seen.get c = false
  latch : ∀ r ∈ s.alarm.events, r.latch.get c = false

theorem unmarked_same {c : Cp} {s t : State} (h : Unmarked c s) (conds : t.alarm.conds = s.alarm.conds)
    (events : t.alarm.events = s.alarm.events) : Unmarked c t :=
  ⟨conds ▸ h.seen, events ▸ h.latch⟩

theorem unmarked_reevaluate {c : Cp} {s : State} (h : Unmarked c s) : Unmarked c (reevaluate s) :=
  unmarked_same h (reevaluate_conds s) (reevaluate_events s)

theorem unmarked_clearService (c : Cp) (s : State) : Unmarked c (clearService c s) := by
  refine unmarked_reevaluate ⟨fun r mem => ?_, fun r mem => ?_⟩
  · obtain ⟨q, _, rfl⟩ := List.mem_map.1 mem
    exact PerCp.get_put_self _ _ _
  · obtain ⟨q, _, rfl⟩ := List.mem_map.1 mem
    exact PerCp.get_put_self _ _ _

/-- No route targets a CP that is ABSENT, the routes of a latch of its own (R164). -/
theorem setLatches_absent {a : Authority} {c : Cp} (absent : a.presence.get c = .absent) (route : Route)
    (r : EventRow) : (setLatches a route r).latch.get c = r.latch.get c := by
  have standby : routeTargets a .standby c = false := by
    cases h : a.holder <;> simp [routeTargets, h, absent, Presence.isLive]
  have both : routeTargets a .both c = false := by simp [routeTargets, absent]
  cases route with
  | active | none => rfl
  | standby =>
    cases c <;> exact (congrArg (_ || ·) standby).trans (Bool.or_false _)
  | both =>
    cases c <;> exact (congrArg (_ || ·) both).trans (Bool.or_false _)

theorem unmarked_latchEvent {c : Cp} {s : State} (k : AlarmClass) (n : Nat) (i : Bool)
    (absent : s.auth.presence.get c = .absent) (h : Unmarked c s) : Unmarked c (latchEvent k n i s) := by
  refine ⟨h.seen, fun r mem => ?_⟩
  obtain ⟨q, hq, rfl⟩ := List.mem_map.1 mem
  dsimp only
  split
  · rw [setLatches_absent absent]
    exact h.latch q hq
  · exact h.latch q hq

theorem unmarked_closeHalf {c : Cp} {s : State} (half : Fin 2) (absent : s.auth.presence.get c = .absent)
    (h : Unmarked c s) : Unmarked c (closeHalf half s) := by
  have full : Unmarked c (s.modAlarm fun a => putHalf a half { halfAt a half with state := .full }) :=
    unmarked_same h (putHalf_conds _ _ _) (putHalf_events _ _ _)
  have latched := unmarked_latchEvent (s := s.modAlarm _) .historyHalf (half.val + 1) false absent full
  rw [closeHalf_eq]
  split
  · exact unmarked_same latched (putHalf_conds _ _ _) (putHalf_events _ _ _)
  · exact latched

theorem unmarked_appendHistory {c : Cp} {s : State} (k : AlarmClass) (n : Nat) (t : Transition) (i : Bool)
    (absent : s.auth.presence.get c = .absent) (h : Unmarked c s) :
    Unmarked c (appendHistory k n t i s) := by
  by_cases other : k = .historyHalf
  · subst other
    rwa [appendHistory_historyHalf]
  · cases filling : fillingHalf s.alarm with
    | none =>
      rw [appendHistory_stalled n t i other filling]
      exact unmarked_same h rfl rfl
    | some half =>
      have put : Unmarked c (s.modAlarm fun a => putHalf a half ⟨.filling, entriesWith s k n t i half⟩) :=
        unmarked_same h (putHalf_conds _ _ _) (putHalf_events _ _ _)
      rw [appendHistory_half n t i other filling]
      split
      · exact unmarked_closeHalf half absent put
      · exact put

theorem unmarked_occurEvent {c : Cp} {s : State} (k : AlarmClass) (n : Nat) (i : Bool)
    (absent : s.auth.presence.get c = .absent) (h : Unmarked c s) : Unmarked c (occurEvent k n i s) :=
  unmarked_reevaluate (unmarked_appendHistory _ _ _ _ absent (unmarked_latchEvent k n i absent h))

theorem unmarked_handCondition {c : Cp} {s : State} (k : AlarmClass) (n : Nat)
    (absent : s.auth.presence.get c = .absent) (h : Unmarked c s) : Unmarked c (handCondition k n s) := by
  unfold handCondition
  dsimp only
  split
  · exact h
  · refine unmarked_reevaluate (unmarked_appendHistory _ _ _ _ absent ⟨fun r mem => ?_, h.latch⟩)
    obtain ⟨q, hq, rfl⟩ := List.mem_map.1 mem
    dsimp only
    split
    · rw [CondRow.settleSeen_eq]
      dsimp only
      split
      · exact h.seen q hq
      · cases c <;> rfl
    · exact h.seen q hq

/-! ### HEARTBEAT (O7) and the first good frame (O6) -/

theorem takeHeartbeat_auth (c : Cp) (s : State) : (takeHeartbeat c s).auth =
    { s.auth with presence := s.auth.presence.put c (.live (timeAfter s.time s.straps.period.ms)) } := by
  simp [takeHeartbeat, handPeer]

/-- A HEARTBEAT without parameters on a port whose line is released. -/
theorem handleFrame_heartbeat {c : Cp} {tag : BitVec 4} {s : State}
    (released : (s.link.get c).resetHeld = false) : handleFrame c ⟨tag, 0x01, []⟩ s
    = (takeHeartbeat c (linkUp c s)).answeredAtOnce c tag 0x01 .done
        (heartbeatResults c ((linkUp c s).auth.presence.get c) (takeHeartbeat c (linkUp c s))) := by
  unfold handleFrame heartbeatFrame
  exact (if_neg (by simp [released])).trans ((if_pos rfl).trans (if_pos rfl))

theorem heartbeatResults_eq (c : Cp) (prior : Presence) (s : State) :
    heartbeatResults c prior (takeHeartbeat c s) = encHolder s.auth.holder ++ u32 s.auth.epoch
      ++ encPresence prior ++ yes s.auth.departed.isSome ++ yes ((takeHeartbeat c s).alarm.attn.get c) := by
  unfold heartbeatResults encAuthority encDeparted encAttention
  rw [takeHeartbeat_auth]

/-- Settles O7, by the order of a HEARTBEAT on an UP link. -/
theorem heartbeatRenewsPresence : Obligations.HeartbeatRenewsPresence := by
  unfold Obligations.HeartbeatRenewsPresence
  intro c tag s up released _
  refine ⟨takeHeartbeat c (s.heard c), rfl, takeHeartbeat_auth c (s.heard c), ?_⟩
  rw [exec_heartbeat, handleFrame_heartbeat released, linkUp_heard up, heartbeatResults_eq]
  rfl

theorem linkUp_down {c : Cp} {s : State} (down : (s.link.get c).up = false) : linkUp c s =
    handCondition .peerSilent (cpNumber c) (setPresence c .silent
      (s.modLink c fun p => { p with up := true, badFrames := 0 })) := by
  unfold linkUp
  rw [if_neg (by simp [down])]
  rfl

theorem linkUp_down_link {c : Cp} {s : State} (down : (s.link.get c).up = false) :
    (linkUp c s).link.get c = { s.link.get c with up := true, badFrames := 0 } := by
  rw [linkUp_down down]
  simp

theorem linkUp_down_auth {c : Cp} {s : State} (down : (s.link.get c).up = false) :
    (linkUp c s).auth = { s.auth with presence := s.auth.presence.put c .silent } := by
  rw [linkUp_down down]
  simp

theorem takeHeartbeat_link (c : Cp) (s : State) : (takeHeartbeat c s).link = s.link := by
  simp [takeHeartbeat, handPeer]

/-- Settles O6: the link comes UP ahead of the frame, and the CP is SILENT when it is judged. -/
theorem firstGoodFrameBringsLinkUp : Obligations.FirstGoodFrameBringsLinkUp := by
  unfold Obligations.FirstGoodFrameBringsLinkUp
  intro c tag s down released _
  dsimp only
  rw [← linkUp_down down]
  have link := linkUp_down_link down
  have auth := linkUp_down_auth down
  have clock : (linkUp c s).time = s.time ∧ (linkUp c s).straps = s.straps := by
    rw [linkUp_down down]
    simp
  refine ⟨⟨_, by rw [exec_heartbeat, handleFrame_heartbeat released], ?_, ?_, ?_, ?_, ?_⟩,
    fun r fits empty => ⟨fun idle => ?_, fun e busy => ?_⟩⟩
  · simp [State.answeredAtOnce, takeHeartbeat_link, link]
  · simp [State.answeredAtOnce, takeHeartbeat_link, link]
  · simp [State.answeredAtOnce, takeHeartbeat_auth, clock]
  · simp [State.answeredAtOnce, takeHeartbeat_auth, auth]
  · simp [State.answeredAtOnce, takeHeartbeat_auth, auth]
  · rw [exec_command, handleFrame_request released r.code_ne_heartbeat,
      requestFrame_idle (by rw [link]; exact idle) (by rw [link]; exact empty),
      judgeRequest_silent _ (by rw [auth]; exact PerCp.get_put_self _ _ _)]
    rfl
  · rw [exec_command, handleFrame_request released r.code_ne_heartbeat,
      requestFrame_busy (by rw [link]; simp [busy]) (by rw [link]; simp [empty])]
    refine congrArg (fun u => Host.Outcome.next (arbitrate u)) (modLink_congr ?_)
    rw [link]
    simp [empty]

/-! ### Bad frames and the reset line (O8) -/

theorem handleBadFrame_ignored {c : Cp} {s : State}
    (h : (s.link.get c).resetHeld = true ∨ (s.link.get c).up = false) : handleBadFrame c s = s := by
  unfold handleBadFrame
  exact if_pos (by rcases h with h | h <;> simp [h])

theorem handleBadFrame_counted {c : Cp} {s : State} (released : (s.link.get c).resetHeld = false)
    (up : (s.link.get c).up = true) (few : (s.link.get c).badFrames ≠ 7) :
    handleBadFrame c s = s.modLink c fun p => { p with badFrames := p.badFrames + 1 } := by
  unfold handleBadFrame
  dsimp only
  rw [if_neg (by simp [released, up]), if_neg (by omega)]

theorem handleBadFrame_eighth {c : Cp} {s : State} (released : (s.link.get c).resetHeld = false)
    (up : (s.link.get c).up = true) (seven : (s.link.get c).badFrames = 7) :
    handleBadFrame c s = presenceDown c (s.modLink c LinkPort.down) := by
  unfold handleBadFrame
  dsimp only
  rw [if_neg (by simp [released, up]), if_pos (by omega)]
  rfl

/-- On a held line no frame does anything. -/
theorem frameArrived_held {c : Cp} {s : State} (held : (s.link.get c).resetHeld = true) (f : Option Frame) :
    frameArrived c f s = s := by
  cases f with
  | none => exact handleBadFrame_ignored (.inl held)
  | some f => exact if_pos held

theorem handleBytes_held {c : Cp} {bytes : List Byte} {s : State}
    (held : (s.link.get c).resetHeld = true) : arbitrate (handleBytes c bytes s) = arbitrate s := by
  unfold handleBytes
  generalize received bytes = frames
  induction frames generalizing s with
  | nil => rfl
  | cons f fs ih =>
    rw [List.foldl_cons, frameArrived_held held, ih (by simpa using held), arbitrate_arbitrate]

theorem assertReset_up {c : Cp} {s : State} (up : (s.link.get c).up = true) : assertReset c s =
    presenceDown c (s.modLink c fun p => { p with resetHeld := true }.down) := by
  unfold assertReset
  dsimp only
  rw [if_pos up, linkDown, modLink_modLink]

theorem assertReset_down {c : Cp} {s : State} (down : (s.link.get c).up = false) : assertReset c s =
    s.modLink c fun p => { p with resetHeld := true } := by
  unfold assertReset
  exact if_neg (by simp [down])

/-- Settles O8, by the level of the line, the link and the bad-frame count. -/
theorem linksGoDown : Obligations.LinksGoDown := by
  unfold Obligations.LinksGoDown
  refine fun c s => ⟨fun h => ?_, fun bytes held => ?_, fun released up few => ?_,
    fun released up seven => ?_, fun up => ?_, fun down => ?_, rfl⟩
  · rw [exec_badFrame, handleBadFrame_ignored h]
  · rw [exec_goodFrame, handleBytes_held held]
  · rw [exec_badFrame, handleBadFrame_counted released up (Nat.ne_of_lt few)]
  · rw [exec_badFrame, handleBadFrame_eighth released up seven]
    rfl
  · show Host.Outcome.next (arbitrate (assertReset c s)) = _
    rw [assertReset_up up]
    rfl
  · show Host.Outcome.next (arbitrate (assertReset c s)) = _
    rw [assertReset_down down]

end Sys2Proof.Machine
end


-- ==== Sys2Proof/Proofs/AuthorityRules.lean ====
section
/-! SUPPORT. The Authority Unit: what a change of holder leaves of the records, the requests on authority, on
the departed record and on the handover words, and the expiry of deadlines. -/

namespace Sys2Proof.Machine

/-! ### The departed record (R18, R22, R133) -/

theorem adoptTxn_held {c : Cp} {e : BitVec 32} {s : State} {i : TxnInfo} (h : s.zone.txn = .held i) :
    adoptTxn c e s = s.modZone fun z => { z with txn := .opened ⟨c, e, i.base, s.time⟩ } := by
  unfold adoptTxn
  rw [h]

theorem discardTxn_held {s : State} {i : TxnInfo} (h : s.zone.txn = .held i) :
    discardTxn s = s.modZone fun z => { z with staging := [], txn := .closed } := by
  unfold discardTxn
  rw [h]
  rfl

theorem holdTxn_opened {s : State} {i : TxnInfo} (h : s.zone.txn = .opened i) :
    holdTxn s = s.modZone fun z => { z with txn := .held i } := by
  unfold holdTxn
  rw [h]

/-- A departed record never outlives the change of holder that finds it. -/
theorem resolveDeparted_auth (h : Option Cp) (s : State) :
    (resolveDeparted h s).auth = { s.auth with departed := none } := by
  unfold resolveDeparted
  cases e : s.auth.departed with
  | none =>
    show s.auth = _
    rw [← e]
  | some d =>
    dsimp only
    repeat' split
    all_goals simp [removeDeparted]

theorem resolveDeparted_zone_noTxn (h : Option Cp) {s : State}
    (none : ∀ d, s.auth.departed = some d → d.transaction = none) : (resolveDeparted h s).zone = s.zone := by
  unfold resolveDeparted
  cases e : s.auth.departed with
  | none => rfl
  | some d =>
    dsimp only
    rw [if_pos (by simp [none d e])]
    rfl

/-- A HELD transaction is adopted by the prior holder when it is the new one, and discarded otherwise. -/
theorem resolveDeparted_zone_held {h : Option Cp} {s : State} {d : Departed} {x : Nat × Nat} {i : TxnInfo}
    (e : s.auth.departed = some d) (t : d.transaction = some x) (held : s.zone.txn = .held i) :
    (resolveDeparted h s).zone = if h = some d.prior then
        { s.zone with txn := .opened ⟨d.prior, s.auth.epoch, i.base, s.time⟩ }
      else { s.zone with staging := [], txn := .closed } := by
  have held' : (removeDeparted s).zone.txn = .held i := held
  unfold resolveDeparted
  rw [e]
  dsimp only
  rw [if_neg (by simp [t]), adoptTxn_held held', discardTxn_held held']
  split <;> rfl

theorem createDeparted_none {c : Cp} {e : BitVec 32} {k : Cause} {s : State}
    (own : ownsOpenTxn s.zone.txn c = false) (voluntary : k.involuntary = false) :
    createDeparted c e k s = s := by
  unfold createDeparted
  dsimp only
  rw [own, voluntary]
  rfl

theorem createDeparted_frozen {c : Cp} {e : BitVec 32} {k : Cause} {s : State}
    (own : ownsOpenTxn s.zone.txn c = false) (involuntary : k.involuntary = true) : createDeparted c e k s
    = s.modAuth fun a => { a with departed := some ⟨c, e, k, s.time, none, true⟩ } := by
  unfold createDeparted
  dsimp only
  rw [own, involuntary]
  rfl

theorem createDeparted_held {c : Cp} {e : BitVec 32} {k : Cause} {s : State} {i : TxnInfo}
    (txn : s.zone.txn = .opened i) (owner : i.owner = c) : createDeparted c e k s
    = (s.modAuth fun a => { a with departed := some ⟨c, e, k, s.time,
        some (s.zone.staging.length, entryCount s.zone.staging), k.involuntary⟩ }).modZone
          fun z => { z with txn := .held i } := by
  have own : ownsOpenTxn s.zone.txn c = true := by simp [ownsOpenTxn, txn, owner]
  unfold createDeparted
  dsimp only
  rw [own]
  exact holdTxn_opened (s := s.modAuth _) txn

/-- Of the authority record, a fresh departed record changes nothing else. -/
theorem createDeparted_auth (c : Cp) (e : BitVec 32) (k : Cause) (s : State) : (createDeparted c e k s).auth
    = { s.auth with departed := (createDeparted c e k s).auth.departed } := by
  unfold createDeparted
  dsimp only
  repeat' split
  all_goals simp

/-! ### A change of holder (O15) -/

/-- The state in which the records of the CP that departs are left: the new holder set, an earlier departed
record resolved (steps 1 and 2 of R9). -/
def resolvedFor (h : Option Cp) (k : Cause) (s : State) : State := resolveDeparted h (setHolder h k s)

theorem resolvedFor_auth (h : Option Cp) (k : Cause) (s : State) : (resolvedFor h k s).auth =
    { s.auth with holder := h, epoch := s.auth.epoch + 1, since := s.time, cause := k, claimed := true,
                  departed := none } :=
  resolveDeparted_auth h _

theorem resolvedFor_time (h : Option Cp) (k : Cause) (s : State) : (resolvedFor h k s).time = s.time :=
  resolveDeparted_time h _

theorem moveAuthority_none {h : Option Cp} {k : Cause} {s : State} (none : s.auth.holder = none) :
    (moveAuthority h k s).auth = (resolvedFor h k s).auth
    ∧ (moveAuthority h k s).zone = (resolvedFor h k s).zone := by
  unfold moveAuthority
  dsimp only
  rw [none]
  simp [resolvedFor]

theorem moveAuthority_some {h : Option Cp} {k : Cause} {s : State} {c : Cp} (some : s.auth.holder = some c) :
    (moveAuthority h k s).auth = (createDeparted c s.auth.epoch k (resolvedFor h k s)).auth
    ∧ (moveAuthority h k s).zone = (createDeparted c s.auth.epoch k (resolvedFor h k s)).zone := by
  unfold moveAuthority
  dsimp only
  rw [some]
  simp [resolvedFor]

theorem moveAuthority_auth (h : Option Cp) (k : Cause) (s : State) : (moveAuthority h k s).auth =
    { s.auth with holder := h, epoch := s.auth.epoch + 1, since := s.time, cause := k, claimed := true,
                  departed := (moveAuthority h k s).auth.departed } := by
  cases e : s.auth.holder with
  | none => rw [(moveAuthority_none e).1, resolvedFor_auth]
  | some c =>
    rw [(moveAuthority_some e).1, createDeparted_auth, resolvedFor_auth]

theorem moveAuthority_departed_none {h : Option Cp} {k : Cause} {s : State} (none : s.auth.holder = none) :
    (moveAuthority h k s).auth.departed = .none := by
  rw [(moveAuthority_none none).1, resolvedFor_auth]

/-- The zone record of a change of holder that finds no HELD transaction is that of the CP's departure. -/
theorem resolvedFor_zone {h : Option Cp} {k : Cause} {s : State}
    (none : ∀ d, s.auth.departed = some d → d.transaction = none) : (resolvedFor h k s).zone = s.zone :=
  resolveDeparted_zone_noTxn (s := setHolder h k s) h none

/-- A voluntary departure without an OPEN transaction leaves no record. -/
theorem moveAuthority_voluntary {h : Option Cp} {k : Cause} {s : State} {c : Cp}
    (none : ∀ d, s.auth.departed = some d → d.transaction = none) (holds : s.auth.holder = some c)
    (voluntary : k.involuntary = false) (own : ownsOpenTxn s.zone.txn c = false) :
    (moveAuthority h k s).auth.departed = .none ∧ (moveAuthority h k s).zone = s.zone := by
  have zone := resolvedFor_zone (h := h) (k := k) none
  obtain ⟨auth, zone'⟩ := moveAuthority_some (h := h) (k := k) holds
  rw [createDeparted_none (by rw [zone]; exact own) voluntary] at auth zone'
  exact ⟨by rw [auth, resolvedFor_auth], zone'.trans zone⟩

/-- An involuntary one leaves a frozen record. -/
theorem moveAuthority_involuntary {h : Option Cp} {k : Cause} {s : State} {c : Cp}
    (none : ∀ d, s.auth.departed = some d → d.transaction = none) (holds : s.auth.holder = some c)
    (involuntary : k.involuntary = true) (own : ownsOpenTxn s.zone.txn c = false) :
    (moveAuthority h k s).auth.departed = some ⟨c, s.auth.epoch, k, s.time, .none, true⟩
    ∧ (moveAuthority h k s).zone = s.zone := by
  have zone := resolvedFor_zone (h := h) (k := k) none
  obtain ⟨auth, zone'⟩ := moveAuthority_some (h := h) (k := k) holds
  rw [createDeparted_frozen (by rw [zone]; exact own) involuntary, resolvedFor_time] at auth zone'
  exact ⟨congrArg Authority.departed auth, zone'.trans zone⟩

/-- With an OPEN transaction of its own, the record names the transaction, which is HELD. -/
theorem moveAuthority_opened {h : Option Cp} {k : Cause} {s : State} {c : Cp} {i : TxnInfo}
    (none : ∀ d, s.auth.departed = some d → d.transaction = none) (holds : s.auth.holder = some c)
    (txn : s.zone.txn = .opened i) (owner : i.owner = c) :
    (moveAuthority h k s).auth.departed = some ⟨c, s.auth.epoch, k, s.time,
      some (s.zone.staging.length, entryCount s.zone.staging), k.involuntary⟩
    ∧ (moveAuthority h k s).zone = { s.zone with txn := .held i } := by
  have zone := resolvedFor_zone (h := h) (k := k) none
  obtain ⟨auth, zone'⟩ := moveAuthority_some (h := h) (k := k) holds
  rw [createDeparted_held (by rw [zone]; exact txn) owner, resolvedFor_time, zone] at auth
  rw [createDeparted_held (by rw [zone]; exact txn) owner] at zone'
  refine ⟨congrArg Authority.departed auth, zone'.trans ?_⟩
  show { (resolvedFor h k s).zone with txn := .held i } = _
  rw [zone]

/-- A change of holder that finds a HELD transaction of the other CP resolves it. -/
theorem moveAuthority_held {h : Option Cp} {k : Cause} {s : State} {d : Departed} {x : Nat × Nat} {i : TxnInfo}
    (e : s.auth.departed = some d) (t : d.transaction = some x) (held : s.zone.txn = .held i)
    (other : s.auth.holder ≠ some d.prior) :
    (moveAuthority h k s).zone = (if h = some d.prior then
        { s.zone with txn := .opened ⟨d.prior, s.auth.epoch + 1, i.base, s.time⟩ }
      else { s.zone with staging := [], txn := .closed })
    ∧ ∀ c, s.auth.holder = some c → (moveAuthority h k s).auth.departed =
        if k.involuntary then some ⟨c, s.auth.epoch, k, s.time, none, true⟩ else none := by
  have zone : (resolvedFor h k s).zone = _ :=
    resolveDeparted_zone_held (h := h) (s := setHolder h k s) e t held
  cases holds : s.auth.holder with
  | none =>
    exact ⟨(moveAuthority_none holds).2.trans zone, nofun⟩
  | some c =>
    have ne : d.prior ≠ c := fun eq => other (by rw [holds, eq])
    have own : ownsOpenTxn (resolvedFor h k s).zone.txn c = false := by
      rw [zone]
      split <;> simp [ownsOpenTxn, ne]
    obtain ⟨auth, zone'⟩ := moveAuthority_some (h := h) (k := k) holds
    cases involuntary : k.involuntary with
    | false =>
      rw [createDeparted_none own involuntary] at auth zone'
      refine ⟨zone'.trans zone, fun _ _ => ?_⟩
      rw [auth, resolvedFor_auth]
      rfl
    | true =>
      rw [createDeparted_frozen own involuntary, resolvedFor_time] at auth zone'
      refine ⟨zone'.trans zone, fun c' hc => ?_⟩
      cases hc
      exact congrArg Authority.departed auth

theorem changeHolder_auth (h : Option Cp) (k : Cause) (s : State) :
    (changeHolder h k s).auth = (moveAuthority h k s).auth := by simp [changeHolder]

theorem changeHolder_zone (h : Option Cp) (k : Cause) (s : State) :
    (changeHolder h k s).zone = (moveAuthority h k s).zone := by simp [changeHolder]

/-- The duty that a change of holder leaves is the one formed under the new holder (R63). -/
theorem moveAuthority_duty (h : Option Cp) (k : Cause) (s : State) : (moveAuthority h k s).cool.duty
    = (dutyOf (moveAuthority h k s).auth { s.cool with duty := (moveAuthority h k s).cool.duty }).value := by
  have same (a : Authority) (c : Cooling) (d : Nat) : dutyOf a { c with duty := d } = dutyOf a c := rfl
  have duty : (moveAuthority h k s).cool.duty = (dutyOf (moveAuthority h k s).auth s.cool).value := by
    unfold moveAuthority
    dsimp only
    rw [recomputeDuty_duty, recomputeDuty_auth]
    cases s.auth.holder <;> simp [setHolder]
  rw [same]
  exact duty

/-- Settles O15, by what stood before the change. -/
theorem changeOfHolder : Obligations.ChangeOfHolder := by
  unfold Obligations.ChangeOfHolder
  rintro h k s t rfl
  have auth := (changeHolder_auth h k s).trans (moveAuthority_auth h k s)
  rw [changeHolder_zone]
  refine ⟨?_, ?_, ?_, ?_, ?_, ?_, ?_, fun none => ?_, fun c noTxn holds => ⟨fun voluntary own => ?_,
    fun involuntary own => ?_, fun i txn owner => ?_⟩, fun d x i e t held other => ⟨fun prior => ?_,
    fun ne => ?_, fun c holds => ?_⟩, ?_, changeHolder_prefix h k s, ⟨_, rfl, ?_, ?_⟩, changeHolder_time h k s,
    changeHolder_straps h k s, changeHolder_serial h k s, changeHolder_link h k s, changeHolder_power h k s,
    changeHolder_lic h k s⟩
  · rw [auth]
  · rw [auth]
  · rw [auth]
  · rw [auth]
  · rw [auth]
  · rw [auth]
  · rw [auth]
  · rw [changeHolder_auth, moveAuthority_departed_none none]
  · rw [changeHolder_auth]
    exact moveAuthority_voluntary noTxn holds voluntary own
  · rw [changeHolder_auth]
    exact moveAuthority_involuntary noTxn holds involuntary own
  · rw [changeHolder_auth]
    exact moveAuthority_opened noTxn holds txn owner
  · rw [(moveAuthority_held e t held other).1, if_pos prior]
  · rw [(moveAuthority_held e t held other).1, if_neg ne]
  · rw [changeHolder_auth, (moveAuthority_held e t held other).2 c holds]
  · exact (changeHolder_prefix h k s).subset (mem_joinHeld .indicator s)
  · rw [changeHolder_auth]
  · rw [changeHolder_auth]
    exact moveAuthority_duty h k s

/-! ### Link DOWN (O9) -/

theorem successor_absent (c : Cp) (s : State) : successor (setPresence c .absent s).auth c
    = if (s.auth.presence.get c.peer).isLive then some c.peer else none := by
  unfold successor
  rw [setPresence_auth]
  simp

/-- The state of a link DOWN before PEER_SILENT is handed: presence, authority and service state. -/
def downCleared (c : Cp) (s : State) : State :=
  clearService c (if s.isHolder c then
    moveAuthority (successor (setPresence c .absent s).auth c) .linkLost (setPresence c .absent s)
    else setPresence c .absent s)

theorem presenceDown_holder {c : Cp} {s : State} (holds : s.auth.holder = some c) :
    presenceDown c s = occurEvent .authorityChange 1 false (handPeer c (downCleared c s)) := by
  unfold presenceDown downCleared
  dsimp only
  rw [if_pos (by simp [State.isHolder, holds]), if_pos (by simp [State.isHolder, holds])]

theorem presenceDown_other {c : Cp} {s : State} (other : s.auth.holder ≠ some c) :
    presenceDown c s = handPeer c (downCleared c s) := by
  unfold presenceDown downCleared
  dsimp only
  rw [if_neg (by simp [State.isHolder, other]), if_neg (by simp [State.isHolder, other])]

/-- What a link DOWN leaves of the records that its last steps do not touch. -/
structure AsCleared (c : Cp) (s t : State) : Prop where
  auth : t.auth = (downCleared c s).auth
  zone : t.zone = (downCleared c s).zone
  stack : t.alarm.stack = (downCleared c s).alarm.stack
  mask : t.alarm.mask = (downCleared c s).alarm.mask
  unmarked : (downCleared c s).auth.presence.get c = .absent → Unmarked c t
  maint : t.bus.maint = (downCleared c s).bus.maint
  link : t.link = (downCleared c s).link
  power : t.power = (downCleared c s).power
  lic : t.lic = (downCleared c s).lic
  straps : t.straps = (downCleared c s).straps
  time : t.time = (downCleared c s).time
  serial : t.serial = (downCleared c s).serial

theorem presenceDown_asCleared (c : Cp) (s : State) : AsCleared c s (presenceDown c s) := by
  have hand := handCondition_service .peerSilent (cpNumber c) (downCleared c s)
  have maint := (onlyJoins_handCondition .peerSilent (cpNumber c) (downCleared c s)).maint
  have unmarked (absent : (downCleared c s).auth.presence.get c = .absent) :
      Unmarked c (handPeer c (downCleared c s)) :=
    unmarked_handCondition _ _ absent (unmarked_clearService c _)
  by_cases holds : s.auth.holder = some c
  · have occur := occurEvent_service .authorityChange 1 false (handPeer c (downCleared c s))
    rw [presenceDown_holder holds]
    exact ⟨by simp [handPeer], by simp [handPeer], occur.1.trans hand.1, occur.2.trans hand.2,
      fun absent => unmarked_occurEvent _ _ _ (by simpa [handPeer] using absent) (unmarked absent),
      (onlyJoins_occurEvent _ _ _ _).maint.trans maint, by simp [handPeer], by simp [handPeer],
      by simp [handPeer], by simp [handPeer], by simp [handPeer], by simp [handPeer]⟩
  · rw [presenceDown_other holds]
    exact ⟨by simp [handPeer], by simp [handPeer], hand.1, hand.2, unmarked, maint, by simp [handPeer],
      by simp [handPeer], by simp [handPeer], by simp [handPeer], by simp [handPeer], by simp [handPeer]⟩

/-- Authority and zone records of a link DOWN. -/
theorem downCleared_other {c : Cp} {s : State} (other : s.auth.holder ≠ some c) :
    (downCleared c s).auth = { s.auth with presence := s.auth.presence.put c .absent }
    ∧ (downCleared c s).zone = s.zone := by
  unfold downCleared
  rw [if_neg (by simp [State.isHolder, other])]
  simp

theorem downCleared_holder {c : Cp} {s : State} (holds : s.auth.holder = some c) :
    (downCleared c s).auth = (moveAuthority (if (s.auth.presence.get c.peer).isLive then some c.peer else none)
      .linkLost (setPresence c .absent s)).auth
    ∧ (downCleared c s).zone = (moveAuthority (if (s.auth.presence.get c.peer).isLive then some c.peer else none)
      .linkLost (setPresence c .absent s)).zone := by
  unfold downCleared
  rw [if_pos (by simp [State.isHolder, holds]), successor_absent]
  simp

theorem downCleared_presence (c : Cp) (s : State) :
    (downCleared c s).auth.presence = s.auth.presence.put c .absent
    ∧ (downCleared c s).auth.handover = s.auth.handover := by
  by_cases holds : s.auth.holder = some c
  · rw [(downCleared_holder holds).1, moveAuthority_auth]
    simp
  · rw [(downCleared_other holds).1]
    exact ⟨rfl, rfl⟩

theorem downCleared_same (c : Cp) (s : State) :
    (downCleared c s).link = s.link ∧ (downCleared c s).power = s.power ∧ (downCleared c s).lic = s.lic
    ∧ (downCleared c s).straps = s.straps ∧ (downCleared c s).time = s.time
    ∧ (downCleared c s).serial = s.serial := by
  unfold downCleared
  split <;> simp

theorem downCleared_maint (c : Cp) (s : State) : (downCleared c s).bus.maint = s.bus.maint := by
  have first := (onlyJoins_setPresence c .absent s).maint
  unfold downCleared
  refine (onlyJoins_clearService c _).maint.trans ?_
  split
  · exact (onlyJoins_moveAuthority _ _ _).maint.trans first
  · exact first

theorem downCleared_service (c : Cp) (s : State) :
    (downCleared c s).alarm.stack = s.alarm.stack.put c []
    ∧ (downCleared c s).alarm.mask = s.alarm.mask.put c (Vector.replicate 20 true) := by
  have first : (setPresence c .absent s).alarm.stack = s.alarm.stack
      ∧ (setPresence c .absent s).alarm.mask = s.alarm.mask :=
    ⟨reevaluate_stack _, reevaluate_mask _⟩
  unfold downCleared
  rw [(clearService_service c _).1, (clearService_service c _).2]
  split
  · rw [moveAuthority_alarm, first.1, first.2]
    exact ⟨rfl, rfl⟩
  · rw [first.1, first.2]
    exact ⟨rfl, rfl⟩

/-- Settles O9: each step of a link DOWN by the records it writes. -/
theorem linkDownClearsTheCp : Obligations.LinkDownClearsTheCp := by
  unfold Obligations.LinkDownClearsTheCp
  rintro c s t rfl
  have cleared := presenceDown_asCleared c s
  obtain ⟨presence, handover⟩ := downCleared_presence c s
  obtain ⟨stack, mask⟩ := downCleared_service c s
  obtain ⟨link, power, lic, straps, time, serial⟩ := downCleared_same c s
  have absent : (downCleared c s).auth.presence.get c = .absent := by rw [presence]; exact PerCp.get_put_self _ _ _
  have unmarked := cleared.unmarked absent
  refine ⟨?_, ?_, ?_, ?_, ?_, ?_, unmarked.seen, unmarked.latch, fun other => ?_, fun holds => ?_, ?_, ?_,
    cleared.link.trans link, cleared.power.trans power, cleared.lic.trans lic, cleared.straps.trans straps,
    cleared.time.trans time, cleared.serial.trans serial⟩
  · rw [cleared.auth, absent]
  · rw [cleared.auth, presence, PerCp.get_put_peer]
  · rw [cleared.stack, stack, PerCp.get_put_self]
  · rw [cleared.mask, mask, PerCp.get_put_self]
  · rw [cleared.stack, stack, PerCp.get_put_peer]
  · rw [cleared.mask, mask, PerCp.get_put_peer]
  · rw [cleared.auth, cleared.zone]
    exact downCleared_other other
  · obtain ⟨auth, zone⟩ := downCleared_holder holds
    have moved := moveAuthority_auth (if (s.auth.presence.get c.peer).isLive then some c.peer else none)
      .linkLost (setPresence c .absent s)
    have first : (setPresence c .absent s).auth
        = { s.auth with presence := s.auth.presence.put c .absent } := setPresence_auth c .absent s
    have zone₀ : (setPresence c .absent s).zone = s.zone := setPresence_zone c .absent s
    have time₀ : (setPresence c .absent s).time = s.time := setPresence_time c .absent s
    have epoch₀ : (setPresence c .absent s).auth.epoch = s.auth.epoch := by rw [first]
    have departed₀ : (setPresence c .absent s).auth.departed = s.auth.departed := by rw [first]
    have holds₀ : (setPresence c .absent s).auth.holder = some c := by rw [first]; exact holds
    refine ⟨?_, ?_, ?_, ?_, ?_, ⟨_, presenceDown_holder holds, ?_⟩, fun noTxn => ⟨fun own => ?_,
      fun i txn owner => ?_⟩, fun d x i e t held prior => ?_⟩
    · rw [cleared.auth, auth, moved]
    · rw [cleared.auth, auth, moved, first]
    · rw [cleared.auth, auth, moved]
    · rw [cleared.auth, auth, moved, time₀]
    · rw [cleared.auth, auth, moved]
    · rw [cleared.auth]
      exact handCondition_auth _ _ _
    · rw [cleared.auth, cleared.zone, auth, zone]
      obtain ⟨record, kept⟩ := moveAuthority_involuntary (k := .linkLost) (by rw [departed₀]; exact noTxn) holds₀
        rfl (by rw [zone₀]; exact own)
      rw [epoch₀, time₀] at record
      exact ⟨record, kept.trans zone₀⟩
    · rw [cleared.auth, cleared.zone, auth, zone]
      obtain ⟨record, kept⟩ := moveAuthority_opened (k := .linkLost) (by rw [departed₀]; exact noTxn) holds₀
        (by rw [zone₀]; exact txn) owner
      rw [epoch₀, time₀, zone₀] at record
      rw [zone₀] at kept
      exact ⟨record, kept⟩
    · rw [cleared.auth, cleared.zone, auth, zone]
      have ne : (setPresence c .absent s).auth.holder ≠ some d.prior := by
        rw [holds₀, prior]
        exact fun h => Cp.peer_ne c (Option.some.inj h).symm
      obtain ⟨resolved, record⟩ := moveAuthority_held (h := if (s.auth.presence.get c.peer).isLive then
        some c.peer else none) (k := .linkLost) (by rw [departed₀]; exact e) t (by rw [zone₀]; exact held) ne
      have fresh := record c holds₀
      rw [epoch₀, time₀] at fresh
      rw [epoch₀, time₀, zone₀, prior] at resolved
      refine ⟨fresh, fun live => ?_, fun dead => ?_⟩
      · rw [resolved, live]
        exact if_pos rfl
      · rw [resolved, dead]
        exact if_neg nofun
  · rw [cleared.auth, handover]
  · rw [cleared.maint, downCleared_maint]

end Sys2Proof.Machine
end


-- ==== Sys2Proof/Proofs/AuthorityRequests.lean ====
section
/-! SUPPORT. The requests on authority, the departed record and the handover words, and the expiry of
deadlines. -/

namespace Sys2Proof.Machine

/-! ### CLAIM AUTHORITY, TAKE OVER, YIELD AUTHORITY (O16) -/

/-- The results of CLAIM AUTHORITY. -/
def claimResults (s : State) : List Byte :=
  encHolder s.auth.holder ++ u32 s.auth.epoch ++ encCause s.auth.cause ++ yes s.auth.departed.isSome

/-- The results of TAKE OVER and YIELD AUTHORITY. -/
def holdResults (s : State) : List Byte :=
  encHolder s.auth.holder ++ u32 s.auth.epoch ++ yes s.auth.departed.isSome

theorem claimAuthority_stale {c : Cp} {e : BitVec 32} {s : State} (h : e ≠ s.auth.epoch) :
    claimAuthority c e s = (s, .reply .stale (claimResults s)) := if_pos h

theorem claimAuthority_current {c : Cp} {e : BitVec 32} {s : State} (h : e = s.auth.epoch) :
    claimAuthority c e s =
      match s.auth.holder with
      | none => (changeHolder (some c) .claimed s, .reply .done (claimResults (changeHolder (some c) .claimed s)))
      | some x =>
        if x = c then (s, .reply .done (claimResults s))
        else if (s.auth.presence.get x).isLive then (s, .reply .heldByPeer (claimResults s))
        else (changeHolder (some c) .claimOverSilent s,
          .reply .done (claimResults (changeHolder (some c) .claimOverSilent s))) := by
  unfold claimAuthority
  exact if_neg (not_not.2 h)

theorem claimAuthority_free {c : Cp} {e : BitVec 32} {s : State} (h : e = s.auth.epoch)
    (none : s.auth.holder = none) : claimAuthority c e s =
      (changeHolder (some c) .claimed s, .reply .done (claimResults (changeHolder (some c) .claimed s))) := by
  rw [claimAuthority_current h, none]

theorem claimAuthority_own {c : Cp} {e : BitVec 32} {s : State} (h : e = s.auth.epoch)
    (own : s.auth.holder = some c) : claimAuthority c e s = (s, .reply .done (claimResults s)) := by
  rw [claimAuthority_current h, own]
  exact if_pos rfl

theorem claimAuthority_live {c : Cp} {e : BitVec 32} {d : Time} {s : State} (h : e = s.auth.epoch)
    (peer : s.auth.holder = some c.peer) (live : s.auth.presence.get c.peer = .live d) :
    claimAuthority c e s = (s, .reply .heldByPeer (claimResults s)) := by
  rw [claimAuthority_current h, peer]
  dsimp only
  rw [if_neg (Cp.peer_ne c), live]
  rfl

theorem claimAuthority_silent {c : Cp} {e : BitVec 32} {s : State} (h : e = s.auth.epoch)
    (peer : s.auth.holder = some c.peer) (silent : s.auth.presence.get c.peer = .silent) :
    claimAuthority c e s = (changeHolder (some c) .claimOverSilent s,
      .reply .done (claimResults (changeHolder (some c) .claimOverSilent s))) := by
  rw [claimAuthority_current h, peer]
  dsimp only
  rw [if_neg (Cp.peer_ne c), silent]
  rfl

theorem takeOver_stale {c : Cp} {e : BitVec 32} {s : State} (h : e ≠ s.auth.epoch) :
    takeOver c e s = (s, .reply .stale (holdResults s)) := if_pos h

theorem takeOver_own {c : Cp} {e : BitVec 32} {s : State} (h : e = s.auth.epoch)
    (own : s.auth.holder = some c) : takeOver c e s = (s, .reply .done (holdResults s)) := by
  unfold takeOver
  exact (if_neg (not_not.2 h)).trans (if_pos (by simp [State.isHolder, own]))

theorem takeOver_state {c : Cp} {e : BitVec 32} {s : State} (h : e = s.auth.epoch)
    (other : s.auth.holder ≠ some c)
    (not : s.auth.holder = some c.peer → (s.auth.presence.get c.peer).isLive = false) :
    takeOver c e s = (s, .reply .state (holdResults s)) := by
  unfold takeOver
  refine (if_neg (not_not.2 h)).trans ((if_neg (by simp [State.isHolder, other])).trans (if_neg ?_))
  by_cases peer : s.auth.holder = some c.peer
  · simp [not peer]
  · simp [State.isHolder, peer]

theorem takeOver_live {c : Cp} {e : BitVec 32} {d : Time} {s : State} (h : e = s.auth.epoch)
    (peer : s.auth.holder = some c.peer) (live : s.auth.presence.get c.peer = .live d) :
    takeOver c e s = (changeHolder (some c) .forced s,
      .reply .done (holdResults (changeHolder (some c) .forced s))) := by
  have other : s.isHolder c = false := by
    simp [State.isHolder, peer, Cp.peer_ne c]
  have may : (s.isHolder c.peer && (s.auth.presence.get c.peer).isLive) = true := by
    simp [State.isHolder, peer, live, Presence.isLive]
  unfold takeOver
  exact (if_neg (not_not.2 h)).trans ((if_neg (by simp [other])).trans (if_pos may))

/-- Settles O16, by the order in which each request is judged. -/
theorem authorityRequestsAreJudged : Obligations.AuthorityRequestsAreJudged := by
  unfold Obligations.AuthorityRequestsAreJudged
  intro c tag e d s ready
  have claim {u : State} {o : OutcomeCode} {bs : List Byte}
      (served : claimAuthority c e (s.heard c) = (u, .reply o bs)) :
      exec (.claimAuthority c tag e) s = .next (arbitrate (u.answered c tag 0x02 o bs)) :=
    exec_anyCp (r := .claimAuthority e) ready rfl rfl served
  have take {u : State} {o : OutcomeCode} {bs : List Byte}
      (served : takeOver c e (s.heard c) = (u, .reply o bs)) :
      exec (.takeOver c tag e) s = .next (arbitrate (u.answered c tag 0x04 o bs)) :=
    exec_anyCp (r := .takeOver e) ready rfl rfl served
  refine ⟨fun stale => ⟨?_, ?_⟩, fun now none => ⟨?_, ?_⟩, fun now own => ⟨?_, ?_⟩,
    fun now peer live => ⟨?_, ?_⟩, fun now peer silent => ⟨?_, ?_⟩, ?_⟩
  · exact claim (claimAuthority_stale (s := s.heard c) stale)
  · exact take (takeOver_stale (s := s.heard c) stale)
  · exact claim (claimAuthority_free (s := s.heard c) now none)
  · exact take (takeOver_state (s := s.heard c) now (fun h => nomatch none.symm.trans h)
      (fun h => nomatch none.symm.trans h))
  · exact claim (claimAuthority_own (s := s.heard c) now own)
  · exact take (takeOver_own (s := s.heard c) now own)
  · exact claim (claimAuthority_live (s := s.heard c) now peer live)
  · exact take (takeOver_live (s := s.heard c) now peer live)
  · exact claim (claimAuthority_silent (s := s.heard c) now peer silent)
  · exact take (takeOver_state (s := s.heard c) now
      (fun h => Cp.peer_ne c (Option.some.inj (peer.symm.trans h)))
      (fun _ => (congrArg Presence.isLive silent).trans rfl))
  · rintro t holds rfl
    exact exec_holder (r := .yieldAuthority) ready holds rfl rfl

/-! ### Deadlines (O17) -/

theorem fallSilent_auth (c : Cp) (s : State) :
    (fallSilent c s).auth = { s.auth with presence := s.auth.presence.put c .silent } := by
  simp [fallSilent, handPeer]

theorem peerExpiry_reached {c : Cp} {s : State} (past : deadlineReached c s = true)
    (other : s.auth.holder ≠ some c) : peerExpiry c s = fallSilent c s := by
  unfold peerExpiry
  exact if_pos (by simp [past, State.isHolder, other])

theorem peerExpiry_early {c : Cp} {s : State} (early : deadlineReached c s = false) : peerExpiry c s = s := by
  unfold peerExpiry
  exact if_neg (by simp [early])

theorem holderExpiry_reached {c : Cp} {s : State} (past : deadlineReached c s = true)
    (holds : s.auth.holder = some c) : holderExpiry s =
      if s.straps.takeover then
        changeHolder (successor (fallSilent c s).auth c) .heartbeatExpiry (fallSilent c s)
      else fallSilent c s := by
  unfold holderExpiry
  rw [holds]
  exact if_pos past

theorem holderExpiry_early {c : Cp} {s : State} (early : deadlineReached c s = false)
    (holds : s.auth.holder = some c) : holderExpiry s = s := by
  unfold holderExpiry
  rw [holds]
  exact if_neg (by simp [early])

theorem successor_fallSilent (c : Cp) (s : State) : successor (fallSilent c s).auth c
    = if (s.auth.presence.get c.peer).isLive then some c.peer else none := by
  unfold successor
  rw [fallSilent_auth]
  simp

/-- The expiry that is due for a CP, by whether it holds authority. -/
def expiryOf (s : State) (c : Cp) : Instr :=
  if s.auth.holder = some c then .heartbeatExpiry else .peerDeadlineExpiry c

/-- What the expiry of a CP's deadline does. -/
def expire (c : Cp) (s : State) : State :=
  if s.auth.holder = some c then holderExpiry s else peerExpiry c s

theorem exec_expiryOf (c : Cp) (s : State) : exec (expiryOf s c) s = .next (arbitrate (expire c s)) := by
  unfold expiryOf expire
  split <;> rfl

theorem expire_early {c : Cp} {s : State} (early : deadlineReached c s = false) : expire c s = s := by
  unfold expire
  split
  · exact holderExpiry_early early ‹_›
  · exact peerExpiry_early early

theorem expire_silent {c : Cp} {s : State} (past : deadlineReached c s = true) :
    (expire c s).auth.presence.get c = .silent := by
  have silent : (fallSilent c s).auth.presence.get c = .silent := by
    rw [fallSilent_auth]
    exact PerCp.get_put_self _ _ _
  unfold expire
  split
  · rename_i holds
    rw [holderExpiry_reached past holds]
    split
    · rw [changeHolder_presence]
      exact silent
    · exact silent
  · rename_i other
    rw [peerExpiry_reached past other]
    exact silent

theorem expire_kept (c : Cp) (s : State) :
    (expire c s).link = s.link ∧ (expire c s).time = s.time ∧ (expire c s).straps = s.straps := by
  have kept : Kept s (expire c s) := by
    unfold expire
    split
    · exact (moves_holderExpiry (.refl (o := false) s)).kept
    · exact (moves_peerExpiry c (.refl (o := false) s)).kept
  exact ⟨kept.link, kept.time, kept.straps⟩

/-- A HEARTBEAT on an UP link, as one state. -/
def heartbeatState (c : Cp) (tag : BitVec 4) (s : State) : State :=
  arbitrate (handleFrame c ⟨tag, 0x01, []⟩ s)

theorem heartbeatState_auth {c : Cp} {tag : BitVec 4} {s : State} (up : (s.link.get c).up = true)
    (released : (s.link.get c).resetHeld = false) : (heartbeatState c tag s).auth =
      { s.auth with presence := s.auth.presence.put c (.live (timeAfter s.time s.straps.period.ms)) } := by
  unfold heartbeatState
  rw [handleFrame_heartbeat released, linkUp_heard up, arbitrate_auth]
  exact takeHeartbeat_auth c (s.heard c)

theorem heartbeatState_time {c : Cp} {tag : BitVec 4} {s : State} (up : (s.link.get c).up = true)
    (released : (s.link.get c).resetHeld = false) : (heartbeatState c tag s).time = s.time := by
  unfold heartbeatState
  rw [handleFrame_heartbeat released, linkUp_heard up, arbitrate_time]
  simp [State.answeredAtOnce, takeHeartbeat, handPeer, State.heard]

theorem expiryOf_congr {s t : State} {c : Cp} (h : t.auth.holder = s.auth.holder) :
    expiryOf t c = expiryOf s c := by
  unfold expiryOf
  rw [h]

/-- Settles O17: a HEARTBEAT renews the deadline, so that no expiry follows; an expiry ends with the CP SILENT. -/
theorem deadlinesExpire : Obligations.DeadlinesExpire := by
  unfold Obligations.DeadlinesExpire
  rintro c d s v live rfl
  have due := deadlineReached_live live
  refine ⟨fun past other => ?_, fun past holds off => ?_, fun past holds on => ?_, fun early => ?_,
    fun tag up released => ⟨⟨heartbeatState c tag s, rfl, ?_, ?_⟩, fun past =>
      ⟨_, heartbeatState c tag (arbitrate (expire c s)), exec_expiryOf c s, ?_, rfl, ?_⟩⟩⟩
  · show Host.Outcome.next (arbitrate (peerExpiry c s)) = _
    rw [peerExpiry_reached (due.trans past) other]
    rfl
  · show Host.Outcome.next (arbitrate (holderExpiry s)) = _
    rw [holderExpiry_reached (due.trans past) holds, if_neg (by simp [off])]
    rfl
  · show Host.Outcome.next (arbitrate (holderExpiry s)) = _
    rw [holderExpiry_reached (due.trans past) holds, if_pos on, successor_fallSilent]
    rfl
  · show exec (expiryOf s c) s = _
    rw [exec_expiryOf, expire_early (due.trans early)]
  · rw [heartbeatState_auth up released]
    exact PerCp.get_put_self _ _ _
  · have auth := heartbeatState_auth (tag := tag) up released
    have renewed : (heartbeatState c tag s).auth.presence.get c
        = .live (timeAfter s.time s.straps.period.ms) := by
      rw [auth]
      exact PerCp.get_put_self _ _ _
    have early : deadlineReached c (heartbeatState c tag s) = false := by
      rw [deadlineReached_live renewed, heartbeatState_time up released]
      exact not_reached_renewed _ _
    have same : expiryOf s c = expiryOf (heartbeatState c tag s) c :=
      (expiryOf_congr (by rw [auth])).symm
    show exec (expiryOf s c) (heartbeatState c tag s) = _
    rw [same, exec_expiryOf, expire_early early, heartbeatState, arbitrate_arbitrate]
  · rw [arbitrate_auth]
    exact expire_silent (due.trans past)
  · obtain ⟨link, time, straps⟩ := expire_kept c s
    rw [heartbeatState_auth (by rw [arbitrate_link, link]; exact up)
      (by rw [arbitrate_link, link]; exact released), arbitrate_time, arbitrate_straps, time, straps]

/-! ### The departed record (O18) -/

theorem adoptDeparted_none {c : Cp} {s : State} (h : s.auth.departed = none) :
    adoptDeparted c s = (s, .reply .state []) := by
  unfold adoptDeparted
  rw [h]

theorem discardDeparted_none {s : State} (h : s.auth.departed = none) :
    discardDeparted s = (s, .reply .state []) := by
  unfold discardDeparted
  rw [h]

theorem adoptDeparted_noTxn {c : Cp} {s : State} {d : Departed} (h : s.auth.departed = some d)
    (none : d.transaction = none) : adoptDeparted c s = (s.modAuth fun a => { a with departed := .none },
      .reply .done (encCp d.prior ++ u32 d.priorEpoch ++ encCause d.cause ++ u8 0 ++ u8 0 ++ u8 0)) := by
  unfold adoptDeparted
  rw [h]
  dsimp only
  rw [none]
  simp only [encResolved, List.append_assoc]
  rfl

theorem discardDeparted_noTxn {s : State} {d : Departed} (h : s.auth.departed = some d)
    (none : d.transaction = none) : discardDeparted s = (s.modAuth fun a => { a with departed := .none },
      .reply .done (encCp d.prior ++ u32 d.priorEpoch ++ encCause d.cause ++ u8 0)) := by
  unfold discardDeparted
  rw [h]
  dsimp only
  rw [none]
  rfl

theorem adoptDeparted_held {c : Cp} {s : State} {d : Departed} {zones entries : Nat} {i : TxnInfo}
    (h : s.auth.departed = some d) (txn : d.transaction = some (zones, entries)) (held : s.zone.txn = .held i) :
    adoptDeparted c s = ((s.modZone fun z => { z with txn := .opened ⟨c, s.auth.epoch, i.base, s.time⟩ }).modAuth
      fun a => { a with departed := none }, .reply .done (encCp d.prior ++ u32 d.priorEpoch ++ encCause d.cause
        ++ u8 1 ++ (u8 1 ++ u16 zones) ++ (u8 1 ++ u16 entries))) := by
  unfold adoptDeparted
  rw [h]
  dsimp only
  rw [txn, adoptTxn_held held]
  rfl

theorem discardDeparted_held {s : State} {d : Departed} {x : Nat × Nat} {i : TxnInfo}
    (h : s.auth.departed = some d) (txn : d.transaction = some x) (held : s.zone.txn = .held i) :
    discardDeparted s = ((s.modZone fun z => { z with staging := [], txn := .closed }).modAuth
      fun a => { a with departed := none },
      .reply .done (encCp d.prior ++ u32 d.priorEpoch ++ encCause d.cause ++ u8 1)) := by
  unfold discardDeparted
  rw [h]
  dsimp only
  rw [txn, discardTxn_held held]
  rfl

/-- Settles O18, by the record that stands. -/
theorem departedRecordIsResolved : Obligations.DepartedRecordIsResolved := by
  unfold Obligations.DepartedRecordIsResolved
  intro c tag s ready holds
  refine ⟨fun none => ⟨?_, ?_⟩, fun d e none => ⟨?_, ?_⟩, fun d zones entries i e txn held => ⟨?_, ?_⟩⟩
  · exact exec_holder (r := .adoptDeparted) ready holds rfl (adoptDeparted_none (s := s.heard c) none)
  · exact exec_holder (r := .discardDeparted) ready holds rfl (discardDeparted_none (s := s.heard c) none)
  · exact exec_holder (r := .adoptDeparted) ready holds rfl (adoptDeparted_noTxn (s := s.heard c) e none)
  · exact exec_holder (r := .discardDeparted) ready holds rfl (discardDeparted_noTxn (s := s.heard c) e none)
  · exact exec_holder (r := .adoptDeparted) ready holds rfl (adoptDeparted_held (s := s.heard c) e txn held)
  · exact exec_holder (r := .discardDeparted) ready holds rfl (discardDeparted_held (s := s.heard c) e txn held)

/-! ### Handover words (O19) -/

/-- The words from an index onward are replaced, and no others. -/
theorem putWords_get (ws : List (BitVec 32)) (v : Vector (BitVec 32) 16) (first : Nat) (k : Fin 16) :
    (putWords v first ws).get k
      = if first ≤ k.val ∧ k.val < first + ws.length then ws.getD (k.val - first) 0 else v.get k := by
  induction ws generalizing v first with
  | nil =>
    rw [if_neg (by simp)]
    rfl
  | cons w ws ih =>
    rw [putWords, ih]
    by_cases at' : k.val = first
    · rw [if_neg (by omega), if_pos (by simp [at'])]
      simp [Vector.get_eq_getElem, at']
    · by_cases later : first + 1 ≤ k.val ∧ k.val < first + 1 + ws.length
      · rw [if_pos later, if_pos (by simp only [List.length_cons]; omega)]
        have index : k.val - first = (k.val - (first + 1)) + 1 := by omega
        rw [index, List.getD_cons_succ]
      · rw [if_neg later, if_neg (by simp only [List.length_cons]; omega)]
        simp [Vector.get_eq_getElem, Ne.symm at']

theorem writeHandover_badParam {c : Cp} {first count : Byte} {ws : List (BitVec 32)} {s : State}
    (bad : count.toNat = 0 ∨ 16 < first.toNat + count.toNat) :
    writeHandover c first count ws s = (s, .reply .badParam (yes (isFrozen s.auth c))) := if_pos bad

theorem writeHandover_frozen {c : Cp} {first count : Byte} {ws : List (BitVec 32)} {s : State}
    (good : ¬ (count.toNat = 0 ∨ 16 < first.toNat + count.toNat)) (frozen : isFrozen s.auth c = true) :
    writeHandover c first count ws s = (s, .reply .frozen (yes true)) := by
  unfold writeHandover
  rw [frozen]
  exact (if_neg good).trans (if_pos rfl)

theorem writeHandover_done {c : Cp} {first count : Byte} {ws : List (BitVec 32)} {s : State}
    (good : ¬ (count.toNat = 0 ∨ 16 < first.toNat + count.toNat)) (free : isFrozen s.auth c = false) :
    writeHandover c first count ws s = (s.modAuth fun a =>
      { a with handover := a.handover.put c (putWords (s.auth.handover.get c) first.toNat ws) },
      .reply .done (yes false)) := by
  unfold writeHandover
  rw [free]
  exact (if_neg good).trans (if_neg nofun)

theorem readHandover_named {target first count : Byte} {x : Cp} {s : State} (h : cpOf target = some x) :
    readHandover target first count s =
      if count.toNat = 0 ∨ 16 < first.toNat + count.toNat then (s, .reply .badParam (yes (isFrozen s.auth x)))
      else (s, .reply .done (encList u32
        (((s.auth.handover.get x).toList.drop first.toNat).take count.toNat) ++ yes (isFrozen s.auth x))) := by
  unfold readHandover
  rw [h]

/-- Settles O19; the words of a request that fits are as many as its count. -/
theorem handoverWordsAreKept : Obligations.HandoverWordsAreKept := by
  unfold Obligations.HandoverWordsAreKept
  intro c x tag target first count words s ready
  have written {u : State} {o : OutcomeCode} {bs : List Byte} (fits : handoverFits count words = true)
      (served : writeHandover c first count words (s.heard c) = (u, .reply o bs)) :
      exec (.writeHandover c tag first count words) s = .next (arbitrate (u.answered c tag 0x08 o bs)) :=
    exec_anyCp (r := .writeHandover first count words) ready rfl fits served
  have read {u : State} {o : OutcomeCode} {bs : List Byte}
      (served : readHandover target first count (s.heard c) = (u, .reply o bs)) :
      exec (.readHandover c tag target first count) s = .next (arbitrate (u.answered c tag 0x09 o bs)) :=
    exec_anyCp (r := .readHandover target first count) ready rfl rfl served
  refine ⟨fun fits bad => ?_, fun fits good frozen => ?_, fun fits good free => ?_, fun none => ?_,
    fun some bad => ?_, fun some good => ?_⟩
  · exact written fits (writeHandover_badParam (s := s.heard c) bad)
  · exact written fits (writeHandover_frozen (s := s.heard c) good frozen)
  · refine ⟨putWords (s.auth.handover.get c) first.toNat words,
      written fits (writeHandover_done (s := s.heard c) good free), fun k => ?_⟩
    have count : words.length = count.toNat := by
      simp only [handoverFits, Bool.and_eq_true, decide_eq_true_eq] at fits
      exact fits.1
    rw [putWords_get, count]
  · exact read (by
      unfold readHandover
      rw [none])
  · exact read ((readHandover_named (s := s.heard c) some).trans (if_pos bad))
  · have length : (((s.auth.handover.get x).toList.drop first.toNat).take count.toNat).length = count.toNat := by
      simp
      omega
    refine read ((readHandover_named (s := s.heard c) some).trans ((if_neg good).trans ?_))
    unfold encList
    show (_, Took.reply _ (u8 (((s.auth.handover.get x).toList.drop first.toNat).take count.toNat).length
      ++ _ ++ _)) = _
    rw [length]
    rfl

end Sys2Proof.Machine
end


-- ==== Sys2Proof/Proofs/Reads.lean ====
section
/-! SUPPORT. The requests that only read, and the bytes of their results: fields that may be absent, one row of
each table, and lists. -/

namespace Sys2Proof.Machine

/-- A read that completes when it is taken. -/
theorem exec_read {c : Cp} {tag : BitVec 4} {r : Request} {s : State} {o : OutcomeCode} {bs bs' : List Byte}
    (ready : Ready c s) (any : r.holderOnly = false) (fits : r.fits = true)
    (served : serveRequest c r (s.heard c) = (s.heard c, .reply o bs)) (bytes : bs = bs') :
    exec (r.command c tag) s = .next (arbitrate ((s.heard c).answered c tag r.code o bs')) :=
  exec_anyCp ready any fits (bytes ▸ served)

theorem opt_map {α β : Type} (f : β → List Byte) (g : α → β) (x : Option α) :
    opt f (x.map g) = opt (fun a => f (g a)) x := by cases x <;> rfl

/-! ### The authority record (R15) -/

theorem encDeadline_eq (p : Presence) : encDeadline p = match p with
    | .live d => encTime d
    | _ => encTime 0 := by cases p <;> rfl

/-- The departed record, or as many absent fields (R15). -/
theorem encRecord_bytes (x : Option Departed) : yes x.isSome ++ encRecord x =
    match x with
    | none => yes false ++ List.replicate 8 0
    | some d =>
      yes true ++ (u8 1 ++ encCp d.prior) ++ (u8 1 ++ u32 d.priorEpoch) ++ (u8 1 ++ encCause d.cause)
        ++ (u8 1 ++ encTime d.time) ++ (u8 1 ++ encPresent d.transaction.isSome)
        ++ opt u16 (d.transaction.map Prod.fst) ++ opt u16 (d.transaction.map Prod.snd)
        ++ (u8 1 ++ yes d.frozen) := by
  cases x with
  | none => rfl
  | some d =>
    simp only [encRecord, opt, Option.bind_some, Option.isSome_some, List.append_assoc]
    cases d.transaction <;> rfl

/-! ### Supplies and trays (R66, R67) -/

theorem encSupply_bytes (b : Bay) (r : Supply) : encSupply b r =
    u8 (if b.val < 2 then 1 else 2) ++ encSupplyState r.state
      ++ opt u16 (r.identity.map SupplyIdentity.rated) ++ opt encInput (r.identity.map SupplyIdentity.input)
      ++ u16 r.usable ++ yes (r.state = .failed) ++ yes (r.state = .off) := by
  rw [opt_map, opt_map]
  rfl

theorem flatMap_bays (f : Bay → List Byte) : (List.finRange 4).flatMap f = f 0 ++ f 1 ++ f 2 ++ f 3 := by
  simp [List.finRange_succ]

theorem encRotor_bytes (x : TrayRec) (duty : Nat) (r : RotorRec) : encRotor x duty r =
    (match r.fit with
      | .none => u8 0 ++ u8 0
      | .notFitted => u8 1 ++ yes false ++ u8 0
      | .good => u8 1 ++ yes true ++ (u8 1 ++ u8 1)
      | .failed => u8 1 ++ yes true ++ (u8 1 ++ u8 2))
      ++ u16 r.measured ++ opt (fun m => u16 (m * duty / 100)) x.maximum ++ u8 r.low ++ u8 r.goodRun := by
  unfold encRotor
  cases r.fit <;> rfl

/-! ### The power budget (R92, R93) -/

theorem budgetTight_eq (p : Power) : budgetTight p = (p.slots.toList.any (fun r => r.power.isDenied)
    || p.ports.toList.any PortPower.isHeld || p.gridLost) := by
  have slots : (fun r : SlotRec => match r.power with | .denied _ => true | _ => false)
      = fun r => r.power.isDenied := by
    funext r
    cases r.power <;> rfl
  have ports : (fun x : PortPower => match x with | .held _ => true | _ => false) = PortPower.isHeld := by
    funext x
    cases x <;> rfl
  exact congrArg₂ (fun f g => p.slots.toList.any f || p.ports.toList.any g || p.gridLost) slots ports

theorem slotDraw_bytes (p : Power) (i : Slot) : slotDraw p i =
    if (p.slots.get i).power.drawing then
      (match (p.slots.get i).card with
        | none => 0
        | some x => x.base) + ((slotPart p.ports i).map PortPower.draw).sum
    else 0 := by
  unfold slotDraw SlotRec.base
  rfl

theorem encCard_bytes (card : Option Card) :
    encPresent card.isSome ++ opt (fun x : Card => [x.kind]) card ++ opt (fun x : Card => u16 x.base) card
      ++ opt (fun x : Card => u8 x.ports) card =
    match card with
    | none => u8 2 ++ u8 0 ++ u8 0 ++ u8 0
    | some x => u8 1 ++ (u8 1 ++ [x.kind]) ++ (u8 1 ++ u16 x.base) ++ (u8 1 ++ u8 x.ports) := by
  cases card <;> rfl

theorem denialOf_eq (p : SlotPower) : denialOf p = match p with
    | .denied x => some x
    | _ => none := by cases p <;> rfl

theorem deadlineOf_eq (p : SlotPower) : deadlineOf p = match p with
    | .powering d => some d
    | _ => none := by cases p <;> rfl

/-! ### Port licenses (R116, R117) -/

theorem licenseState_granted {l : License} {p : Port} {g : Grant} (h : grantOf l p = some g) :
    licenseState l p = .granted g.cls := by
  unfold licenseState
  rw [h]

theorem licenseState_ungranted {l : License} {p : Port} (h : grantOf l p = none) :
    licenseState l p = if p ∈ l.waiting then .waiting else .none := by
  unfold licenseState
  rw [h]
  simp

theorem encLicense_bytes (l : License) (p : Port) : encLicense (licenseState l p)
    = u8 (if (grantOf l p).isSome then 2 else if p ∈ l.waiting then 1 else 0) := by
  cases h : grantOf l p with
  | some g =>
    rw [licenseState_granted h]
    rfl
  | none =>
    rw [licenseState_ungranted h]
    by_cases w : p ∈ l.waiting <;> simp [w, encLicense]

theorem grantedClass_eq (l : License) (p : Port) :
    grantedClass (licenseState l p) = (grantOf l p).map Grant.cls := by
  cases h : grantOf l p with
  | some g =>
    rw [licenseState_granted h]
    rfl
  | none =>
    rw [licenseState_ungranted h]
    split <;> rfl

theorem positionOf_eq (l : License) (p : Port) : positionOf l p =
    if ((grantOf l p).map Grant.cls).isSome then l.grants.findIdx? fun g => g.port = p
    else if p ∈ l.waiting then l.waiting.findIdx? fun x => x = p else none := by
  unfold positionOf
  cases h : grantOf l p with
  | some g =>
    rw [licenseState_granted h]
    rfl
  | none =>
    rw [licenseState_ungranted h]
    by_cases w : p ∈ l.waiting <;> simp [w]

theorem grantedAt_eq (l : License) (k : PortClass) :
    grantedAt l k = (l.grants.filter fun g => g.cls = k).length := List.countP_eq_length_filter

theorem groupOf_some {b : Byte} {g : Fin 32} (h : b.toNat = g.val) : groupOf b = some g := by
  unfold groupOf
  rw [dif_pos (by omega)]
  exact congrArg some (Fin.ext h)

theorem groupOf_none {b : Byte} (h : 31 < b.toNat) : groupOf b = none := dif_neg (by omega)

/-- The head of the queue, its requested class and its effective weight, each absent with no port waiting
(R117). -/
theorem encHead_bytes (l : License) :
    opt encPort l.waiting.head? ++ opt (fun p : Port => encClass (l.ports.get p).requested) l.waiting.head?
      ++ opt u8 (headWeight l) ++ yes (!l.waiting.isEmpty) =
    match l.waiting with
    | [] => u8 0 ++ u8 0 ++ u8 0 ++ yes false
    | q :: _ =>
      (u8 1 ++ u8 q.val) ++ (u8 1 ++ encClass (l.ports.get q).requested)
        ++ opt (fun x : PortClass => u8 x.code) ((ceilingOf l).map (l.ports.get q).requested.smaller)
        ++ yes true := by
  cases h : l.waiting with
  | nil =>
    simp only [headWeight, h]
    rfl
  | cons q rest =>
    have weight : headWeight l
        = ((ceilingOf l).map (l.ports.get q).requested.smaller).map PortClass.weight := by
      unfold headWeight
      rw [h]
      rfl
    rw [weight, opt_map]
    rfl

theorem encHead_after (l : License) (pre : List Byte) :
    pre ++ opt encPort l.waiting.head? ++ opt (fun p : Port => encClass (l.ports.get p).requested) l.waiting.head?
      ++ opt u8 (headWeight l) ++ yes (!l.waiting.isEmpty) = pre ++
    match l.waiting with
    | [] => u8 0 ++ u8 0 ++ u8 0 ++ yes false
    | q :: _ =>
      (u8 1 ++ u8 q.val) ++ (u8 1 ++ encClass (l.ports.get q).requested)
        ++ opt (fun x : PortClass => u8 x.code) ((ceilingOf l).map (l.ports.get q).requested.smaller)
        ++ yes true := by
  have head := congrArg (pre ++ ·) (encHead_bytes l)
  simp only [List.append_assoc] at head ⊢
  exact head

/-! ### The alarm table (R181) -/

theorem encService_bytes (s : State) (c : Cp) : encService s c =
    (s.alarm.mask.get c).toList.flatMap yes ++ yes (s.alarm.attn.get c) ++ u8 (s.alarm.stack.get c).length
      ++ (s.alarm.stack.get c).reverse.flatMap fun e => u8 e.level ++ u8 e.cls.number ++ u16 e.number := by
  unfold encService encList
  rw [List.length_reverse]
  simp only [List.append_assoc]
  rfl

theorem standingOfClass_condition (a : Alarm) {k : AlarmClass} (kind : k.kind = .condition) :
    standingOfClass a k = (a.conds.filter fun r => r.cls = k && (r.condition || r.forced)).length := by
  unfold standingOfClass
  rw [kind]
  refine congrArg List.length (List.filter_congr fun r _ => ?_)
  simp [CondRow.active]

theorem standingOfClass_event (a : Alarm) {k : AlarmClass} (kind : k.kind = .event) :
    standingOfClass a k = (a.events.filter fun r => r.cls = k && (r.latch.a || r.latch.b || r.latchH)).length := by
  unfold standingOfClass
  rw [kind]
  refine congrArg List.length (List.filter_congr fun r _ => ?_)
  simp [EventRow.latched]

theorem encRow_condition {s : State} {k : AlarmClass} {n : Nat} {r : CondRow} (kind : k.kind = .condition)
    (row : condRow? s.alarm k n = some r) : encRow s k n =
      yes r.condition ++ yes r.forced ++ yes (r.condition || r.forced) ++ yes r.seen.a ++ yes r.seen.b
        ++ encTime r.changed ++ yes (condEligible s .a r) ++ yes (condEligible s .b r) := by
  unfold encRow
  rw [kind]
  dsimp only
  rw [row]
  rfl

theorem encRow_event {s : State} {k : AlarmClass} {n : Nat} {r : EventRow} (kind : k.kind = .event)
    (row : eventRow? s.alarm k n = some r) : encRow s k n =
      yes r.latch.a ++ yes r.latch.b ++ yes r.latchH ++ encTime r.last ++ yes r.injected
        ++ yes (eventEligible s .a r) ++ yes (eventEligible s .b r) := by
  unfold encRow
  rw [kind]
  dsimp only
  rw [row]

theorem readAlarm_row {b : Byte} {n : BitVec 16} {k : AlarmClass} (s : State) (named : b.toNat = k.number)
    (inRange : 1 ≤ n.toNat ∧ n.toNat ≤ k.count) : readAlarm b n s = (s, .reply .done
      (encAlarmKind k.kind ++ u16 k.count ++ u8 (classEntry s.alarm k).level
        ++ encRoute (classEntry s.alarm k).route ++ yes ((s.alarm.mask.get .a).get k.index)
        ++ yes ((s.alarm.mask.get .b).get k.index) ++ encRow s k n.toNat
        ++ u16 (standingOfClass s.alarm k))) := by
  unfold readAlarm
  rw [if_neg (by rw [named]; exact k.number_pos), alarmRef_some named inRange]

theorem readAlarm_refused {b : Byte} {n : BitVec 16} (s : State) (class' : b.toNat ≠ 0)
    (none : alarmRef b n = none) : readAlarm b n s = (s, .reply .badParam []) := by
  unfold readAlarm
  rw [if_neg class', none]

/-- Settles O20, read by read. -/
theorem readsLeaveTheRecords : Obligations.ReadsLeaveTheRecords := by
  unfold Obligations.ReadsLeaveTheRecords
  intro c tag b n s ready
  refine ⟨?_, ?_, fun y named => ?_, fun bad => ?_, ?_, ?_, fun i named => ?_, fun bad => ?_,
    fun g named => ?_, fun bad => ?_, ?_, fun zero => ?_, fun k named => ⟨fun outside => ?_,
    fun one most => ⟨⟨_, exec_read (r := .readAlarm b n) ready rfl rfl
      (readAlarm_row _ named ⟨one, most⟩) rfl⟩, fun r kind row => ?_, fun r kind row => ?_⟩⟩, fun bad => ?_⟩
  · refine exec_read (r := .readAuthority) ready rfl rfl rfl ?_
    rw [List.append_assoc _ (encDeparted _)]
    exact congrArg₂ (· ++ ·) (by rw [encDeadline_eq, encDeadline_eq]; rfl) (encRecord_bytes s.auth.departed)
  · refine exec_read (r := .readSupply) ready rfl rfl rfl ?_
    rw [flatMap_bays, encSupply_bytes, encSupply_bytes, encSupply_bytes, encSupply_bytes]
    rfl
  · refine exec_read (r := .readTray b) ready rfl rfl (by
      simp only [serveRequest, readTray, trayOf_some named]; rfl) ?_
    rw [show encRotor _ _ = _ from funext (encRotor_bytes ((s.heard c).cool.trays.get y) (s.heard c).cool.duty)]
    rfl
  · exact exec_read (r := .readTray b) ready rfl rfl (by
      simp only [serveRequest, readTray, trayOf_none bad]) rfl
  · exact exec_read (r := .readTemperature) ready rfl rfl rfl rfl
  · refine exec_read (r := .readBudget) ready rfl rfl rfl ?_
    rw [budgetTight_eq]
    rfl
  · refine exec_read (r := .readSlot b) ready rfl rfl (by
      simp only [serveRequest, readSlot, slotOf_some named]; rfl) ?_
    rw [encCard_bytes, denialOf_eq, deadlineOf_eq, slotDraw_bytes]
    rfl
  · exact exec_read (r := .readSlot b) ready rfl rfl (by
      simp only [serveRequest, readSlot, slotOf_none bad]) rfl
  · refine exec_read (r := .readPortGroup b) ready rfl rfl (by
      simp only [serveRequest, readPortGroup, groupOf_some named]; rfl) ?_
    unfold groupPorts
    rw [List.flatMap_map]
    refine congrArg (List.flatMap · (List.range 8)) (funext fun m => ?_)
    unfold encPortRecord
    dsimp only
    rw [encLicense_bytes, grantedClass_eq, positionOf_eq]
    simp only [Option.isSome_map]
    rfl
  · exact exec_read (r := .readPortGroup b) ready rfl rfl (by
      simp only [serveRequest, readPortGroup, groupOf_none bad]) rfl
  · refine exec_read (r := .readPool) ready rfl rfl rfl ?_
    rw [encHead_after, grantedAt_eq, grantedAt_eq, grantedAt_eq]
    rfl
  · refine exec_read (r := .readAlarm b n) ready rfl rfl (by
      simp only [serveRequest, readAlarm, if_pos zero]; rfl) ?_
    rw [encService_bytes, encService_bytes]
    rfl
  · exact exec_read (r := .readAlarm b n) ready rfl rfl
      (readAlarm_refused _ (by rw [named]; exact k.number_pos) (alarmRef_outOfRange named (by omega))) rfl
  · refine exec_read (r := .readAlarm b n) ready rfl rfl (readAlarm_row _ named ⟨one, most⟩) ?_
    rw [encRow_condition (s := s.heard c) kind row, standingOfClass_condition _ kind]
    rfl
  · refine exec_read (r := .readAlarm b n) ready rfl rfl (readAlarm_row _ named ⟨one, most⟩) ?_
    rw [encRow_event (s := s.heard c) kind row, standingOfClass_event _ kind]
    rfl
  · exact exec_read (r := .readAlarm b n) ready rfl rfl
      (readAlarm_refused _ (by omega) (alarmRef_noClass (.inr bad))) rfl

end Sys2Proof.Machine
end


-- ==== Sys2Proof/Proofs/TransferReads.lean ====
section
/-! SUPPORT. The data-transfer reads with the bytes of the zone transaction, of the levels and of one zone; the
reads of time and identity; and QUERY REACH, with the reach relation as a statement about zones. -/

namespace Sys2Proof.Machine

/-- A data-transfer read: its response is formed, and it stays in execution (R188). -/
theorem exec_formed {c : Cp} {tag : BitVec 4} {r : Request} {s : State} {o : OutcomeCode} {bs bs' : List Byte}
    (ready : Ready c s) (any : r.holderOnly = false) (fits : r.fits = true)
    (served : serveRequest c r (s.heard c) = (s.heard c, .transfer o bs)) (bytes : bs = bs') :
    exec (r.command c tag) s
      = .next (arbitrate (((s.heard c).answered c tag r.code o bs').inExecution c tag r.code .transfer)) :=
  exec_transfer c tag r s _ o bs' ready fits (by simp [any]) (bytes ▸ served)

/-! ### The zone transaction and the levels -/

/-- Owner, epoch, base and opening time of a transaction that is not CLOSED. -/
def encTxnInfo (i : TxnInfo) : List Byte :=
  (u8 1 ++ encCp i.owner) ++ (u8 1 ++ u32 i.epoch) ++ (u8 1 ++ opt (fun g => u16 g.toNat) i.base)
    ++ (u8 1 ++ encTime i.opened)

theorem encTxn_bytes (t : ZoneTxn) : encTxn t =
    match t with
    | .closed => u8 1 ++ [0, 0, 0, 0]
    | .opened i => u8 2 ++ encTxnInfo i
    | .computing i _ => u8 3 ++ encTxnInfo i
    | .held i => u8 4 ++ encTxnInfo i := by
  unfold encTxn encOwner encTxnInfo
  cases t with
  | closed => rfl
  | opened i => simp only [List.append_assoc]; rfl
  | computing i hold => simp only [List.append_assoc]; rfl
  | held i => simp only [List.append_assoc]; rfl

theorem computingHold_bytes (t : ZoneTxn) : opt yes (computingHold t) =
    match t with
    | .computing _ hold => u8 1 ++ yes hold
    | _ => u8 0 := by cases t <;> rfl

theorem encPending_bytes (z : Zoning) :
    encPresent z.pending.isSome ++ encGeneration (pendingGeneration z) =
    match z.pending with
    | none => u8 2 ++ u16 0
    | some x => u8 1 ++ u16 x.generation.toNat := by
  unfold pendingGeneration
  cases z.pending <;> rfl

/-- A zone as READ ZONE reports it, by its kind. -/
theorem encZone_bytes (z : Zone) (n : Nat) : encZone z n =
    match z.kind with
    | .standard =>
      u8 z.number.val ++ u8 1 ++ u8 z.members.length ++ u8 0
        ++ u8 ((z.members.drop n).take 32).length
        ++ ((z.members.drop n).take 32).flatMap (fun q => u8 q.val ++ u8 0)
    | .peer ps =>
      u8 z.number.val ++ u8 2 ++ u8 z.members.length ++ (u8 1 ++ u8 ps.length)
        ++ u8 ((z.members.drop n).take 32).length
        ++ ((z.members.drop n).take 32).flatMap (fun q => u8 q.val ++ (u8 1 ++ yes (ps.contains q))) := by
  obtain ⟨number, kind, members⟩ := z
  unfold encZone encList
  cases kind <;> exact (List.append_assoc _ _ _).symm

theorem readZone_unnamed {level : Byte} (zone : BitVec 16) (position : Byte) (s : State)
    (h : levelOf level = none) : readZone level zone position s = (s, .reply .badParam []) := by
  unfold readZone
  rw [h]

theorem readZone_outside {level : Byte} {l : ZoneLevel} {zone : BitVec 16} {position : Byte} (s : State)
    (h : levelOf level = some l) (outside : 255 < zone.toNat ∨ 63 < position.toNat) :
    readZone level zone position s = (s, .reply .badParam (encSummary s l)) := by
  unfold readZone
  rw [h]
  exact if_pos outside

theorem readZone_found {level : Byte} {l : ZoneLevel} {zone : BitVec 16} {position : Byte} {z : Zone}
    (s : State) (h : levelOf level = some l) (inside : zone.toNat ≤ 255 ∧ position.toNat ≤ 63)
    (found : (tableOf s.zone l).find? (fun z => zone.toNat ≤ z.number.val) = some z) :
    readZone level zone position s
      = (s, .transfer .done (encSummary s l ++ encZone z position.toNat)) := by
  unfold readZone
  rw [h]
  refine (if_neg (by omega)).trans ?_
  rw [found]

theorem readZone_beyond {level : Byte} {l : ZoneLevel} {zone : BitVec 16} {position : Byte}
    (s : State) (h : levelOf level = some l) (inside : zone.toNat ≤ 255 ∧ position.toNat ≤ 63)
    (below : ∀ z ∈ tableOf s.zone l, z.number.val < zone.toNat) :
    readZone level zone position s = (s, .transfer .notFound (encSummary s l)) := by
  unfold readZone
  rw [h]
  refine (if_neg (by omega)).trans ?_
  have none : (tableOf s.zone l).find? (fun z => decide (zone.toNat ≤ z.number.val)) = .none :=
    List.find?_eq_none.2 fun z mem => by simpa using below z mem
  rw [none]

/-! ### The history ring -/

theorem encWriter_bytes (a : Alarm) : encWriter a =
    match fillingHalf a with
    | none => u8 0 ++ u8 0
    | some h =>
      (u8 1 ++ u8 h.val) ++ (u8 1 ++ u8 (32 * h.val + (halfAt a h).entries.length)) := by
  unfold encWriter
  cases fillingHalf a with
  | none => rfl
  | some h =>
    dsimp only [opt]
    rw [Nat.mul_comm h.val]

theorem readHistory_formed {half first count : Byte} {h : Fin 2} (s : State) (named : half.toNat = h.val)
    (inside : count.toNat ≠ 0 ∧ first.toNat + count.toNat ≤ 32) :
    readHistory half first count s =
      let es := ((halfAt s.alarm h).entries.drop first.toNat).take count.toNat
      (s, .transfer .done (u8 es.length
        ++ (es.zipIdx.flatMap fun p => encEntry (h.val * 32 + first.toNat + p.2) p.1)
        ++ (encHalves s.alarm ++ encWriter s.alarm ++ yes s.alarm.overrun))) := by
  unfold readHistory
  dsimp only
  rw [halfOf_some named]
  exact if_neg (by omega)

theorem readHistory_refused {half first count : Byte} (s : State)
    (bad : 1 < half.toNat ∨ count.toNat = 0 ∨ 32 < first.toNat + count.toNat) :
    readHistory half first count s
      = (s, .reply .badParam (encHalves s.alarm ++ encWriter s.alarm ++ yes s.alarm.overrun)) := by
  unfold readHistory
  dsimp only
  by_cases unnamed : 1 < half.toNat
  · rw [halfOf_none unnamed]
  · rw [halfOf_some (h := ⟨half.toNat, by omega⟩) rfl]
    exact if_pos (by omega)

/-- Settles O21, read by read. -/
theorem transferReadsStayInExecution : Obligations.TransferReadsStayInExecution := by
  unfold Obligations.TransferReadsStayInExecution
  intro c tag level position half first count n s ready forms refuses l z a counts info txn pending table
    summary zone slots slot entry ring
  have txnBytes : encTxn (s.heard c).zone.txn = txn := encTxn_bytes _
  have pendingBytes : encPresent (s.heard c).zone.pending.isSome
      ++ encGeneration (pendingGeneration (s.heard c).zone) = pending := encPending_bytes _
  have tableEq : ∀ x, tableOf (s.heard c).zone x = table x := by
    intro x
    cases x with
    | staging => rfl
    | active => rfl
    | pending =>
      show (match s.zone.pending with | none => [] | some l => l.table)
        = match ZoneLevel.pending, s.zone.pending with
          | .staging, _ => s.zone.staging
          | .pending, some y => y.table
          | .pending, none => []
          | .active, _ => s.zone.active.table
      cases s.zone.pending <;> rfl
  have summaryBytes : ∀ x, encSummary (s.heard c) x = summary x := by
    intro x
    unfold encSummary
    rw [tableEq]
    cases x with
    | staging => exact congrArg _ txnBytes
    | pending => exact congrArg _ pendingBytes
    | active =>
      refine congrArg (counts _ ++ ·) (congrArg (u16 z.active.generation.toNat ++ ·) ?_)
      show opt encZoning (if s.zone.active.generation = 0 then _ else _) = ite (s.zone.active.generation = 0) _ _
      split <;> rfl
  have ringBytes : encHalves (s.heard c).alarm ++ encWriter (s.heard c).alarm
      ++ yes (s.heard c).alarm.overrun = ring := by
    rw [encWriter_bytes]
    rfl
  refine ⟨?_, ?_, fun low => ⟨?_, ?_⟩, fun high => ⟨?_, ?_⟩, fun x named numbered placed =>
    ⟨fun y found => ?_, fun below => ?_⟩, fun unnamed => ?_, fun x named outside => ?_,
    fun h named some_ inside => ?_, fun bad => ?_⟩
  · refine exec_formed (r := .readEntitlements) ready rfl rfl rfl ?_
    unfold encList
    rw [List.length_zipIdx]
    rfl
  · refine exec_formed (r := .readZoneStatus) ready rfl rfl rfl ?_
    rw [List.append_assoc _ (encPresent _), txnBytes, pendingBytes, tableEq, computingHold_bytes]
    rfl
  · exact exec_formed (r := .readGrantList n) ready rfl rfl (by
      simp only [serveRequest, readGrantList, index256_some (n := ⟨n.toNat, by omega⟩) rfl]; rfl) rfl
  · refine exec_formed (r := .readWaitQueue n) ready rfl rfl (by
      simp only [serveRequest, readWaitQueue, index256_some (n := ⟨n.toNat, by omega⟩) rfl]; rfl) ?_
    rfl
  · exact exec_read (r := .readGrantList n) ready rfl rfl (by
      simp only [serveRequest, readGrantList, index256_none high]) rfl
  · exact exec_read (r := .readWaitQueue n) ready rfl rfl (by
      simp only [serveRequest, readWaitQueue, index256_none high]) rfl
  · refine exec_formed (r := .readZone level n position) ready rfl rfl
      (readZone_found _ named ⟨numbered, placed⟩ (by rw [tableEq]; exact found)) ?_
    exact congrArg₂ (· ++ ·) (summaryBytes x) (encZone_bytes y position.toNat)
  · exact exec_formed (r := .readZone level n position) ready rfl rfl
      (readZone_beyond _ named ⟨numbered, placed⟩ (by rw [tableEq]; exact below)) (summaryBytes x)
  · exact exec_read (r := .readZone level n position) ready rfl rfl (readZone_unnamed _ _ _ unnamed) rfl
  · exact exec_read (r := .readZone level n position) ready rfl rfl (readZone_outside _ named outside)
      (summaryBytes x)
  · refine exec_formed (r := .readHistory half first count) ready rfl rfl
      (readHistory_formed _ named ⟨some_, inside⟩) ?_
    rw [ringBytes, Nat.mul_comm h.val]
    rfl
  · exact exec_read (r := .readHistory half first count) ready rfl rfl (readHistory_refused _ bad) ringBytes

/-- Settles O22. -/
theorem timeAndIdentityAreRead : Obligations.TimeAndIdentityAreRead := by
  unfold Obligations.TimeAndIdentityAreRead
  intro c tag s ready
  refine ⟨exec_read (r := .readTime) ready rfl rfl rfl rfl, exec_read (r := .readIdentity) ready rfl rfl rfl ?_⟩
  show _ ++ opt _ s.serial ++ _ ++ _ ++ _ ++ _ = _ ++ (match s.serial with | none => _ | some v => _) ++ _ ++ _ ++ _ ++ _
  cases s.serial <;> rfl

/-! ### Reach (R137, R157) -/

theorem joins_iff (z : Zone) (p q : Port) : z.joins p q = true ↔ p ∈ z.members ∧ q ∈ z.members
    ∧ (z.kind = .standard ∨ ∃ ps, z.kind = .peer ps ∧ (p ∈ ps ∨ q ∈ ps)) := by
  obtain ⟨number, kind, members⟩ := z
  cases kind <;> simp [Zone.joins, and_assoc]

theorem reach_iff (tbl : ZoneTable) (p q : Port) :
    reach tbl p q = true ↔ p ≠ q ∧ ∃ z ∈ tbl, z.joins p q = true := by
  simp [reach]

theorem joins_symm (z : Zone) (p q : Port) : z.joins p q = z.joins q p := by
  unfold Zone.joins
  rw [Bool.and_comm (z.members.contains p)]
  cases z.kind with
  | standard => rfl
  | peer ps => exact congrArg _ (Bool.or_comm _ _)

theorem reach_symm (tbl : ZoneTable) (p q : Port) : reach tbl p q = reach tbl q p := by
  simp only [reach, ne_comm, fun z => joins_symm z p q]

theorem reach_self (tbl : ZoneTable) (p : Port) : reach tbl p p = false := by simp [reach]

/-- The first zone of a table that joins two ports, after zones that do not. -/
theorem find_joins {before after : ZoneTable} {z : Zone} {p q : Port} (other : p ≠ q)
    (none : reach before p q = false) (here : reach [z] p q = true) :
    (before ++ z :: after).find? (fun z => z.joins p q) = some z := by
  have joins : z.joins p q = true := by simpa [reach, other] using here
  have apart : before.find? (fun z => z.joins p q) = .none := by
    rw [List.find?_eq_none]
    simpa [reach, other] using none
  rw [List.find?_append, apart]
  exact List.find?_cons_of_pos (p := fun z : Zone => z.joins p q) joins

theorem queryReach_some {a b : BitVec 16} {p q : Port} (s : State) (first : a.toNat = p.val)
    (second : b.toNat = q.val) {zone : Option Zone} {joined : Bool}
    (row : activeReach s p q = joined) (by_ : joined = true → reachZone s p q = zone) :
    queryReach a b s = (s, .reply .done
      (yes joined ++ (if joined then u8 1 ++ opt (fun z : Zone => u8 z.number.val) zone else u8 0)
        ++ encGeneration s.zone.active.generation ++ encGeneration (pendingGeneration s.zone))) := by
  unfold queryReach
  rw [index256_some first, index256_some second]
  dsimp only
  rw [row]
  cases joined with
  | false => rfl
  | true => rw [by_ rfl]

/-- Settles O51: the relation by its zones, and QUERY REACH by the cases of the active generation. -/
theorem reachFollowsTheZones : Obligations.ReachFollowsTheZones := by
  unfold Obligations.ReachFollowsTheZones
  refine ⟨fun tbl p q => ⟨?_, reach_symm tbl p q, reach_self tbl p⟩, fun g => ?_, fun c tag a b s ready => ?_⟩
  · simp only [reach_iff, joins_iff]
  · unfold nextGeneration
    refine ⟨?_, fun h => if_neg h, fun h => if_pos h⟩
    split
    · decide
    · rename_i h
      bv_omega
  · intro row pending answer
    have answers : ∀ {p q : Port} {zone : Option Zone} {joined : Bool}, a.toNat = p.val → b.toNat = q.val →
        activeReach (s.heard c) p q = joined → (joined = true → reachZone (s.heard c) p q = zone) →
        row = answer (yes joined
          ++ if joined then u8 1 ++ opt (fun z : Zone => u8 z.number.val) zone else u8 0) :=
      fun first second joins zone =>
        exec_read (r := .queryReach a b) ready rfl rfl (queryReach_some _ first second joins zone) rfl
    refine ⟨fun high => ?_, fun p q first second => ⟨fun same => ?_, fun zero off => ?_, fun other zero all => ?_,
      fun zoned apart => ?_, fun z before after zoned other split_ none here => ?_⟩⟩
    · refine exec_read (r := .queryReach a b) ready rfl rfl ?_ rfl
      show queryReach a b _ = _
      unfold queryReach
      rcases high with high | high
      · rw [index256_none high]
      · rw [index256_none high]
        cases index256 a <;> rfl
    · refine answers (joined := false) (zone := none) first second ?_ (by simp)
      subst same
      unfold activeReach
      split
      · simp
      · exact reach_self _ _
    · refine answers (joined := false) (zone := none) first second ?_ (by simp)
      refine (if_pos zero).trans ?_
      show (decide (s.straps.zoning = .all) && _) = false
      rw [off]
      rfl
    · refine (answers (joined := true) (zone := .none) first second ?_ fun _ => if_pos zero).trans
        (congrArg answer (List.append_assoc _ _ _).symm)
      refine (if_pos zero).trans ?_
      show (decide (s.straps.zoning = .all) && _) = true
      rw [all]
      simp [other]
    · exact answers (joined := false) (zone := none) first second ((if_neg zoned).trans apart) (by simp)
    · have found := find_joins (after := after) other none here
      refine (answers (joined := true) (zone := some z) first second ?_ fun _ => ?_).trans
        (congrArg answer (List.append_assoc _ _ _).symm)
      · refine (if_neg zoned).trans ((reach_iff _ _ _).2 ⟨other, z, ?_, List.find?_some (p := fun z : Zone => z.joins p q) found⟩)
        show z ∈ s.zone.active.table
        rw [split_]
        simp
      · refine (if_neg zoned).trans ?_
        show s.zone.active.table.find? _ = _
        rw [split_]
        exact found

end Sys2Proof.Machine
end


-- ==== Sys2Proof/Proofs/ZoneRequests.lean ====
section
/-! SUPPORT. The requests of the zone transaction and the four edits, one equation for each way a request can go,
with the results split from the staging counts that end them. -/

namespace Sys2Proof.Machine

/-! ### The transaction (R126, R127, R139) -/

/-- The results of BEGIN ZONE EDIT (R126). -/
def encBegun (s : State) : List Byte :=
  encTxnState s.zone.txn ++ encOwner s.zone.txn
    ++ opt (fun x : TxnInfo => encBase x.base) s.zone.txn.info
    ++ u16 s.zone.staging.length ++ u16 (entryCount s.zone.staging)

theorem encBegun_eq (s : State) : encTxnState s.zone.txn ++ encOwner s.zone.txn
    ++ opt (fun x : TxnInfo => encBase x.base) s.zone.txn.info ++ encStaging s = encBegun s :=
  (List.append_assoc _ _ _).symm

theorem editModeOf_fromActive {b : Byte} (h : b.toNat = 1) : editModeOf b = some .fromActive := by
  unfold editModeOf; rw [h]; rfl

theorem editModeOf_empty {b : Byte} (h : b.toNat = 2) : editModeOf b = some .empty := by
  unfold editModeOf; rw [h]; rfl

theorem beginZoneEdit_badParam {b : Byte} (c : Cp) (s : State) (bad : b.toNat ≠ 1 ∧ b.toNat ≠ 2) :
    beginZoneEdit c b s = (s, .reply .badParam (encBegun s)) := by
  rw [← encBegun_eq]
  unfold beginZoneEdit
  rw [editModeOf_none bad]

theorem beginZoneEdit_state {b : Byte} (c : Cp) (s : State) (mode : b.toNat = 1 ∨ b.toNat = 2)
    (opened : s.zone.txn ≠ .closed) : beginZoneEdit c b s = (s, .reply .state (encBegun s)) := by
  rw [← encBegun_eq]
  unfold beginZoneEdit
  have known : ∃ m, editModeOf b = some m :=
    mode.elim (fun h => ⟨_, editModeOf_fromActive h⟩) (fun h => ⟨_, editModeOf_empty h⟩)
  obtain ⟨m, mode⟩ := known
  rw [mode]
  dsimp only
  split
  · exact absurd ‹_› opened
  · rfl

theorem beginZoneEdit_fromActive {b : Byte} {t : State} (c : Cp) (s : State) (mode : b.toNat = 1)
    (closed : s.zone.txn = .closed) (opened : t = s.modZone (fun z => { z with
      staging := s.zone.active.table
      txn := .opened ⟨c, s.auth.epoch, some s.zone.active.generation, s.time⟩ })) :
    beginZoneEdit c b s = (t, .reply .done (encBegun t)) := by
  rw [← encBegun_eq, opened]
  unfold beginZoneEdit
  rw [editModeOf_fromActive mode]
  dsimp only
  rw [closed]

theorem beginZoneEdit_empty {b : Byte} {t : State} (c : Cp) (s : State) (mode : b.toNat = 2)
    (closed : s.zone.txn = .closed) (opened : t = s.modZone (fun z => { z with
      staging := [], txn := .opened ⟨c, s.auth.epoch, none, s.time⟩ })) :
    beginZoneEdit c b s = (t, .reply .done (encBegun t)) := by
  rw [← encBegun_eq, opened]
  unfold beginZoneEdit
  rw [editModeOf_empty mode]
  dsimp only
  rw [closed]

theorem cancelZoneEdit_opened {i : TxnInfo} (s : State) (opened : s.zone.txn = .opened i) :
    cancelZoneEdit s = (closeTxn s, .reply .done (encTxnState .closed ++ encStaging s)) := by
  unfold cancelZoneEdit
  rw [opened]
  rfl

theorem cancelZoneEdit_refused {o : OutcomeCode} (s : State) (refused : notOpen s.zone.txn = some o) :
    cancelZoneEdit s = (s, .reply o (encTxnState s.zone.txn)) := by
  unfold cancelZoneEdit
  rw [refused]

theorem notOpen_state {t : ZoneTxn} {i : TxnInfo} (h : t = .closed ∨ t = .held i) :
    notOpen t = some .state := by
  rcases h with rfl | rfl <;> rfl

theorem notOpen_busy {t : ZoneTxn} {i : TxnInfo} {hold : Bool} (h : t = .computing i hold) :
    notOpen t = some .busy := by
  rw [h]; rfl

theorem commitZones_refused {b : Byte} {o : OutcomeCode} (s : State)
    (refused : notOpen s.zone.txn = some o) :
    commitZones b s = (s, .reply o (encTxnState s.zone.txn ++ encEngine s.zone.main)) := by
  unfold commitZones
  cases txn : s.zone.txn with
  | opened i => rw [txn] at refused; cases refused
  | closed => rw [txn] at refused; cases refused; rfl
  | computing i hold => rw [txn] at refused; cases refused; rfl
  | held i => rw [txn] at refused; cases refused; rfl

theorem commitZones_badParam {b : Byte} {i : TxnInfo} (s : State) (opened : s.zone.txn = .opened i)
    (bad : 1 < b.toNat) :
    commitZones b s = (s, .reply .badParam (encTxnState s.zone.txn ++ encEngine s.zone.main)) := by
  unfold commitZones
  rw [opened, holdOf_none bad]

theorem commitZones_zoneBusy {b : Byte} {i : TxnInfo} (s : State) (opened : s.zone.txn = .opened i)
    (flag : b.toNat ≤ 1) (busy : s.zone.main ≠ .idle) :
    commitZones b s = (s, .reply .zoneBusy (encTxnState s.zone.txn ++ encEngine s.zone.main)) := by
  unfold commitZones
  have known : ∃ hold : Bool, b.toNat = hold.toNat := by
    by_cases one : b.toNat = 1
    · exact ⟨true, one⟩
    · exact ⟨false, by simp only [Bool.toNat_false]; omega⟩
  obtain ⟨hold, flag⟩ := known
  rw [opened, holdOf_some flag]
  exact if_neg busy

theorem commitZones_taken {b : Byte} {i : TxnInfo} {hold : Bool} (s : State)
    (opened : s.zone.txn = .opened i) (flag : b.toNat = hold.toNat) (idle : s.zone.main = .idle) :
    commitZones b s = (s.modZone fun z => { z with txn := .computing i hold }, .waits .commit) := by
  unfold commitZones
  rw [opened, holdOf_some flag]
  exact if_pos idle

/-- Settles O48, by the transaction state and the parameter. -/
theorem zoneTransactionsAreJudged : Obligations.ZoneTransactionsAreJudged := by
  unfold Obligations.ZoneTransactionsAreJudged
  intro c tag b i hold s ready holds h answers begun dropped both
  refine ⟨fun bad => ?_, fun mode opened => ?_, fun t mode closed opened => ?_,
    fun t mode closed opened => ?_, fun opened => ?_, fun other => ⟨?_, ?_⟩, fun computing => ⟨?_, ?_⟩,
    fun opened bad => ?_, fun opened flag busy => ?_, fun opened flag idle => ?_⟩
  · exact exec_holder (r := .beginZoneEdit b) ready holds rfl (beginZoneEdit_badParam c _ bad)
  · exact exec_holder (r := .beginZoneEdit b) ready holds rfl (beginZoneEdit_state c h mode opened)
  · exact exec_holder (r := .beginZoneEdit b) ready holds rfl
      (beginZoneEdit_fromActive c h mode closed opened)
  · exact exec_holder (r := .beginZoneEdit b) ready holds rfl
      (beginZoneEdit_empty c h mode closed opened)
  · exact exec_holder (r := .cancelZoneEdit) ready holds rfl (cancelZoneEdit_opened h opened)
  · exact exec_holder (r := .cancelZoneEdit) ready holds rfl (cancelZoneEdit_refused h (notOpen_state other))
  · exact exec_holder (r := .commitZones b) ready holds rfl (commitZones_refused h (notOpen_state other))
  · exact exec_holder (r := .cancelZoneEdit) ready holds rfl
      (cancelZoneEdit_refused h (notOpen_busy computing))
  · exact exec_holder (r := .commitZones b) ready holds rfl (commitZones_refused h (notOpen_busy computing))
  · exact exec_holder (r := .commitZones b) ready holds rfl (commitZones_badParam h opened bad)
  · exact exec_holder (r := .commitZones b) ready holds rfl (commitZones_zoneBusy h opened flag busy)
  · exact exec_waits c tag (.commitZones b) s _ _ ready rfl (fun _ => by simp [State.isHolder, holds])
      (commitZones_taken h opened flag idle)

/-! ### The edits (R128 to R131) -/

/-- A request of the holder whose results end with the staging counts. -/
theorem exec_edit {c : Cp} {tag : BitVec 4} {r : Request} {s u : State} {o : OutcomeCode} {bs : List Byte}
    (ready : Ready c s) (holds : s.auth.holder = some c) (fits : r.fits = true)
    (served : serveRequest c r (s.heard c) = (u, .reply o (bs ++ encStaging u))) :
    exec (r.command c tag) s = .next (arbitrate (u.answered c tag r.code o
      (bs ++ u16 u.zone.staging.length ++ u16 (entryCount u.zone.staging)))) :=
  exec_holder ready holds fits (by rw [List.append_assoc]; exact served)

theorem whenOpen_opened {i : TxnInfo} {s : State} {counts : List Byte} {edit : State × Took}
    (opened : s.zone.txn = .opened i) : whenOpen s counts edit = edit := by
  unfold whenOpen
  rw [opened]
  rfl

theorem whenOpen_refused {o : OutcomeCode} {s : State} {counts : List Byte} {edit : State × Took}
    (refused : notOpen s.zone.txn = some o) :
    whenOpen s counts edit = (s, .reply o (encTxnState s.zone.txn ++ counts ++ encStaging s)) := by
  unfold whenOpen
  rw [refused]

theorem zoneKindOf_standard {b : Byte} (h : b.toNat = 1) : zoneKindOf b = some .standard := by
  unfold zoneKindOf; rw [h]; rfl

theorem zoneKindOf_peer {b : Byte} (h : b.toNat = 2) : zoneKindOf b = some (.peer []) := by
  unfold zoneKindOf; rw [h]; rfl

theorem principalOf_known {b : Byte} (h : 1 ≤ b.toNat ∧ b.toNat ≤ 3) : ∃ code, principalOf b = some code := by
  rw [principalOf_eq]
  split_ifs
  · exact ⟨_, rfl⟩
  · exact ⟨_, rfl⟩
  · exact ⟨_, rfl⟩
  · omega

theorem principalOf_principal {b : Byte} {code : PrincipalCode} (h : principalOf b = some code) :
    code = .principal ↔ b.toNat = 2 := by
  rw [principalOf_eq] at h
  split_ifs at h with one two three
  · cases h
    exact ⟨nofun, fun two => by omega⟩
  · cases h
    exact ⟨fun _ => two, fun _ => rfl⟩
  · cases h
    exact ⟨nofun, fun two => by omega⟩

theorem encNamedCounts_unknown {zone : BitVec 16} {n : Fin 256} {s : State}
    (h : 255 < zone.toNat ∨ (zone.toNat = n.val ∧ zoneAt s.zone.staging n = none)) :
    encNamedCounts zone s = [] := by
  unfold encNamedCounts
  rcases h with high | ⟨number, absent⟩
  · rw [index256_none high]
    rfl
  · rw [index256_some number, Option.bind_some, absent]

theorem encNamedCounts_found {zone : BitVec 16} {n : Fin 256} {y : Zone} {s : State}
    (number : zone.toNat = n.val) (found : zoneAt s.zone.staging n = some y) :
    encNamedCounts zone s = encZoneCounts y := by
  unfold encNamedCounts
  rw [index256_some number, Option.bind_some, found]

theorem createZone_badParam {zone : BitVec 16} {b : Byte} {i : TxnInfo} {s : State}
    (opened : s.zone.txn = .opened i) (bad : 255 < zone.toNat ∨ (b.toNat ≠ 1 ∧ b.toNat ≠ 2)) :
    createZone zone b s = (s, .reply .badParam ([] ++ encStaging s)) := by
  refine (whenOpen_opened opened).trans ?_
  rcases bad with high | kind
  · rw [index256_none high]
    rfl
  · rw [zoneKindOf_none kind]
    cases index256 zone <;> rfl

theorem createZone_duplicate {zone : BitVec 16} {b : Byte} {n : Fin 256} {k : ZoneKind} {y : Zone}
    {i : TxnInfo} {s : State} (opened : s.zone.txn = .opened i) (number : zone.toNat = n.val)
    (kind : zoneKindOf b = some k) (found : zoneAt s.zone.staging n = some y) :
    createZone zone b s = (s, .reply .duplicate ([] ++ encStaging s)) := by
  refine (whenOpen_opened opened).trans ?_
  rw [index256_some number, kind]
  exact if_pos (by rw [found]; rfl)

theorem createZone_done {zone : BitVec 16} {b : Byte} {n : Fin 256} {k : ZoneKind}
    {i : TxnInfo} {s : State} (opened : s.zone.txn = .opened i) (number : zone.toNat = n.val)
    (kind : zoneKindOf b = some k) (absent : zoneAt s.zone.staging n = none) :
    createZone zone b s = (putStaging (insertZone ⟨n, k, []⟩ s.zone.staging) s,
      .reply .done ([] ++ encStaging (putStaging (insertZone ⟨n, k, []⟩ s.zone.staging) s))) := by
  refine (whenOpen_opened opened).trans ?_
  rw [index256_some number, kind]
  exact if_neg (by rw [absent]; simp)

theorem deleteZone_badParam {zone : BitVec 16} {i : TxnInfo} {s : State}
    (opened : s.zone.txn = .opened i) (high : 255 < zone.toNat) :
    deleteZone zone s = (s, .reply .badParam ([] ++ encStaging s)) := by
  refine (whenOpen_opened opened).trans ?_
  rw [index256_none high]
  rfl

theorem deleteZone_notFound {zone : BitVec 16} {n : Fin 256} {i : TxnInfo} {s : State}
    (opened : s.zone.txn = .opened i) (number : zone.toNat = n.val)
    (absent : zoneAt s.zone.staging n = none) :
    deleteZone zone s = (s, .reply .notFound ([] ++ encStaging s)) := by
  refine (whenOpen_opened opened).trans ?_
  rw [index256_some number]
  dsimp only
  rw [absent]
  rfl

theorem deleteZone_done {zone : BitVec 16} {n : Fin 256} {y : Zone} {i : TxnInfo} {s : State}
    (opened : s.zone.txn = .opened i) (number : zone.toNat = n.val)
    (found : zoneAt s.zone.staging n = some y) :
    deleteZone zone s = (putStaging (dropZone s.zone.staging n) s,
      .reply .done (u8 y.members.length ++ encStaging (putStaging (dropZone s.zone.staging n) s))) := by
  refine (whenOpen_opened opened).trans ?_
  rw [index256_some number]
  dsimp only
  rw [found]

/-! ADD MEMBER (R130). -/

theorem addMember_badParam {zone port : BitVec 16} {b : Byte} {i : TxnInfo} {s : State}
    (opened : s.zone.txn = .opened i)
    (bad : 255 < zone.toNat ∨ 255 < port.toNat ∨ b.toNat = 0 ∨ 3 < b.toNat) :
    addMember zone port b s = (s, .reply .badParam (encNamedCounts zone s ++ encStaging s)) := by
  refine (whenOpen_opened opened).trans ?_
  rcases bad with high | high | code
  · rw [index256_none high]
  · rw [index256_none high]
    cases index256 zone <;> rfl
  · rw [principalOf_none code]
    cases index256 zone <;> cases index256 port <;> rfl

section
variable {zone port : BitVec 16} {n : Fin 256} {p : Port} {y : Zone} {i : TxnInfo} {s : State}

theorem addMember_notFound {b : Byte} (opened : s.zone.txn = .opened i) (number : zone.toNat = n.val)
    (named : port.toNat = p.val) (code : 1 ≤ b.toNat ∧ b.toNat ≤ 3)
    (absent : zoneAt s.zone.staging n = none) :
    addMember zone port b s = (s, .reply .notFound ([] ++ encStaging s)) := by
  refine (whenOpen_opened opened).trans ?_
  obtain ⟨code, known⟩ := principalOf_known code
  rw [index256_some number, index256_some named, known]
  dsimp only
  rw [absent]
  rfl

/-- ADD MEMBER of a zone that staging holds. -/
theorem addMember_found {b : Byte} {code : PrincipalCode} (opened : s.zone.txn = .opened i)
    (number : zone.toNat = n.val) (named : port.toNat = p.val) (known : principalOf b = some code)
    (found : zoneAt s.zone.staging n = some y) :
    addMember zone port b s =
      if code = .principal ∧ y.isPeer = false then
        (s, .reply .badParam (encZoneCounts y ++ encStaging s))
      else if !y.members.contains p && (64 ≤ y.members.length || 4096 ≤ entryCount s.zone.staging) then
        (s, .reply .noSpace (encZoneCounts y ++ encStaging s))
      else
        (putStaging (insertZone (y.addMember code p) s.zone.staging) s, .reply .done
          (yes (y.members.contains p)
            ++ encStanding (y.addMember code p) ((y.addMember code p).principals.contains p)
            ++ encZoneCounts (y.addMember code p)
            ++ encStaging (putStaging (insertZone (y.addMember code p) s.zone.staging) s))) := by
  refine (whenOpen_opened opened).trans ?_
  rw [index256_some number, index256_some named, known]
  dsimp only
  rw [found]

/-! REMOVE MEMBER (R131). -/

theorem removeMember_badParam (opened : s.zone.txn = .opened i)
    (bad : 255 < zone.toNat ∨ 255 < port.toNat) :
    removeMember zone port s = (s, .reply .badParam (encNamedCounts zone s ++ encStaging s)) := by
  refine (whenOpen_opened opened).trans ?_
  rcases bad with high | high
  · rw [index256_none high]
  · rw [index256_none high]
    cases index256 zone <;> rfl

theorem removeMember_notFound (opened : s.zone.txn = .opened i) (number : zone.toNat = n.val)
    (named : port.toNat = p.val) (absent : zoneAt s.zone.staging n = none) :
    removeMember zone port s = (s, .reply .notFound ([] ++ encStaging s)) := by
  refine (whenOpen_opened opened).trans ?_
  rw [index256_some number, index256_some named]
  dsimp only
  rw [absent]
  rfl

/-- REMOVE MEMBER of a zone that staging holds. -/
theorem removeMember_found (opened : s.zone.txn = .opened i) (number : zone.toNat = n.val)
    (named : port.toNat = p.val) (found : zoneAt s.zone.staging n = some y) :
    removeMember zone port s =
      if y.members.contains p then
        (putStaging (insertZone (y.removeMember p) s.zone.staging) s, .reply .done
          (encStanding y (y.principals.contains p) ++ encZoneCounts (y.removeMember p)
            ++ encStaging (putStaging (insertZone (y.removeMember p) s.zone.staging) s)))
      else (s, .reply .notFound (encZoneCounts y ++ encStaging s)) := by
  refine (whenOpen_opened opened).trans ?_
  rw [index256_some number, index256_some named]
  dsimp only
  rw [found]

end

theorem createZone_refused {zone : BitVec 16} {b : Byte} {o : OutcomeCode} {s : State}
    (refused : notOpen s.zone.txn = some o) :
    createZone zone b s = (s, .reply o (encTxnState s.zone.txn ++ encStaging s)) :=
  (whenOpen_refused refused).trans (by rw [List.append_nil])

theorem deleteZone_refused {zone : BitVec 16} {o : OutcomeCode} {s : State}
    (refused : notOpen s.zone.txn = some o) :
    deleteZone zone s = (s, .reply o (encTxnState s.zone.txn ++ encStaging s)) :=
  (whenOpen_refused refused).trans (by rw [List.append_nil])

theorem addMember_refused {zone port : BitVec 16} {b : Byte} {o : OutcomeCode} {s : State}
    (refused : notOpen s.zone.txn = some o) : addMember zone port b s
      = (s, .reply o (encTxnState s.zone.txn ++ encNamedCounts zone s ++ encStaging s)) :=
  whenOpen_refused refused

theorem removeMember_refused {zone port : BitVec 16} {o : OutcomeCode} {s : State}
    (refused : notOpen s.zone.txn = some o) : removeMember zone port s
      = (s, .reply o (encTxnState s.zone.txn ++ encNamedCounts zone s ++ encStaging s)) :=
  whenOpen_refused refused

/-- What staging holds of a number is the zone of that number. -/
theorem zoneAt_iff {tbl : ZoneTable} (h : tbl.ascending) (n : Fin 256) (y : Zone) :
    zoneAt tbl n = some y ↔ y ∈ tbl ∧ y.number = n := by
  refine ⟨zoneAt_some, fun ⟨mem, number⟩ => ?_⟩
  have lowest := (find_lowest (fun k => decide (k = n.val)) y tbl h).2
    ⟨mem, by simp [number], fun z _ same => by simp only [decide_eq_true_eq] at same; omega⟩
  refine Eq.trans (congrArg (List.find? · tbl) (funext fun z => ?_)) lowest
  simp [Fin.ext_iff]

/-- Settles O49: the edits by the order in which each is judged, and the tables by their order. -/
theorem zoneEditsAreJudged : Obligations.ZoneEditsAreJudged := by
  unfold Obligations.ZoneEditsAreJudged
  refine ⟨?_, fun tbl x n ascending => ?_, fun ps p b code ascending => ?_⟩
  · intro c tag zone port b n p y i s ready holds h answers staged open_ number named found absent member
      counts full create delete add remove unknown code refused
    have refusedBy : ∀ o, notOpen s.zone.txn = some o → refused o := fun o closed => by
      have addRefused := exec_edit (tag := tag) (r := .addMember zone port b) ready holds rfl
        (addMember_refused (s := h) closed)
      have removeRefused := exec_edit (tag := tag) (r := .removeMember zone port) ready holds rfl
        (removeMember_refused (s := h) closed)
      refine ⟨exec_edit (r := .createZone zone b) ready holds rfl (createZone_refused (s := h) closed),
        exec_edit (r := .deleteZone zone) ready holds rfl (deleteZone_refused (s := h) closed),
        fun unknown => ?_, fun number found => ?_⟩
      · rw [encNamedCounts_unknown (s := h) unknown, List.append_nil] at addRefused removeRefused
        exact ⟨addRefused, removeRefused⟩
      · rw [encNamedCounts_found (s := h) number found] at addRefused removeRefused
        exact ⟨addRefused, removeRefused⟩
    have adds : ∀ {u : State} {o : OutcomeCode} {bs : List Byte},
        addMember zone port b h = (u, .reply o (bs ++ encStaging u)) → answers add u 0x54 o bs :=
      fun served => exec_edit (r := .addMember zone port b) ready holds rfl served
    have removes : ∀ {u : State} {o : OutcomeCode} {bs : List Byte},
        removeMember zone port h = (u, .reply o (bs ++ encStaging u)) → answers remove u 0x55 o bs :=
      fun served => exec_edit (r := .removeMember zone port) ready holds rfl served
    have creates : ∀ {u : State} {o : OutcomeCode} {bs : List Byte},
        createZone zone b h = (u, .reply o (bs ++ encStaging u)) → answers create u 0x52 o bs :=
      fun served => exec_edit (r := .createZone zone b) ready holds rfl served
    have deletes : ∀ {u : State} {o : OutcomeCode} {bs : List Byte},
        deleteZone zone h = (u, .reply o (bs ++ encStaging u)) → answers delete u 0x53 o bs :=
      fun served => exec_edit (r := .deleteZone zone) ready holds rfl served
    refine ⟨fun closed => refusedBy _ (notOpen_state closed), fun hold computing =>
      refusedBy _ (notOpen_busy computing), fun opened bad => creates (createZone_badParam opened bad),
      fun opened number found kind => ?_,
      fun opened number absent kind => creates
        (createZone_done opened number (zoneKindOf_standard kind) absent),
      fun opened number absent kind => creates (createZone_done opened number (zoneKindOf_peer kind) absent),
      fun opened high => deletes (deleteZone_badParam opened high),
      fun opened number absent => deletes (deleteZone_notFound opened number absent),
      fun opened number found => deletes (deleteZone_done opened number found),
      fun opened high => adds ?_, fun opened bad => ⟨fun unknown => adds ?_, fun number found => adds ?_⟩,
      fun opened ⟨number, named⟩ absent low high => adds (addMember_notFound opened number named ⟨low, high⟩ absent),
      fun opened ⟨number, named⟩ found principal standard => adds ?_,
      fun opened ⟨number, named⟩ found low high peer new full => adds ?_,
      fun code x opened ⟨number, named⟩ found known peer room result => ?_,
      fun opened high => removes ?_, fun opened bad => ⟨fun unknown => removes ?_, fun number found => removes ?_⟩,
      fun opened ⟨number, named⟩ absent => removes (removeMember_notFound opened number named absent),
      fun opened ⟨number, named⟩ found outsider => removes ?_,
      fun x opened ⟨number, named⟩ found joined result => ?_⟩
    · have known : ∃ k, zoneKindOf b = some k :=
        kind.elim (fun k => ⟨_, zoneKindOf_standard k⟩) (fun k => ⟨_, zoneKindOf_peer k⟩)
      obtain ⟨k, known⟩ := known
      exact creates (createZone_duplicate opened number known found)
    · rw [addMember_badParam (s := h) opened (.inl high), encNamedCounts_unknown (n := n) (.inl high)]
    · rw [addMember_badParam (s := h) opened (.inr bad), encNamedCounts_unknown (s := h) unknown]
    · rw [addMember_badParam (s := h) opened (.inr bad), encNamedCounts_found (s := h) number found]
      rfl
    · obtain ⟨code, known⟩ := principalOf_known (b := b) (by omega)
      exact (addMember_found (s := h) opened number named known found).trans
        (if_pos ⟨(principalOf_principal known).2 principal, standard⟩)
    · obtain ⟨code, known⟩ := principalOf_known (b := b) ⟨low, high⟩
      refine (addMember_found (s := h) opened number named known found).trans ((if_neg ?_).trans (if_pos ?_))
      · rintro ⟨principal, standard⟩
        rw [peer ((principalOf_principal known).1 principal)] at standard
        cases standard
      · have outsider : y.members.contains p = false := new
        have isFull : 64 ≤ y.members.length ∨ 4096 ≤ entryCount h.zone.staging := full
        rw [outsider]
        simpa using isFull
    · subst result
      refine adds ((addMember_found (s := h) opened number named known found).trans
        ((if_neg ?_).trans (if_neg ?_)))
      · rintro ⟨principal, standard⟩
        rw [peer ((principalOf_principal known).1 principal)] at standard
        cases standard
      · intro isFull
        rw [Bool.and_eq_true, Bool.not_eq_true'] at isFull
        exact room isFull.1 ((Bool.or_eq_true _ _).mp isFull.2 |>.imp of_decide_eq_true of_decide_eq_true)
    · rw [removeMember_badParam (s := h) opened (.inl high), encNamedCounts_unknown (n := n) (.inl high)]
    · rw [removeMember_badParam (s := h) opened (.inr bad), encNamedCounts_unknown (s := h) unknown]
    · rw [removeMember_badParam (s := h) opened (.inr bad), encNamedCounts_found (s := h) number found]
      rfl
    · exact (removeMember_found (s := h) opened number named found).trans
        (if_neg fun joined => Bool.false_ne_true (outsider.symm.trans joined))
    · subst result
      exact removes ((removeMember_found (s := h) opened number named found).trans (if_pos joined))
  · obtain ⟨ordered, members⟩ := insertZone_spec x tbl ascending
    refine ⟨ordered, members, zoneAt_iff ascending n, fun m y => ?_⟩
    simpa using find_lowest (fun k => decide (m ≤ k)) y tbl ascending
  · obtain ⟨ordered, members⟩ := insertPort_spec p ps ascending
    exact ⟨ordered, members, rfl, rfl, rfl, rfl, principalOf_eq b⟩

end Sys2Proof.Machine
end


-- ==== Sys2Proof/Proofs/HeldFields.lean ====
section
/-! SUPPORT. Values of several lines bit by bit, the held fields as the lines carry them, and that no write of the
part drives a SENSE line. -/

namespace Sys2Proof.Machine

/-! ### Values of several lines (R30) -/

theorem foldr_testBit : ∀ (bs : List Bool) (k : Nat),
    (bs.foldr (fun (b : Bool) (n : Nat) => 2 * n + b.toNat) 0).testBit k = bs.getD k false
  | [], k => by simp
  | b :: bs, 0 => by
    rw [List.foldr_cons, Nat.testBit_zero, List.getD_cons_zero]
    cases b <;> simp
  | b :: bs, k + 1 => by
    rw [List.foldr_cons, Nat.testBit_succ, List.getD_cons_succ, ← foldr_testBit bs k]
    congr 1
    cases b
    · simp
    · simp
      omega

/-- Bit k of a value is the level of the line at place k. -/
theorem packBits_getLsbD (bs : List Bool) {k : Nat} (h : k < 16) : (packBits bs).getLsbD k = bs.getD k false := by
  unfold packBits
  rw [BitVec.getLsbD_ofNat, decide_eq_true h, foldr_testBit, Bool.true_and]

/-- A value whose lines are given place by place. -/
theorem packBits_range (f : Nat → Bool) {k : Nat} (h : k < 16) :
    (packBits ((List.range 16).map f)).getLsbD k = f k := by
  rw [packBits_getLsbD _ h]
  simp [h]

/-- Two lines for each entry. -/
theorem flatMap_pair_getD {α : Type} (f g : α → Bool) : ∀ (xs : List α) (k : Nat) (h : k < xs.length),
    (xs.flatMap fun x => [f x, g x]).getD (2 * k) false = f xs[k]
    ∧ (xs.flatMap fun x => [f x, g x]).getD (2 * k + 1) false = g xs[k]
  | x :: xs, 0, _ => ⟨rfl, rfl⟩
  | x :: xs, k + 1, h => by
    have rest := flatMap_pair_getD f g xs k (by simpa using h)
    rw [List.flatMap_cons, show 2 * (k + 1) = 2 * k + 1 + 1 from rfl]
    exact rest

/-! ### Held fields (R28, R34, R95) -/

theorem joinHeld_present {f : HeldField} {s : State} (h : Class1.held f ∈ s.bus.class1) : joinHeld f s = s :=
  if_pos (List.contains_iff_mem.2 h)

theorem joinHeld_absent {f : HeldField} {s : State} (h : Class1.held f ∉ s.bus.class1) :
    joinHeld f s = s.modBus fun b => { b with class1 := b.class1 ++ [.held f] } :=
  if_neg fun k => h (List.contains_iff_mem.1 k)

theorem heldTxn_powerEnable (s : State) (i : Slot) : heldTxn s (.powerEnable i) =
    if (s.slotRec i).power.drawing then .set (slotLine i 64) else .clear (slotLine i 64) := by
  show (if (if (s.slotRec i).power.drawing then (1 : BitVec 16) else 0) = 0 then _ else _) = _
  split
  · exact if_neg (by decide)
  · exact if_pos rfl

theorem indicatorValue_toNat (s : State) : (indicatorValue s).toNat =
    s.alarm.led.code + (if s.auth.holder = some .a then 4 else 0)
      + (if s.auth.holder = some .b then 8 else 0) := by
  have led : s.alarm.led.code ≤ 2 := by cases s.alarm.led <;> decide
  unfold indicatorValue State.isHolder
  rw [BitVec.toNat_ofNat]
  by_cases a : s.auth.holder = some .a <;> by_cases b : s.auth.holder = some .b <;> simp [a, b] <;> omega

theorem classCode_eq (s : State) (p : Port) : classCode s p =
    match s.portExists p, grantOf s.lic p with
    | true, some g => g.cls.code
    | _, _ => 0 := by
  unfold classCode
  cases s.portExists p <;> cases grantOf s.lic p <;> rfl

theorem portOf_place {i : Slot} {p : Port} {l : Nat} (low : l < 32) (h : p.val = 32 * i.val + l) :
    portOf i (Fin.ofNat 32 l) = p := by
  refine Fin.ext ?_
  show i.val * 32 + l % 32 = p.val
  omega

theorem enableValue_getLsbD (s : State) {i : Slot} {h : Fin 2} (m : Fin 16) {p : Port}
    (place : p.val = 32 * i.val + 16 * h.val + m.val) :
    (enableValue s i h).getLsbD m.val = (s.portExists p && (s.power.ports.get p).isEnabled) := by
  refine (packBits_range _ m.isLt).trans ?_
  dsimp only
  rw [portOf_place (p := p) (by omega) (by omega)]

theorem classValue_getLsbD (s : State) {i : Slot} {q : Fin 4} (m : Fin 8) {p : Port}
    (place : p.val = 32 * i.val + 8 * q.val + m.val) :
    (classValue s i q).getLsbD (2 * m.val) = (classCode s p).testBit 0
    ∧ (classValue s i q).getLsbD (2 * m.val + 1) = (classCode s p).testBit 1 := by
  have bits := flatMap_pair_getD
    (fun k => (classCode s (portOf i (Fin.ofNat 32 (8 * q.val + k)))).testBit 0)
    (fun k => (classCode s (portOf i (Fin.ofNat 32 (8 * q.val + k)))).testBit 1)
    (List.range 8) m.val (by simp)
  rw [List.getElem_range, portOf_place (p := p) (by omega) (by omega)] at bits
  exact ⟨(packBits_getLsbD _ (by omega)).trans bits.1, (packBits_getLsbD _ (by omega)).trans bits.2⟩

/-! ### SENSE lines (R28) -/

theorem write_drivesSense {l n : Nat} {d : BitVec 16} (h : ∀ k, k < n → lineMark (l + k) ≠ some .sense) :
    (Txn.write l n d).drivesSense = false := by
  simpa [Txn.drivesSense] using h

theorem single_drivesSense {l : Nat} (h : lineMark l ≠ some .sense) :
    (Txn.set l).drivesSense = false ∧ (Txn.clear l).drivesSense = false := by
  simpa [Txn.drivesSense] using h

theorem lineMark_midplane {l : Nat} (h : 128 ≤ l ∧ l < 256) : lineMark l ≠ some .sense := by
  unfold lineMark
  rw [if_pos (by omega), if_neg (by omega)]
  decide

/-- Of a slot's block the lines from 64 on are no SENSE lines. -/
theorem lineMark_slot (i : Slot) {offset : Nat} (h : 64 ≤ offset ∧ offset < 256) :
    lineMark (slotLine i offset) ≠ some .sense := by
  unfold lineMark slotLine
  rw [if_neg (by omega), if_pos (by omega), if_neg (by omega)]
  decide

theorem lineMark_tray (y : Tray) {offset : Nat} (h : 96 ≤ offset ∧ offset < 128) :
    lineMark (trayLine y offset) ≠ some .sense := by
  unfold lineMark trayLine
  rw [if_neg (by omega), if_neg (by omega), if_neg (by omega), if_pos (by omega), if_neg (by omega)]
  decide

theorem slotField_drivesSense (i : Slot) {offset n : Nat} (d : BitVec 16) (h : 64 ≤ offset)
    (k : offset + n ≤ 256) : (Txn.write (slotLine i offset) n d).drivesSense = false :=
  write_drivesSense fun k _ => by
    rw [show slotLine i offset + k = slotLine i (offset + k) from Nat.add_assoc _ _ _]
    exact lineMark_slot i (by omega)

theorem midplaneField_drivesSense {l n : Nat} (d : BitVec 16) (h : 128 ≤ l ∧ l + n ≤ 256) :
    (Txn.write l n d).drivesSense = false :=
  write_drivesSense fun _ _ => lineMark_midplane (by omega)

theorem heldTxn_drivesSense (s : State) (f : HeldField) : (heldTxn s f).drivesSense = false := by
  cases f with
  | indicator => exact midplaneField_drivesSense _ (by decide)
  | powerEnable i =>
    rw [heldTxn_powerEnable]
    have line := single_drivesSense (lineMark_slot i (offset := 64) (by decide))
    split
    · exact line.1
    · exact line.2
  | portEnable i h => exact slotField_drivesSense (n := 16) i _ (by omega) (by omega)
  | portClass i q => exact slotField_drivesSense (n := 16) i _ (by omega) (by omega)
  | duty y =>
    refine write_drivesSense fun k low => ?_
    have width : k < 7 := low
    rw [show HeldField.first (.duty y) + k = trayLine y (96 + k) from Nat.add_assoc _ _ _]
    exact lineMark_tray y (by omega)

theorem class1Grant_drivesSense (s : State) (e : Class1) : (class1Grant s e).txn.drivesSense = false := by
  cases e with
  | held f => exact heldTxn_drivesSense s f
  | activateField => exact midplaneField_drivesSense _ (by decide)
  | strobe => exact (single_drivesSense (lineMark_midplane (by decide))).1
  | slotActivate i => exact (single_drivesSense (lineMark_slot i (by decide))).1

theorem loadTxn_drivesSense (s : State) (j : LoadJob) : (loadTxn s j).drivesSense = false := by
  obtain ⟨i, main, step⟩ := j
  cases step with
  | generation => exact slotField_drivesSense i _ (by decide) (by decide)
  | piece n => exact slotField_drivesSense i _ (by decide) (by decide)
  | loadDone => exact (single_drivesSense (lineMark_slot i (by decide))).1

theorem scanStepTxn_drivesSense (s : State) (st : ScanStep) : (scanStepTxn s st).drivesSense = false := by
  cases st with
  | rewrite f rest => exact heldTxn_drivesSense s f
  | slotIdentity i awaited got =>
    show (slotIdentityTxn i got.length).drivesSense = false
    unfold slotIdentityTxn
    split <;> rfl
  | bayIdentity b a g got =>
    show (bayIdentityTxn b got.length).drivesSense = false
    unfold bayIdentityTxn
    split <;> rfl
  | sensor w => rfl
  | slotLines i awaited => rfl
  | slotAck i => rfl
  | bayLines b => rfl
  | trayLine t => rfl
  | trayIdentity t => rfl
  | rotor t r k => rfl

/-! ### The end of a transaction of an owner -/

/-- A transaction of an owner on the bus ends. -/
theorem endOf_mine {mine : Owner → Bool} {first again : Answer} {act : OnBus → BusEnd → State → State}
    {t : OnBus} {s : State} (onBus : s.bus.current = some t) (own : mine t.owner = true) :
    endOf mine first again act s = .next (arbitrate
      (act t (busEnd t.txn first again) (freeBus t (busEnd t.txn first again) s))) := by
  unfold endOf
  rw [onBus]
  exact if_pos own

/-- Settles O27, field by field and line by line. -/
theorem heldFieldsAreWritten : Obligations.HeldFieldsAreWritten := by
  unfold Obligations.HeldFieldsAreWritten
  refine ⟨fun f s => ⟨joinHeld_present, joinHeld_absent, rfl⟩, fun i s => ⟨rfl, rfl, rfl⟩,
    fun i y s => ⟨heldTxn_powerEnable s i, rfl, ⟨_, rfl, indicatorValue_toNat s⟩, fun h =>
      ⟨enableValue s i h, congrArg (Txn.write · 16 _) (Nat.add_assoc _ _ _).symm, fun m p place =>
        enableValue_getLsbD s m place⟩,
      fun q => ⟨classValue s i q, congrArg (Txn.write · 16 _) (Nat.add_assoc _ _ _).symm,
        fun m p place => ?_⟩⟩,
    fun f x first again s onBus => endOf_mine (mine := Owner.isHeld) (act := fun _ _ t => t) onBus rfl,
    fun s e j st => ⟨class1Grant_drivesSense s e, loadTxn_drivesSense s j, scanStepTxn_drivesSense s st⟩⟩
  have bits := classValue_getLsbD s m place
  rw [classCode_eq] at bits
  exact bits

end Sys2Proof.Machine
end


-- ==== Sys2Proof/Proofs/LineBus.lean ====
section
/-! SUPPORT. The line bus: how a transaction ends and what its end leaves, what the arbiter grants, the ranges of
the address space, and the maintenance requests. -/

namespace Sys2Proof.Machine

/-! ### How a transaction ends (R29, R31, R32) -/

theorem busEnd_silent (t : Txn) (again : Answer) : busEnd t .silent again = .noResponse := by
  have unanswered : transfer t .silent = .unanswered := ite_self _
  unfold busEnd
  rw [unanswered]

theorem busEnd_unpopulated {t : Txn} (first again : Answer) (h : 2944 ≤ t.first ∧ t.first ≤ 3071) :
    busEnd t first again = .noResponse := by
  have unanswered : transfer t first = .unanswered :=
    if_pos (by simp only [Txn.unpopulated, Bool.and_eq_true, decide_eq_true_eq]; omega)
  unfold busEnd
  rw [unanswered]

theorem transfer_bits {t : Txn} (bs : List Bool) (h : t.first < 2944 ∨ 3071 < t.first) :
    transfer t (.bits bs) = transferAnswered t bs :=
  if_neg (by simp only [Txn.unpopulated, Bool.and_eq_true, decide_eq_true_eq]; omega)

theorem busEnd_good {t : Txn} {a again : Answer} {d : BitVec 16} (h : transfer t a = .good d) :
    busEnd t a again = .done d := by
  unfold busEnd
  rw [h]

theorem busEnd_repeated {t : Txn} {a again : Answer} {d : BitVec 16} (h : transfer t a = .bad)
    (k : transfer t again = .good d) : busEnd t a again = .done d := by
  unfold busEnd
  rw [h]
  dsimp only
  rw [k]

theorem busEnd_parity {t : Txn} {a again : Answer} (h : transfer t a = .bad) (k : transfer t again = .bad) :
    busEnd t a again = .parity := by
  unfold busEnd
  rw [h]
  dsimp only
  rw [k]

/-- The bits that an expander sends for a read: the data, and a parity bit after them. -/
theorem read_data {bs : List Bool} {n : Nat} (p : Bool) (length : bs.length = n) :
    (List.range n).map (answerBit (bs ++ [p])) = bs ∧ answerBit (bs ++ [p]) n = p := by
  subst length
  refine ⟨List.ext_getElem (by simp) fun k h _ => ?_, by simp [answerBit]⟩
  have low : k < bs.length := by simpa using h
  simp only [List.getElem_map, List.getElem_range, answerBit]
  rw [List.getD_append _ _ _ _ low, List.getD_eq_getElem _ _ low]

theorem parity_iff (xs : List Bool) (p : Bool) :
    p = oddParity xs ↔ (xs ++ [p]).countP id % 2 = 1 := by
  rw [List.countP_append]
  unfold oddParity
  cases p
  · simp
  · simp
    omega

theorem read_transfer {l n : Nat} {bs : List Bool} {p : Bool} (populated : l < 2944 ∨ 3071 < l)
    (length : bs.length = n) : transfer (.read l n) (.bits (bs ++ [p])) =
      if (fieldHead l n false ++ (bs ++ [p])).countP id % 2 = 1 then .good (packBits bs) else .bad := by
  rw [transfer_bits (t := .read l n) _ populated]
  obtain ⟨data, parity⟩ := read_data p length
  unfold transferAnswered
  dsimp only
  rw [data, parity, ← List.append_assoc]
  simp only [parity_iff]

theorem mem_driveFold (l m : Nat) (d : BitVec 16) : ∀ (n : Nat) (ms : List Nat),
    m ∈ (List.range n).foldl (fun xs k => driveLine (l + k) (d.getLsbD k) xs) ms ↔
      if l ≤ m ∧ m < l + n then d.getLsbD (m - l) = true else m ∈ ms
  | 0, ms => by simp
  | n + 1, ms => by
    rw [List.range_succ, List.foldl_append, List.foldl_cons, List.foldl_nil, mem_driveLine,
      mem_driveFold l m d n ms]
    by_cases last : m = l + n
    · rw [if_pos last, if_pos (by omega), last, Nat.add_sub_cancel_left]
    · rw [if_neg last]
      by_cases inside : l ≤ m ∧ m < l + n
      · rw [if_pos inside, if_pos (by omega)]
      · rw [if_neg inside, if_neg (by omega)]

/-! ### What the end leaves -/

theorem returns_iff (o : Owner) :
    o.returns = true ↔ o = .strobe ∨ ∃ i ignored, o = .slotActivate i ignored := by
  cases o <;> simp [Owner.returns]

theorem counted_iff (o : Owner) : o.counted = true ↔ o ≠ .activateField := by
  cases o <;> simp [Owner.counted]

/-- The bus freed, with the driven lines after the transaction. -/
def unbind (ms : List Nat) (s : State) : State := s.modBus fun b => { b with current := none, driven := ms }

theorem freeBus_done {t : OnBus} {d : BitVec 16} (s : State) (h : t.owner.returns = false) :
    freeBus t (.done d) s = unbind (driveTxn t.txn s.bus.driven) s := by
  unfold freeBus
  dsimp only
  rw [if_neg (by simp), h]
  rfl

theorem freeBus_returned {t : OnBus} {d : BitVec 16} (s : State) (h : t.owner.returns = true) :
    freeBus t (.done d) s = unbind s.bus.driven s := by
  unfold freeBus
  dsimp only
  rw [if_neg (by simp), h]
  rfl

theorem freeBus_noResponse (t : OnBus) (s : State) : freeBus t .noResponse s = unbind s.bus.driven s := by
  unfold freeBus
  dsimp only
  rw [if_neg (by simp)]
  rfl

theorem freeBus_parity (t : OnBus) (s : State) : freeBus t .parity s =
    (if t.owner = .activateField then id else occurEvent .lineBusError 1 false) (unbind s.bus.driven s) := by
  by_cases field : t.owner = .activateField
  · rw [if_pos field]
    exact if_neg fun h => (counted_iff _).1 h.2 field
  · rw [if_neg field]
    exact if_pos ⟨rfl, (counted_iff _).2 field⟩

/-- A property that neither the bus nor an occurrence changes is not changed by the end of a transaction. -/
theorem freeBus_keeps {α : Type} (f : State → α) (bus : ∀ g u, f (State.modBus u g) = f u)
    (event : ∀ u, f (occurEvent .lineBusError 1 false u) = f u) (t : OnBus) (e : BusEnd) (s : State) :
    f (freeBus t e s) = f s := by
  unfold freeBus
  dsimp only
  split
  · rw [event, bus]
  · rw [bus]

@[simp] theorem freeBus_link (t : OnBus) (e : BusEnd) (s : State) : (freeBus t e s).link = s.link :=
  freeBus_keeps State.link (fun _ _ => rfl) (fun u => occurEvent_link _ _ _ u) t e s

@[simp] theorem freeBus_zone (t : OnBus) (e : BusEnd) (s : State) : (freeBus t e s).zone = s.zone :=
  freeBus_keeps State.zone (fun _ _ => rfl) (fun u => occurEvent_zone _ _ _ u) t e s

@[simp] theorem freeBus_time (t : OnBus) (e : BusEnd) (s : State) : (freeBus t e s).time = s.time :=
  freeBus_keeps State.time (fun _ _ => rfl) (fun u => occurEvent_time _ _ _ u) t e s

@[simp] theorem freeBus_auth (t : OnBus) (e : BusEnd) (s : State) : (freeBus t e s).auth = s.auth :=
  freeBus_keeps State.auth (fun _ _ => rfl) (fun u => occurEvent_auth _ _ _ u) t e s

/-- Settles O25, by the answers to a transaction, the lines it drives, and the outcomes. -/
theorem transactionsEnd : Obligations.TransactionsEnd := by
  unfold Obligations.TransactionsEnd
  refine ⟨fun t first again => ⟨busEnd_silent t again, fun low high => busEnd_unpopulated first again ⟨low, high⟩⟩,
    fun l n d => ⟨rfl, rfl, rfl, rfl, rfl⟩, ?_, fun bs k low => packBits_getLsbD bs low,
    fun l n m d ms => ⟨?_, ?_, mem_driveFold l m d n ms, rfl, rfl⟩, fun t e d s => ?_⟩
  · intro l n d v p q bs cs ds again populated odd
    have nak : transfer (.write l n d) (.bits (false :: ds)) = .bad :=
      transfer_bits (t := .write l n d) _ populated
    have acked (again : Answer) : busEnd (.write l n d) (.bits (true :: ds)) again = .done 0 :=
      busEnd_good (transfer_bits (t := .write l n d) _ populated)
    have reads {bs : List Bool} {p : Bool} (length : bs.length = n) (good : odd (bs ++ [p])) :
        transfer (.read l n) (.bits (bs ++ [p])) = .good (packBits bs) :=
      (read_transfer populated length).trans (if_pos good)
    have fails {bs : List Bool} {p : Bool} (length : bs.length = n) (bad : ¬ odd (bs ++ [p])) :
        transfer (.read l n) (.bits (bs ++ [p])) = .bad :=
      (read_transfer populated length).trans (if_neg bad)
    refine ⟨busEnd_good (transfer_bits (t := .set l) _ populated),
      busEnd_good (transfer_bits (t := .clear l) _ populated), ?_, acked again,
      busEnd_repeated nak (transfer_bits (t := .write l n d) _ populated), busEnd_parity nak nak,
      fun length good => busEnd_good (reads length good),
      fun length length' bad good => busEnd_repeated (fails length bad) (reads length' good),
      fun length length' bad bad' => busEnd_parity (fails length bad) (fails length' bad')⟩
    refine busEnd_good ((transfer_bits (t := .test l) _ populated).trans ?_)
    cases v <;> rfl
  · exact (mem_driveLine l m true ms).trans (by by_cases same : m = l <;> simp [same])
  · exact (mem_driveLine l m false ms).trans (by by_cases same : m = l <;> simp [same])
  · intro frees returns
    have stays : t.owner.returns = false ↔ ¬ returns := by
      rw [← Bool.not_eq_true]
      exact not_congr (returns_iff _)
    refine ⟨fun done other => ?_, fun h => ?_, fun parity => ?_⟩
    · rw [done, freeBus_done s (stays.2 other)]
      rfl
    · rcases h with ⟨done, back⟩ | none
      · rw [done, freeBus_returned s ((returns_iff _).2 back)]
        rfl
      · rw [none, freeBus_noResponse]
        rfl
    · rw [parity, freeBus_parity]
      rfl

/-! ### The arbiter (R33 to R36) -/

/-- A transaction put on the bus, with its class taken over by `f`. -/
def grantedTo (t : OnBus) (n : Nat) (f : Bus → Bus) (s : State) : State :=
  s.modBus fun b => { f b with current := some t, grants := n }

theorem grantScan_some {s : State} {t : OnBus} (h : scanGrant s = some t) :
    grantScan s = grantedTo t 0 (fun b => { b with class4 := false }) s := by
  unfold grantScan
  rw [h]
  rfl

theorem arbitrate_scanFirst {s : State} {t : OnBus} (free : s.bus.current = none) (full : s.bus.grants = 16)
    (waits : s.bus.class4 = true) (next : scanGrant s = some t) :
    arbitrate s = grantedTo t 0 (fun b => { b with class4 := false }) s := by
  unfold arbitrate
  refine (if_neg (by rw [free]; exact Bool.false_ne_true)).trans ((if_pos ⟨full, waits, by rw [next]; rfl⟩).trans ?_)
  exact grantScan_some next

theorem arbitrate_byClass {s : State} (free : s.bus.current = none)
    (turn : s.bus.grants ≠ 16 ∨ s.bus.class4 = false) : arbitrate s = grantByClass s := by
  unfold arbitrate
  refine (if_neg (by rw [free]; exact Bool.false_ne_true)).trans (if_neg ?_)
  rintro ⟨full, waits, -⟩
  exact turn.elim (fun h => h full) (fun h => Bool.false_ne_true (h.symm.trans waits))

theorem grantByClass_due {s : State} {e : Class1} {es : List Class1} (first : s.bus.class1 = e :: es)
    (due : e.due s.bus = true) :
    grantByClass s = grantedTo (class1Grant s e) 0 (fun b => { b with class1 := es }) s := by
  have next : nextClass1 s.bus s.bus.class1 = some (e, es) := by
    rw [first]
    exact if_pos due
  unfold grantByClass
  rw [next]
  rfl

/-- Whether an entry has a transaction depends on the presence records alone. -/
theorem nextClass1_class1 (b : Bus) (xs : List Class1) : ∀ es : List Class1,
    nextClass1 { b with class1 := xs } es = nextClass1 b es
  | [] => rfl
  | e :: es => by
    have due : e.due { b with class1 := xs } = e.due b := by
      cases e with
      | held f => cases f <;> rfl
      | activateField => rfl
      | strobe => rfl
      | slotActivate i => rfl
    show (if e.due { b with class1 := xs } then some (e, es) else _) = if e.due b then some (e, es) else _
    rw [due, nextClass1_class1 b xs es]

theorem class1Grant_class1 (s : State) (es : List Class1) (e : Class1) :
    class1Grant (s.modBus fun b => { b with class1 := es }) e = class1Grant s e := by
  cases e with
  | held f => cases f <;> rfl
  | activateField => rfl
  | strobe => rfl
  | slotActivate i => rfl

/-- An entry whose FRU is not PRESENT leaves class 1 without a transaction (R34). -/
theorem grantByClass_notDue {s : State} {e : Class1} {es : List Class1} (first : s.bus.class1 = e :: es)
    (notDue : e.due s.bus = false) :
    grantByClass s = grantByClass (s.modBus fun b => { b with class1 := es }) := by
  have here : nextClass1 s.bus s.bus.class1 = nextClass1 s.bus es := by
    rw [first]
    exact if_neg (by rw [notDue]; exact Bool.false_ne_true)
  have there : nextClass1 (s.modBus fun b => { b with class1 := es }).bus es = nextClass1 s.bus es :=
    nextClass1_class1 _ _ _
  unfold grantByClass
  rw [here]
  show _ = match nextClass1 (s.modBus fun b => { b with class1 := es }).bus es with
    | some (e, es') => _
    | none => _
  rw [there]
  cases nextClass1 s.bus es with
  | none => rfl
  | some x =>
    dsimp only
    rw [class1Grant_class1]
    rfl

section
variable {s : State} (none1 : s.bus.class1 = [])
include none1

theorem modBus_noClass1 : (s.modBus fun b => { b with class1 := [] }) = s := by
  unfold State.modBus
  rw [← none1]

theorem grantByClass_loading {w : LoadWrite} (next : s.bus.class2 = some w) : grantByClass s =
    grantedTo ⟨.loading w.slot false, w.txn⟩ (min 16 (s.bus.grants + 1))
      (fun b => { b with class2 := none }) s := by
  unfold grantByClass
  rw [none1]
  simp only [nextClass1, modBus_noClass1 none1, next]
  rfl

theorem grantByClass_low (none2 : s.bus.class2 = none) : grantByClass s = grantLow s := by
  unfold grantByClass
  rw [none1]
  simp only [nextClass1, modBus_noClass1 none1, none2]

end

theorem grantLow_maint {s : State} {m : Cp × Txn} (pick : pickMaint s s.bus.class3 = some m) :
    grantLow s = grantedTo ⟨.maint m.1, m.2⟩ 0
      (fun b => { b with class3 := b.class3.filter fun x => x ≠ m }) s := by
  unfold grantLow
  rw [pick]
  rfl

theorem grantLow_noMaint {s : State} (none3 : s.bus.class3 = []) :
    grantLow s = if s.bus.class4 then grantScan s else s := by
  unfold grantLow
  rw [none3]
  rfl

theorem grantLow_one {s : State} {m : Cp × Txn} (one : s.bus.class3 = [m]) :
    grantLow s = grantedTo ⟨.maint m.1, m.2⟩ 0 (fun b => { b with class3 := [] }) s := by
  rw [grantLow_maint (m := m) (by rw [one]; unfold pickMaint; cases h : s.isHolder m.1 <;> simp [h])]
  unfold grantedTo State.modBus
  simp [one]

theorem grantLow_second {s : State} {m k : Cp × Txn} (two : s.bus.class3 = [m, k]) (apart : m.1 ≠ k.1)
    (holds : s.auth.holder = some k.1) :
    grantLow s = grantedTo ⟨.maint k.1, k.2⟩ 0 (fun b => { b with class3 := [m] }) s := by
  have first : s.isHolder m.1 = false := by simp [State.isHolder, holds, apart.symm]
  have second : s.isHolder k.1 = true := by simp [State.isHolder, holds]
  have other : m ≠ k := fun h => apart (congrArg Prod.fst h)
  rw [grantLow_maint (m := k) (by rw [two]; simp [pickMaint, first, second])]
  unfold grantedTo State.modBus
  simp [two, other]

theorem grantLow_first {s : State} {m k : Cp × Txn} (two : s.bus.class3 = [m, k]) (apart : m.1 ≠ k.1)
    (holds : s.auth.holder ≠ some k.1) :
    grantLow s = grantedTo ⟨.maint m.1, m.2⟩ 0 (fun b => { b with class3 := [k] }) s := by
  have second : s.isHolder k.1 = false := by simp [State.isHolder, holds]
  have other : k ≠ m := fun h => apart (congrArg Prod.fst h).symm
  rw [grantLow_maint (m := m) (by
    rw [two]; unfold pickMaint; cases h : s.isHolder m.1 <;> simp [h, second])]
  unfold grantedTo State.modBus
  simp [two, other]

/-- Settles O26, class by class. -/
theorem arbiterGrants : Obligations.ArbiterGrants := by
  unfold Obligations.ArbiterGrants
  intro s onto
  refine ⟨arbitrate_busy s, fun t => arbitrate_scanFirst, fun free turn => ?_,
    fun i h q y => ⟨rfl, rfl, rfl, rfl, rfl, rfl, rfl, rfl⟩⟩
  have byClass := arbitrate_byClass free turn
  refine ⟨fun e es first => ⟨fun due => byClass.trans (grantByClass_due first due), fun notDue => ?_⟩,
    fun w none1 next => byClass.trans (grantByClass_loading none1 next),
    fun m none1 none2 one => byClass.trans ((grantByClass_low none1 none2).trans (grantLow_one one)),
    fun m k none1 none2 two apart => ⟨fun holds => ?_, fun other => ?_⟩,
    fun t none1 none2 none3 waits next => ?_, fun none1 none2 none3 none4 => ?_⟩
  · refine byClass.trans ((grantByClass_notDue first notDue).trans ?_)
    exact (arbitrate_byClass (s := s.modBus fun b => { b with class1 := es }) free turn).symm
  · exact byClass.trans ((grantByClass_low none1 none2).trans (grantLow_second two apart holds))
  · exact byClass.trans ((grantByClass_low none1 none2).trans (grantLow_first two apart other))
  · refine byClass.trans ((grantByClass_low none1 none2).trans ((grantLow_noMaint none3).trans ?_))
    exact (if_pos waits).trans (grantScan_some next)
  · refine byClass.trans ((grantByClass_low none1 none2).trans ((grantLow_noMaint none3).trans ?_))
    exact if_neg (by rw [none4]; exact Bool.false_ne_true)

/-! ### Maintenance requests (R43 to R47) -/

theorem setMaintenanceField_badParam {target : Byte} {base length : BitVec 16} (s : State)
    (bad : (target.toNat ≠ 1 ∧ target.toNat ≠ 2) ∨ ¬ (3072 ≤ base.toNat ∧ base.toNat ≤ 4095
      ∧ length.toNat ≤ 1024 ∧ base.toNat + length.toNat ≤ 4096)) :
    setMaintenanceField target base length s = (s, .reply .badParam (encMaint s.bus)) := by
  unfold setMaintenanceField
  by_cases named : target.toNat ≠ 1 ∧ target.toNat ≠ 2
  · rw [cpOf_none named]
  · cases cpOf target with
    | none => rfl
    | some x => exact if_pos (by omega)

theorem setMaintenanceField_done {target : Byte} {x : Cp} {base length : BitVec 16} (s : State)
    (named : target.toNat = cpNumber x) (fits : 3072 ≤ base.toNat ∧ base.toNat ≤ 4095
      ∧ length.toNat ≤ 1024 ∧ base.toNat + length.toNat ≤ 4096) :
    setMaintenanceField target base length s =
      let t := s.modBus fun b => { b with maint := b.maint.put x ⟨base.toNat, length.toNat⟩ }
      (t, .reply .done (encMaint t.bus)) := by
  unfold setMaintenanceField
  rw [cpOf_some named]
  exact if_neg (by omega)

/-- Settles O23, by who asks and what it asks. -/
theorem maintenanceFieldIsSet : Obligations.MaintenanceFieldIsSet := by
  unfold Obligations.MaintenanceFieldIsSet
  intro c tag target base length s up released idle empty row fields fits
  let r : Request := .setMaintenanceField target base length
  have taken : row = .next (arbitrate (settleRequest c (r.frame tag) (judgeRequest c (r.frame tag) (s.heard c)))) :=
    (exec_command c tag r s).trans
      (by rw [handleFrame_ready c _ s r.code_ne_heartbeat up released idle empty])
  refine ⟨fun silent => ?_, fun audible other => ?_, fun audible holds bad => ?_,
    fun x audible holds named fits => ⟨_, rfl, ?_⟩⟩
  · rw [taken, judgeRequest_silent (s := s.heard c) _ silent]
    rfl
  · rw [taken, judgeRequest_notHolder (s := s.heard c) (r := r) audible (r.parse_params rfl) rfl other]
    rfl
  · exact exec_holder (r := r) ⟨up, released, idle, empty, audible⟩ holds rfl
      (setMaintenanceField_badParam _ bad)
  · exact exec_holder (r := r) ⟨up, released, idle, empty, audible⟩ holds rfl
      (setMaintenanceField_done _ named fits)

section
variable {c : Cp} {s : State} {first : BitVec 16} {count : Byte}

theorem maintLine_joins {kind : MaintKind} {txn : Nat → Txn} {line : BitVec 16}
    (inside : line.toNat < (s.bus.maint.get c).length) : maintLine c kind txn line s
      = joinMaint c kind (txn ((s.bus.maint.get c).base + line.toNat)) s := if_neg (by omega)

theorem maintLine_bounds {kind : MaintKind} {txn : Nat → Txn} {line : BitVec 16}
    (outside : (s.bus.maint.get c).length ≤ line.toNat) :
    maintLine c kind txn line s = (s, .reply .bounds []) := if_pos outside

theorem maintRange_joins {kind : MaintKind} {txn : Nat → Nat → Txn} (few : count.toNat ≤ 16)
    (inside : first.toNat + linesOf count.toNat ≤ (s.bus.maint.get c).length) :
    maintRange c kind txn first count s
      = joinMaint c kind (txn ((s.bus.maint.get c).base + first.toNat) (linesOf count.toNat)) s :=
  (if_neg (by omega)).trans (if_neg (by omega))

theorem maintRange_bounds {kind : MaintKind} {txn : Nat → Nat → Txn} (few : count.toNat ≤ 16)
    (outside : (s.bus.maint.get c).length < first.toNat + linesOf count.toNat) :
    maintRange c kind txn first count s = (s, .reply .bounds []) := (if_neg (by omega)).trans (if_pos outside)

theorem maintRange_badParam {kind : MaintKind} {txn : Nat → Nat → Txn} (many : 16 < count.toNat) :
    maintRange c kind txn first count s = (s, .reply .badParam []) := if_pos many

theorem senseRead_joins (low : first.toNat ≤ 3071) (few : count.toNat ≤ 16)
    (fits : fieldFits first.toNat (linesOf count.toNat) = true) : senseRead c first count s
      = joinMaint c .senseRead (.read first.toNat (linesOf count.toNat)) s :=
  (if_neg (by omega)).trans (if_pos fits)

theorem senseRead_bounds (low : first.toNat ≤ 3071) (few : count.toNat ≤ 16)
    (crosses : fieldFits first.toNat (linesOf count.toNat) = false) :
    senseRead c first count s = (s, .reply .bounds []) :=
  (if_neg (by omega)).trans (if_neg (by rw [crosses]; exact Bool.false_ne_true))

theorem senseRead_badParam (bad : 3071 < first.toNat ∨ 16 < count.toNat) :
    senseRead c first count s = (s, .reply .badParam []) := if_pos bad

end

/-- The ranges of the address space (R27). -/
def busRanges : List (Nat × Nat) :=
  (List.range 9).map (fun i => (256 * i, 256)) ++ (List.range 4).map (fun i => (2304 + 64 * i, 64))
    ++ (List.range 3).map (fun i => (2560 + 128 * i, 128)) ++ [(2944, 128), (3072, 1024)]

theorem mem_busRanges {r : Nat × Nat} : r ∈ busRanges ↔
    (∃ i < 9, (256 * i, 256) = r) ∨ (∃ i < 4, (2304 + 64 * i, 64) = r)
      ∨ (∃ i < 3, (2560 + 128 * i, 128) = r) ∨ r = (2944, 128) ∨ r = (3072, 1024) := by
  simp [busRanges]

theorem rangeOf_mem {l : Nat} (low : l < 4096) :
    rangeOf l ∈ busRanges ∧ (rangeOf l).1 ≤ l ∧ l < (rangeOf l).1 + (rangeOf l).2 := by
  rw [mem_busRanges]
  unfold rangeOf
  split_ifs with h1 h2 h3 h4
  · exact ⟨.inl ⟨l / 256, by omega, Prod.ext (Nat.mul_comm _ _) rfl⟩, by dsimp only; omega⟩
  · exact ⟨.inr (.inl ⟨(l - 2304) / 64, by omega, by rw [Nat.mul_comm]⟩), by dsimp only; omega⟩
  · exact ⟨.inr (.inr (.inl ⟨(l - 2560) / 128, by omega, by rw [Nat.mul_comm]⟩)), by dsimp only; omega⟩
  · exact ⟨.inr (.inr (.inr (.inl rfl))), by dsimp only; omega⟩
  · exact ⟨.inr (.inr (.inr (.inr rfl))), by dsimp only; omega⟩

/-- A line lies in one range. -/
theorem rangeOf_unique {l : Nat} {r : Nat × Nat} (mem : r ∈ busRanges) (low : r.1 ≤ l)
    (high : l < r.1 + r.2) : rangeOf l = r := by
  unfold rangeOf
  rcases mem_busRanges.1 mem with ⟨i, less, rfl⟩ | ⟨i, less, rfl⟩ | ⟨i, less, rfl⟩ | rfl | rfl
  · dsimp only at low high
    rw [if_pos (by omega)]
    exact Prod.ext (by dsimp only; omega) rfl
  · dsimp only at low high
    rw [if_neg (by omega), if_pos (by omega)]
    exact Prod.ext (by dsimp only; omega) rfl
  · dsimp only at low high
    rw [if_neg (by omega), if_neg (by omega), if_pos (by omega)]
    exact Prod.ext (by dsimp only; omega) rfl
  · dsimp only at low high
    rw [if_neg (by omega), if_neg (by omega), if_neg (by omega), if_pos (by omega)]
  · dsimp only at low high
    rw [if_neg (by omega), if_neg (by omega), if_neg (by omega), if_neg (by omega)]

theorem fieldFits_iff {l n : Nat} (low : l < 4096) : fieldFits l n = true ↔
    ∃ r ∈ busRanges, r.1 ≤ l ∧ l < r.1 + r.2 ∧ l + n ≤ r.1 + r.2 := by
  obtain ⟨mem, start, stop⟩ := rangeOf_mem low
  have fits : fieldFits l n = true ↔ l + n ≤ (rangeOf l).1 + (rangeOf l).2 := by simp [fieldFits, low]
  rw [fits]
  refine ⟨fun h => ⟨_, mem, start, stop, h⟩, fun ⟨r, mem, start, stop, h⟩ => ?_⟩
  rwa [rangeOf_unique mem start stop]

theorem completeRequest_current {c : Cp} {tag : BitVec 4} {code : Byte} {ph : Phase} {dropped : Bool}
    {s : State} (o : OutcomeCode) (bs : List Byte)
    (current : (s.link.get c).current = some ⟨tag, code, ph, dropped⟩) :
    completeRequest c o bs s = serveQueue c
      (if dropped then s.modLink c (fun p => { p with current := none })
        else (s.modLink c (fun p => { p with current := none })).answered c tag code o bs) := by
  unfold completeRequest
  rw [current]
  rfl

theorem maintEnded_current {c : Cp} {x : Txn} {tag : BitVec 4} {code : Byte} {kind : MaintKind} {l n : Nat}
    {dropped : Bool} {e : BusEnd} {s : State}
    (current : (s.link.get c).current = some ⟨tag, code, .lineBus kind l n, dropped⟩) :
    maintEnded ⟨.maint c, x⟩ e s = completeRequest c e.outcome (lineBusResults kind l n e) s := by
  unfold maintEnded
  dsimp only
  rw [current]

theorem BusEnd.outcome_eq (e : BusEnd) : e.outcome =
    match e with
    | .done _ => .done
    | .noResponse => .noResponse
    | .parity => .parity := by cases e <;> rfl

/-- The results of a line-bus request, by its kind and its outcome. -/
theorem lineBusResults_eq (kind : MaintKind) (l n : Nat) (e : BusEnd) : lineBusResults kind l n e =
    match kind, e with
    | .test, .done d => u16 l ++ u8 d.toNat
    | .fieldRead, .done d => u16 l ++ u8 n ++ u16 d.toNat
    | .senseRead, .done d => u16 d.toNat
    | .senseRead, _ => []
    | .fieldRead, _ | .fieldWrite, _ => u16 l ++ u8 n
    | .test, _ | .set, _ | .clear, _ => u16 l := by
  cases kind <;> cases e <;> simp [lineBusResults, BusEnd.data]

/-- Settles O24: the requests by their checks, the ranges, and the end of a maintenance transaction. -/
theorem lineBusRequestsGoThroughTheArbiter : Obligations.LineBusRequestsGoThroughTheArbiter := by
  unfold Obligations.LineBusRequestsGoThroughTheArbiter
  refine ⟨?_, fun l n low => fieldFits_iff low, ?_⟩
  · intro c tag line first count data s ready f n joins refused
    have waits {r : Request} {kind : MaintKind} {t : Txn} (any : r.holderOnly = false) (fits : r.fits = true)
        (served : serveRequest c r (s.heard c) = joinMaint c kind t (s.heard c)) :
        joins (r.command c tag) r.code kind t t.first t.lines :=
      exec_waits c tag r s _ _ ready fits (by simp [any]) served
    have refuses {r : Request} {o : OutcomeCode} (any : r.holderOnly = false) (fits : r.fits = true)
        (served : serveRequest c r (s.heard c) = (s.heard c, .reply o [])) : refused (r.command c tag) r.code o :=
      exec_anyCp ready any fits served
    refine ⟨fun inside => ⟨?_, ?_, ?_⟩, fun outside => ⟨?_, ?_, ?_⟩, fun few inside => ⟨?_, ?_⟩,
      fun few outside => ⟨?_, ?_⟩, fun many => ⟨?_, ?_⟩, fun low few fits => ?_, fun low few crosses => ?_,
      fun bad => ?_⟩
    · exact waits (r := .maintTest line) rfl rfl (maintLine_joins (s := s.heard c) inside)
    · exact waits (r := .maintSet line) rfl rfl (maintLine_joins (s := s.heard c) inside)
    · exact waits (r := .maintClear line) rfl rfl (maintLine_joins (s := s.heard c) inside)
    · exact refuses (r := .maintTest line) rfl rfl (maintLine_bounds (s := s.heard c) outside)
    · exact refuses (r := .maintSet line) rfl rfl (maintLine_bounds (s := s.heard c) outside)
    · exact refuses (r := .maintClear line) rfl rfl (maintLine_bounds (s := s.heard c) outside)
    · exact waits (r := .maintFieldRead first count) rfl rfl (maintRange_joins (s := s.heard c) few inside)
    · exact waits (r := .maintFieldWrite first count data) rfl rfl
        (maintRange_joins (s := s.heard c) (txn := fun a n => .write a n data) few inside)
    · exact refuses (r := .maintFieldRead first count) rfl rfl (maintRange_bounds (s := s.heard c) few outside)
    · exact refuses (r := .maintFieldWrite first count data) rfl rfl
        (maintRange_bounds (s := s.heard c) (txn := fun a n => .write a n data) few outside)
    · exact refuses (r := .maintFieldRead first count) rfl rfl (maintRange_badParam many)
    · exact refuses (r := .maintFieldWrite first count data) rfl rfl
        (maintRange_badParam (txn := fun a n => .write a n data) many)
    · exact waits (r := .senseRead first count) rfl rfl (senseRead_joins low few fits)
    · exact refuses (r := .senseRead first count) rfl rfl (senseRead_bounds low few crosses)
    · exact refuses (r := .senseRead first count) rfl rfl (senseRead_badParam bad)
  · intro c first again x tag code kind l n dropped s u onBus current e freed outcome results
    have current' : ((freeBus ⟨.maint c, x⟩ e s).link.get c).current
        = some ⟨tag, code, .lineBus kind l n, dropped⟩ := by rw [freeBus_link]; exact current
    refine (endOf_mine (mine := Owner.isMaint) (act := maintEnded) onBus rfl).trans ?_
    rw [show busEnd (OnBus.mk (.maint c) x).txn first again = e from rfl, maintEnded_current current',
      completeRequest_current _ _ current', ← freed]
    exact congrArg _ (congrArg _ (congrArg (serveQueue c) (congrArg (ite _ u)
      (congrArg₂ (fun o bs => u.answered c tag code o bs) e.outcome_eq (lineBusResults_eq kind l n e)))))

end Sys2Proof.Machine
end


-- ==== Sys2Proof/Proofs/Distribution.lean ====
section
/-! SUPPORT. The Distribution Engine: how it goes on from each of its states, what a main distribution starts from,
the loads write by write, and the acknowledgements. -/

namespace Sys2Proof.Machine

@[simp] theorem freeBus_power (t : OnBus) (e : BusEnd) (s : State) : (freeBus t e s).power = s.power :=
  freeBus_keeps State.power (fun _ _ => rfl) (fun u => occurEvent_power _ _ _ u) t e s

/-! ### Slots in order -/

/-- The first slot of a property, with none below it. -/
theorem find_lowestSlot {f : Slot → Bool} {i : Slot} (here : f i = true) (below : ∀ j, j < i → f j = false) :
    allSlots.find? f = some i := by
  refine List.find?_eq_some_iff_getElem.2 ⟨here, i.val, by simp [allSlots], by simp [allSlots], fun j less => ?_⟩
  have low : j < 8 := by omega
  have none := below ⟨j, low⟩ less
  simpa [allSlots] using none

theorem any_allSlots {f : Slot → Bool} : allSlots.any f = true ↔ ∃ i, f i = true := by
  simp [mem_allSlots]

/-! ### How the engine goes on (R143, R144, R147, R154) -/

theorem goOn_idle {s : State} (h : s.zone.main = .idle) : goOn s = serveCatchUp s := by
  unfold goOn
  rw [h]

theorem goOn_still {s : State}
    (h : s.zone.main = .awaitActivate ∨ s.zone.main = .activating ∨ s.zone.main = .failed) : goOn s = s := by
  unfold goOn
  rcases h with h | h | h <;> rw [h]

theorem goOn_occupied {s : State} (main : s.zone.main = .distributing)
    (h : s.zone.job ≠ none ∨ s.zone.catchUpSlot ≠ none) : goOn s = s := by
  unfold goOn
  rw [main]
  exact if_pos (by simpa [Option.isSome_iff_ne_none] using h)

theorem goOn_queued {s : State} {i : Slot} (main : s.zone.main = .distributing) (free : s.zone.job = none)
    (none : s.zone.catchUpSlot = none) (first : (allSlots.find? fun i => s.statusOf i = some .queued) = some i) :
    goOn s = beginLoad i true (modZoneSlot i (fun r => { r with status := some .loading }) s) := by
  unfold goOn
  rw [main]
  refine (if_neg (by simp [free, none])).trans ?_
  rw [first]

theorem goOn_judges {s : State} (main : s.zone.main = .distributing) (free : s.zone.job = none)
    (none : s.zone.catchUpSlot = none) (loaded : ∀ i, s.statusOf i ≠ some .queued) :
    goOn s = judgeComplete s := by
  unfold goOn
  rw [main]
  refine (if_neg (by simp [free, none])).trans ?_
  have all : (allSlots.find? fun i => decide (s.statusOf i = some .queued)) = .none :=
    List.find?_eq_none.2 fun i _ => by simpa using loaded i
  rw [all]

theorem serveCatchUp_none {s : State}
    (h : s.zone.catchUpSlot ≠ none ∨ ∀ i, (s.zone.slots.get i).catchUp = false) : serveCatchUp s = s := by
  unfold serveCatchUp
  by_cases busy : s.zone.catchUpSlot.isSome = true
  · exact if_pos busy
  · refine (if_neg busy).trans ?_
    have none : ∀ i, (s.zone.slots.get i).catchUp = false :=
      h.resolve_left fun k => busy (Option.isSome_iff_ne_none.2 k)
    have empty : catchUpSet s = [] := by simp [catchUpSet, none]
    rw [empty]

theorem serveCatchUp_lowest {s : State} {i : Slot} (free : s.zone.catchUpSlot = none)
    (here : (s.zone.slots.get i).catchUp = true) (below : ∀ j, j < i → (s.zone.slots.get j).catchUp = false) :
    serveCatchUp s = beginLoad i false (s.modZone fun z => { z with catchUpSlot := some i }) := by
  unfold serveCatchUp
  refine (if_neg (by simp [free])).trans ?_
  have head : (catchUpSet s).head? = some i := List.head?_filter.trans (find_lowestSlot here below)
  cases set : catchUpSet s with
  | nil => rw [set] at head; cases head
  | cons j rest =>
    rw [set] at head
    cases head
    rfl

/-- Some slot of the set still waits for its load. -/
theorem unfinished_iff (s : State) : (allSlots.any fun i => (s.statusOf i).any SetStatus.unfinished) = true ↔
    ∃ i, s.statusOf i = some .queued ∨ s.statusOf i = some .loading ∨ s.statusOf i = some .awaitAck := by
  rw [any_allSlots]
  refine exists_congr fun i => ?_
  cases s.statusOf i with
  | none => simp
  | some x => cases x <;> simp [SetStatus.unfinished]

theorem judgeComplete_waits {s : State}
    (h : ∃ i, s.statusOf i = some .queued ∨ s.statusOf i = some .loading ∨ s.statusOf i = some .awaitAck) :
    judgeComplete s = s := if_pos ((unfinished_iff s).2 h)

theorem judgeComplete_failed {s : State} (done : ¬ ∃ i, s.statusOf i = some .queued
      ∨ s.statusOf i = some .loading ∨ s.statusOf i = some .awaitAck)
    (failed : ∃ i, s.statusOf i = some .failedLoad) :
    judgeComplete s = occurEvent .zoneDistFail 1 false (s.modZone fun z => { z with main := .failed }) :=
  (if_neg fun h => done ((unfinished_iff s).1 h)).trans (if_pos (any_allSlots.2 (by simpa using failed)))

theorem judgeComplete_done {s : State} (done : ¬ ∃ i, s.statusOf i = some .queued
      ∨ s.statusOf i = some .loading ∨ s.statusOf i = some .awaitAck)
    (good : ¬ ∃ i, s.statusOf i = some .failedLoad) :
    judgeComplete s = if s.zone.hold = some true then s.modZone fun z => { z with main := .awaitActivate }
      else joinClass1 .activateField (s.modZone fun z => { z with main := .activating }) :=
  (if_neg fun h => done ((unfinished_iff s).1 h)).trans
    (if_neg fun h => good (by simpa using any_allSlots.1 h))

/-! ### What a load that begins leaves -/

theorem ignoredOnBus_iff (b : Bus) : ignoredOnBus b = true ↔
    ∃ i x, b.current = some ⟨.loading i true, x⟩ ∨ b.current = some ⟨.slotActivate i true, x⟩ := by
  unfold ignoredOnBus
  split
  · rename_i j ignored x current
    rw [current]
    cases ignored <;> simp
  · rename_i j ignored x current
    rw [current]
    cases ignored <;> simp
  · rename_i noLoad noPulse
    refine ⟨nofun, fun ⟨i, x, h⟩ => ?_⟩
    rcases h with h | h
    · exact absurd h (noLoad i true x)
    · exact absurd h (noPulse i true x)

theorem requestLoad_waits {s : State} (h : s.zone.job = none ∨ ignoredOnBus s.bus = true) :
    requestLoad s = s := by
  unfold requestLoad
  split
  · rfl
  · rename_i j job
    exact if_pos (h.resolve_left (by rw [job]; simp))

theorem requestLoad_asks {s : State} {j : LoadJob} (job : s.zone.job = some j)
    (free : ignoredOnBus s.bus = false) :
    requestLoad s = s.modBus fun b => { b with class2 := some ⟨j.slot, loadTxn s j⟩ } := by
  unfold requestLoad
  rw [job]
  exact if_neg (by rw [free]; exact Bool.false_ne_true)

/-- A request of the engine changes class 2 alone. -/
theorem requestLoad_class2 (s : State) : ∃ w, requestLoad s = s.modBus fun b => { b with class2 := w } := by
  cases job : s.zone.job with
  | none => exact ⟨s.bus.class2, requestLoad_waits (.inl job)⟩
  | some j =>
    cases busy : ignoredOnBus s.bus with
    | true => exact ⟨s.bus.class2, requestLoad_waits (.inr busy)⟩
    | false => exact ⟨_, requestLoad_asks job busy⟩

@[simp] theorem requestLoad_zone (s : State) : (requestLoad s).zone = s.zone := by
  obtain ⟨w, h⟩ := requestLoad_class2 s
  rw [h]
  rfl

@[simp] theorem requestLoad_auth (s : State) : (requestLoad s).auth = s.auth := by
  obtain ⟨w, h⟩ := requestLoad_class2 s
  rw [h]
  rfl

theorem beginLoad_zone (i : Slot) (main : Bool) (s : State) :
    (beginLoad i main s).zone = { s.zone with job := some ⟨i, main, .generation⟩ } := requestLoad_zone _

theorem modZoneSlot_get (i k : Slot) (f : ZoneSlot → ZoneSlot) (s : State) :
    (modZoneSlot i f s).zone.slots.get k = if k = i then f (s.zone.slots.get i) else s.zone.slots.get k := by
  show (updAt s.zone.slots i f).get k = _
  by_cases same : k = i
  · rw [same, updAt_self, if_pos rfl]
  · rw [updAt_ne _ _ _ _ same, if_neg same]

/-- What the engine keeps while it goes on in a main distribution. -/
structure KeepsSet (s t : State) : Prop where
  hold : t.zone.hold = s.zone.hold
  pending : t.zone.pending = s.zone.pending
  active : t.zone.active = s.zone.active
  staging : t.zone.staging = s.zone.staging
  txn : t.zone.txn = s.zone.txn
  catchUpSlot : t.zone.catchUpSlot = s.zone.catchUpSlot
  power : t.power = s.power
  auth : t.auth = s.auth
  members : ∀ i, (t.statusOf i).isSome = (s.statusOf i).isSome
  loaded : ∀ i, (t.zone.slots.get i).loaded = (s.zone.slots.get i).loaded
  catchUp : ∀ i, (t.zone.slots.get i).catchUp = (s.zone.slots.get i).catchUp

theorem KeepsSet.refl (s : State) : KeepsSet s s :=
  ⟨rfl, rfl, rfl, rfl, rfl, rfl, rfl, rfl, fun _ => rfl, fun _ => rfl, fun _ => rfl⟩

theorem keepsSet_main {s t : State} {m : EngineState} (zone : t.zone = { s.zone with main := m })
    (power : t.power = s.power) (auth : t.auth = s.auth) : KeepsSet s t := by
  refine ⟨?_, ?_, ?_, ?_, ?_, ?_, power, auth, fun i => ?_, fun i => ?_, fun i => ?_⟩
  case refine_7 => show ((t.zone.slots.get i).status).isSome = _; rw [zone]; rfl
  all_goals rw [zone]

theorem keepsSet_judgeComplete (s : State) : KeepsSet s (judgeComplete s) := by
  unfold judgeComplete
  split
  · exact .refl s
  · split
    · exact keepsSet_main (m := .failed) (by simp) (by simp) (by simp)
    · split
      · exact keepsSet_main (m := .awaitActivate) rfl rfl rfl
      · exact keepsSet_main (m := .activating) (by simp) (by simp) (by simp)

theorem keepsSet_load {s : State} {i : Slot} (queued : s.statusOf i = some .queued) :
    KeepsSet s (beginLoad i true (modZoneSlot i (fun r => { r with status := some .loading }) s)) := by
  have slots : ∀ k, (beginLoad i true (modZoneSlot i (fun r => { r with status := some .loading }) s)).zone.slots.get k
      = if k = i then { s.zone.slots.get i with status := some .loading } else s.zone.slots.get k := fun k => by
    rw [beginLoad_zone]
    exact modZoneSlot_get i k _ s
  refine ⟨?_, ?_, ?_, ?_, ?_, ?_, by simp, requestLoad_auth _, fun k => ?_, fun k => ?_, fun k => ?_⟩
  case refine_7 =>
    show ((State.zone _).slots.get k).status.isSome = _
    rw [slots]
    split
    · rename_i same
      rw [same, queued]
      rfl
    · rfl
  case refine_8 => rw [slots]; split <;> simp [*]
  case refine_9 => rw [slots]; split <;> simp [*]
  all_goals rw [beginLoad_zone]; rfl

theorem keepsSet_goOn {s : State} (main : s.zone.main = .distributing) : KeepsSet s (goOn s) := by
  by_cases busy : s.zone.job ≠ none ∨ s.zone.catchUpSlot ≠ none
  · rw [goOn_occupied main busy]
    exact .refl s
  · obtain ⟨free, none⟩ := not_or.1 busy
    rw [ne_eq, not_not] at free none
    cases first : allSlots.find? fun i => s.statusOf i = some .queued with
    | some i =>
      rw [goOn_queued main free none first]
      exact keepsSet_load (by simpa using List.find?_some first)
    | none =>
      have loaded : ∀ i, s.statusOf i ≠ some .queued := fun i => by
        simpa using List.find?_eq_none.1 first i (mem_allSlots i)
      rw [goOn_judges main free none loaded]
      exact keepsSet_judgeComplete s

/-! ### The start of a main distribution (R143) -/

theorem foldl_modZoneSlot_slots (g : Slot → ZoneSlot → ZoneSlot) : ∀ (l : List Slot) (s : State),
    ∃ v, l.foldl (fun t i => modZoneSlot i (g i) t) s = s.modZone fun z => { z with slots := v }
  | [], s => ⟨s.zone.slots, rfl⟩
  | i :: l, s => by
    obtain ⟨v, h⟩ := foldl_modZoneSlot_slots g l (modZoneSlot i (g i) s)
    exact ⟨v, h⟩

/-- A walk over all slots replaces the zone records by the walk's own. -/
theorem foldl_modZoneSlot_all (g : Slot → ZoneSlot → ZoneSlot) (s : State) :
    ∃ v : Vector ZoneSlot 8, (∀ k, v.get k = g k (s.zone.slots.get k))
      ∧ allSlots.foldl (fun t i => modZoneSlot i (g i) t) s = s.modZone fun z => { z with slots := v } := by
  obtain ⟨v, h⟩ := foldl_modZoneSlot_slots g allSlots s
  refine ⟨v, fun k => ?_, h⟩
  have get := foldl_modZoneSlot_get g k allSlots s (List.nodup_finRange 8)
  rw [h, if_pos (mem_allSlots k)] at get
  exact get

/-- The records from which the engine goes on at the start of a main distribution. -/
def entered (hold : Bool) (v : Vector ZoneSlot 8) (s : State) : State :=
  s.modZone fun z => { z with main := .distributing, hold := some hold, slots := v }

theorem startMain_entered (hold : Bool) (s : State) : ∃ v : Vector ZoneSlot 8,
    (∀ k, v.get k = enterSet s k (s.zone.slots.get k)) ∧ startMain hold s = goOn (entered hold v s) := by
  obtain ⟨v, get, h⟩ := foldl_modZoneSlot_all (enterSet s) s
  refine ⟨v, get, ?_⟩
  unfold startMain
  rw [h]
  rfl

theorem enterSet_status {s : State} {i : Slot} (outside : s.statusOf i = none) :
    (enterSet s i (s.zone.slots.get i)).status = if s.isPowered i then some .queued else none := by
  unfold enterSet
  split
  · rfl
  · exact outside

theorem enterSet_loaded (s : State) (i : Slot) (r : ZoneSlot) : (enterSet s i r).loaded = r.loaded := by
  unfold enterSet
  split <;> rfl

theorem enterSet_catchUp (s : State) (i : Slot) (r : ZoneSlot) : (enterSet s i r).catchUp = true ↔
    r.catchUp = true ∧ (s.isPowered i = true → s.zone.catchUpSlot = some i) := by
  unfold enterSet
  split
  · rename_i powered
    simp [powered]
  · rename_i powered
    simp [powered]

/-! ### The commit (R141, R134) -/

theorem hasRow_eq (tbl : ZoneTable) (p : Port) : hasRow tbl p = allPorts.any fun q => reach tbl p q := by
  rw [Bool.eq_iff_iff]
  simp only [hasRow, allPorts, List.any_eq_true, List.mem_finRange, true_and, reach_iff, Bool.and_eq_true,
    decide_eq_true_eq]
  constructor
  · rintro ⟨z, mem, q, -, other, joins⟩
    exact ⟨q, other, z, mem, joins⟩
  · rintro ⟨q, other, z, mem, joins⟩
    exact ⟨z, mem, q, ((joins_iff z p q).1 joins).2.1, other, joins⟩

theorem commitCounts_bytes (staged : ZoneTable) (s : State) (l : Level) : commitCounts staged s l =
    u16 l.generation.toNat ++ u16 l.table.length ++ u16 (entryCount l.table)
      ++ u16 (staged.length - l.table.length)
      ++ u16 (allPorts.filter fun p => allPorts.any fun q => reach l.table p q).length
      ++ u16 ((allPorts.filter fun p => l.table.any fun z => z.members.contains p).filter
          fun p => !(s.portExists p && s.lic.grants.any fun g => g.port = p)).length
      ++ u16 (l.table.filter fun z => z.isPeer && z.principals.isEmpty).length := by
  have rows : allPorts.filter (hasRow l.table) = allPorts.filter fun p => allPorts.any fun q => reach l.table p q :=
    List.filter_congr fun p _ => hasRow_eq l.table p
  unfold commitCounts
  rw [rows, show encCounts l.table = u16 l.table.length ++ u16 (entryCount l.table) from rfl,
    ← List.append_assoc (encGeneration l.generation)]
  rfl

theorem startMain_link (hold : Bool) (s : State) : (startMain hold s).link = s.link :=
  (moves_startMain hold (.refl s)).kept.link

/-- Settles O52: the commit, the start of a main distribution, and how the engine goes on. -/
theorem commitStartsTheDistribution : Obligations.CommitStartsTheDistribution := by
  unfold Obligations.CommitStartsTheDistribution
  refine ⟨fun i hold dropped tag s computing current => ?_, fun hold s t start outside => ?_, fun s => ?_⟩
  · refine ⟨_, _, _, rfl, rfl, rfl, ?_⟩
    show execCommitComputationComplete s = _
    unfold execCommitComputationComplete completeCommit
    rw [computing]
    show Host.Outcome.next (arbitrate (completeRequest i.owner .done _ _)) = _
    rw [completeRequest_current (tag := tag) (code := 0x58) (ph := .commit) (dropped := dropped) _ _
      (by rw [startMain_link]; exact current), commitCounts_bytes]
    rfl
  · obtain ⟨v, slots, goes⟩ := startMain_entered hold s
    have kept : KeepsSet (entered hold v s) t := by
      rw [start, goes]
      exact keepsSet_goOn rfl
    have status : ∀ i, (entered hold v s).statusOf i = if s.isPowered i then some .queued else none := fun i =>
      (congrArg ZoneSlot.status (slots i)).trans (enterSet_status (outside i))
    refine ⟨List.filter_congr fun i _ => ?_, kept.hold, kept.pending, kept.active, kept.staging, kept.txn,
      kept.catchUpSlot, kept.power, kept.auth, fun i => ⟨?_, ?_⟩, fun busy => ?_, fun none free =>
      ⟨fun i only quiet => ?_, fun off => ?_⟩⟩
    · rw [kept.members, status]
      split <;> simp [*]
    · rw [kept.loaded]
      exact (congrArg ZoneSlot.loaded (slots i)).trans (enterSet_loaded s i _)
    · rw [kept.catchUp, show ((entered hold v s).zone.slots.get i) = _ from slots i]
      exact enterSet_catchUp s i _
    · have still : t = entered hold v s := by
        rw [start, goes]
        exact goOn_occupied rfl (.inr (Option.isSome_iff_ne_none.1 busy))
      rw [still]
      exact ⟨rfl, rfl, fun i powered => (status i).trans (if_pos powered)⟩
    · have first : (allSlots.find? fun j => (entered hold v s).statusOf j = some .queued) = some i := by
        refine find_lowestSlot ?_ fun j below => ?_
        · rw [status, if_pos ((only i).2 rfl)]
          rfl
        · rw [status, if_neg fun powered => absurd ((only j).1 powered) (ne_of_lt below)]
          rfl
      have begun : t = _ := start.trans (goes.trans (goOn_queued (s := entered hold v s) rfl free none first))
      have zone : t.zone = _ := (congrArg State.zone begun).trans (beginLoad_zone _ _ _)
      have asked : beginLoad i true (modZoneSlot i (fun r => { r with status := some .loading }) (entered hold v s))
          = _ := requestLoad_asks rfl (by
        show ignoredOnBus s.bus = false
        unfold ignoredOnBus
        rw [quiet])
      refine ⟨by rw [zone]; rfl, ?_, by rw [zone], ?_⟩
      · show (t.zone.slots.get i).status = _
        rw [zone]
        exact (congrArg ZoneSlot.status (modZoneSlot_get i i _ (entered hold v s))).trans (by rw [if_pos rfl])
      · rw [begun, asked]
        rfl
    · have noStatus : ∀ i, (entered hold v s).statusOf i = .none := fun i => by
        rw [status, off]
        rfl
      have judged : t = _ := start.trans (goes.trans ((goOn_judges (s := entered hold v s) rfl free none
        (by simp [noStatus])).trans (judgeComplete_done (by simp [noStatus]) (by simp [noStatus]))))
      rw [judged]
      cases hold with
      | true =>
        rw [if_pos rfl]
        exact ⟨rfl, (List.append_nil _).symm⟩
      | false =>
        rw [if_neg (by simp [entered, State.modZone])]
        exact ⟨rfl, rfl⟩
  · intro lowest begins quiet unfinished failed
    refine ⟨goOn_still, goOn_idle, serveCatchUp_none, fun i free low => ?_, goOn_occupied, fun i quiet low => ?_,
      fun ⟨main, free, vacant⟩ loaded => ⟨fun waits => ?_, fun done failed => ?_, fun done good hold => ?_,
      fun done good hold => ?_⟩⟩
    · exact serveCatchUp_lowest free low.1 fun j below => Bool.not_eq_true _ ▸ low.2 j below
    · obtain ⟨main, free, vacant⟩ := quiet
      exact goOn_queued main free vacant (find_lowestSlot (decide_eq_true low.1) fun j below =>
        decide_eq_false (low.2 j below))
    · exact (goOn_judges main free vacant loaded).trans (judgeComplete_waits waits)
    · exact (goOn_judges main free vacant loaded).trans (judgeComplete_failed done failed)
    · exact (goOn_judges main free vacant loaded).trans ((judgeComplete_done done good).trans (if_pos hold))
    · exact (goOn_judges main free vacant loaded).trans ((judgeComplete_done done good).trans (if_neg hold))

end Sys2Proof.Machine
end


-- ==== Sys2Proof/Proofs/Loads.lean ====
section
/-! SUPPORT. The writes of a load and their ends, the acknowledgement deadline, the activation, and the requests
of the holder to the Distribution Engine. -/

namespace Sys2Proof.Machine

/-! ### Outcomes -/

theorem BusEnd.data_ne_none {e : BusEnd} (h : e.data ≠ none) : ∃ d, e = .done d := by
  cases e with
  | done d => exact ⟨d, rfl⟩
  | noResponse => exact absurd rfl h
  | parity => exact absurd rfl h

theorem BusEnd.data_eq_none {e : BusEnd} (h : e.data = none) : e = .noResponse ∨ e = .parity := by
  cases e with
  | done d => cases h
  | noResponse => exact .inl rfl
  | parity => exact .inr rfl

theorem modZoneSlot_modZoneSlot (i : Slot) (f g : ZoneSlot → ZoneSlot) (s : State) :
    modZoneSlot i g (modZoneSlot i f s) = modZoneSlot i (fun r => g (f r)) s := by
  have slots : updAt (updAt s.zone.slots i f) i g = updAt s.zone.slots i fun r => g (f r) := by
    unfold updAt
    rw [Vector.set_set]
    exact congrArg (fun r => s.zone.slots.set i.val (g r) i.isLt) (updAt_self s.zone.slots i f)
  exact congrArg (fun v => s.modZone fun z => { z with slots := v }) slots

/-! ### The end of a loading write (R144, R155) -/

section
variable {e : BusEnd} {j : LoadJob} {s : State}

theorem loadingEnded_free (free : s.zone.job = none) : loadingEnded false e s = s := by
  unfold loadingEnded
  rw [free]
  rfl

theorem loadingEnded_next {n : LoadStep} (job : s.zone.job = some j) (done : e.data ≠ none)
    (next : j.step.next (portCount s j.slot) = some n) :
    loadingEnded false e s = requestLoad (s.modZone fun z => { z with job := some { j with step := n } }) := by
  obtain ⟨d, rfl⟩ := BusEnd.data_ne_none done
  unfold loadingEnded
  rw [job]
  refine (if_neg Bool.false_ne_true).trans ?_
  dsimp only
  rw [next]

theorem loadingEnded_loaded (job : s.zone.job = some j) (done : e.data ≠ none) (last : j.step = .loadDone) :
    loadingEnded false e s =
      if j.main then goOn (awaitAck j.slot
        (modZoneSlot j.slot (fun r => { r with status := some .awaitAck }) (endJob s)))
      else if s.zone.active.generation = 0 then joinClass1 (.slotActivate j.slot) (endJob s)
      else awaitAck j.slot (endJob s) := by
  obtain ⟨d, rfl⟩ := BusEnd.data_ne_none done
  unfold loadingEnded
  rw [job]
  refine (if_neg Bool.false_ne_true).trans ?_
  dsimp only
  rw [last]
  rfl

theorem loadingEnded_failed (job : s.zone.job = some j) (failed : e.data = none) :
    loadingEnded false e s = if j.main then failSlot j.slot (endJob s) else failCatchUp j.slot s := by
  unfold loadingEnded
  rw [job]
  refine (if_neg Bool.false_ne_true).trans ?_
  rcases BusEnd.data_eq_none failed with rfl | rfl <;> rfl

end

theorem exec_loadingWriteEnd {i : Slot} {x : Txn} {first again : Answer} {ignored : Bool} {s v : State}
    (onBus : s.bus.current = some ⟨.loading i ignored, x⟩)
    (ended : loadingEnded ignored (busEnd x first again)
      (freeBus ⟨.loading i ignored, x⟩ (busEnd x first again) s) = v) :
    exec (.loadingWriteEnd first again) s = .next (arbitrate v) :=
  ended ▸ endOf_mine (mine := Owner.isLoading) (act := fun t e u => loadingEnded t.owner.isIgnored e u) onBus rfl

theorem exec_slotActivatePulseEnd {i : Slot} {x : Txn} {answer : Answer} {ignored : Bool} {s v : State}
    (onBus : s.bus.current = some ⟨.slotActivate i ignored, x⟩)
    (ended : pulseEnded i ignored (busEnd x answer answer)
      (freeBus ⟨.slotActivate i ignored, x⟩ (busEnd x answer answer) s) = v) :
    exec (.slotActivatePulseEnd answer) s = .next (arbitrate v) :=
  ended ▸ endOf_mine (mine := Owner.isPulse) (act := pulseOf) onBus rfl

theorem pulseEnded_done {i : Slot} {e : BusEnd} {s : State} (done : e.data ≠ none) :
    pulseEnded i false e s = goOn (modZoneSlot i
      (fun r => { r with
        catchUp := false, ackDeadline := none, result := .done
        loaded := s.zone.active.generation })
      (s.modZone fun z => { z with job := none, catchUpSlot := none })) := by
  obtain ⟨d, rfl⟩ := BusEnd.data_ne_none done
  exact congrArg goOn (modZoneSlot_modZoneSlot i _ _ _)

theorem pulseEnded_failed {i : Slot} {e : BusEnd} {s : State} (failed : e.data = none) :
    pulseEnded i false e s = joinClass1 (.slotActivate i) s := by
  rcases BusEnd.data_eq_none failed with rfl | rfl <;> rfl

/-! ### The writes of a load (R144, R155, R196) -/

theorem LoadStep.next_generation (ports : Nat) :
    LoadStep.generation.next ports = some (if ports = 0 then .loadDone else .piece 0) := by
  cases ports <;> rfl

theorem loadRow_iff (s : State) (main : Bool) (p q : Port) : loadRow s main p q = true ↔
    if main then ∃ l, s.zone.pending = some l ∧ reach l.table p q = true
    else if s.zone.active.generation = 0 then s.straps.zoning = .all ∧ p ≠ q
    else reach s.zone.active.table p q = true := by
  unfold loadRow
  cases main with
  | true =>
    cases s.zone.pending with
    | none => simp
    | some l => simp
  | false =>
    show activeReach s p q = true ↔ if s.zone.active.generation = 0 then _ else _
    unfold activeReach
    split <;> simp

theorem rowPiece_getLsbD (row : Port → Bool) (n : Nat) (k : Fin 16) {q : Port}
    (place : q.val = 16 * n + k.val) : (rowPiece row n).getLsbD k.val = row q := by
  refine (packBits_range _ k.isLt).trans (congrArg row (Fin.ext ?_))
  show (16 * n + k.val) % 256 = q.val
  omega

/-! ### The acknowledgement deadline (R145, R155) -/

theorem judgeAckDeadline_set {i : Slot} {d : Time} {s : State}
    (set : (s.zone.slots.get i).ackDeadline = some d) : judgeAckDeadline i s =
      if reached s.time d then if s.zone.catchUpSlot = some i then failCatchUp i s else failSlot i s else s := by
  unfold judgeAckDeadline
  rw [set]

/-- Settles O53, by the ends of the engine's transactions and the writes of a load. -/
theorem loadsGoOnWriteByWrite : Obligations.LoadsGoOnWriteByWrite := by
  unfold Obligations.LoadsGoOnWriteByWrite
  refine ⟨fun i x first again j s => ?_, fun j s => ?_, fun ports n =>
    ⟨LoadStep.next_generation ports, rfl, rfl⟩, fun i main n s => ⟨rfl, rfl, _, rfl, fun k p q few row column => ?_⟩⟩
  · intro e load u failed
    have job (ignored : Bool) (h : s.zone.job = some j) : (u ignored).zone.job = some j := by
      show (freeBus _ _ s).zone.job = _
      rw [freeBus_zone, h]
    have generation (ignored : Bool) : (u ignored).zone.active.generation = s.zone.active.generation := by
      show (freeBus _ _ s).zone.active.generation = _
      rw [freeBus_zone]
    have time (ignored : Bool) : (u ignored).time = s.time := freeBus_time _ _ s
    have ports (ignored : Bool) : portCount (u ignored) j.slot = portCount s j.slot := by
      show portCount (freeBus _ _ s) j.slot = _
      unfold portCount State.slotRec
      rw [freeBus_power]
    refine ⟨fun ignored onBus => ⟨fun yes_ => ?_, fun no free => ?_, fun no held done =>
      ⟨fun n next => ?_, fun last main => ?_, fun last main zero => ?_, fun last main other => ?_⟩,
      fun no held bad => ⟨fun main => ?_, fun main => ?_⟩⟩, fun answer w onBus freed => ⟨fun done => ?_, fun bad => ?_⟩,
      fun answer onBus => exec_slotActivatePulseEnd onBus rfl, fun d set => ⟨fun due other => ?_, fun due own => ?_,
      fun early => ?_⟩⟩
    · subst yes_
      exact exec_loadingWriteEnd onBus rfl
    · subst no
      exact exec_loadingWriteEnd onBus (loadingEnded_free (by rw [freeBus_zone, free]))
    · subst no
      exact exec_loadingWriteEnd onBus (loadingEnded_next (job false held) done ((ports false).symm ▸ next))
    · subst no
      refine exec_loadingWriteEnd onBus ((loadingEnded_loaded (job false held) done last).trans
        ((if_pos main).trans (congrArg goOn ((modZoneSlot_modZoneSlot _ _ _ _).trans ?_))))
      rw [show (modZoneSlot j.slot _ (endJob (u false))).time = s.time from time false]
      rfl
    · subst no
      exact exec_loadingWriteEnd onBus ((loadingEnded_loaded (job false held) done last).trans
        ((if_neg (by rw [main]; exact Bool.false_ne_true)).trans (if_pos ((generation false).trans zero))))
    · subst no
      refine exec_loadingWriteEnd onBus ((loadingEnded_loaded (job false held) done last).trans
        ((if_neg (by rw [main]; exact Bool.false_ne_true)).trans
          ((if_neg fun zero => other ((generation false).symm.trans zero)).trans ?_)))
      unfold awaitAck
      rw [show (endJob (freeBus ⟨.loading i false, x⟩ (busEnd x first again) s)).time = s.time from time false]
      rfl
    · subst no
      exact exec_loadingWriteEnd onBus ((loadingEnded_failed (job false held) bad).trans (if_pos main))
    · subst no
      exact exec_loadingWriteEnd onBus ((loadingEnded_failed (job false held) bad).trans
        (if_neg (by rw [main]; exact Bool.false_ne_true)))
    · subst freed
      refine exec_slotActivatePulseEnd onBus ((pulseEnded_done done).trans ?_)
      rw [freeBus_zone]
    · subst freed
      exact exec_slotActivatePulseEnd onBus (pulseEnded_failed bad)
    · exact congrArg (fun v => Host.Outcome.next (arbitrate v))
        ((judgeAckDeadline_set set).trans ((if_pos due).trans (if_neg other)))
    · exact congrArg (fun v => Host.Outcome.next (arbitrate v))
        ((judgeAckDeadline_set set).trans ((if_pos due).trans (if_pos own)))
    · exact congrArg (fun v => Host.Outcome.next (arbitrate v))
        ((judgeAckDeadline_set set).trans (if_neg (by rw [early]; exact Bool.false_ne_true)))
  · intro ignoring
    refine ⟨fun h => requestLoad_waits (h.imp_right (ignoredOnBus_iff _).2), fun job free => ?_⟩
    exact requestLoad_asks job (Bool.eq_false_iff.2 fun busy => free ((ignoredOnBus_iff _).1 busy))
  · rw [portOf_place (p := p) (by omega) (by omega), rowPiece_getLsbD _ _ k column]
    exact loadRow_iff s main p q

/-! ### Activation (R149, R150) -/

theorem activateFieldEnded_done {e : BusEnd} {s : State} (done : e.data ≠ none) :
    activateFieldEnded e s = joinClass1 .strobe s := by
  obtain ⟨d, rfl⟩ := BusEnd.data_ne_none done
  rfl

theorem strobeEnded_done {e : BusEnd} {s : State} (done : e.data ≠ none) : strobeEnded e s = activate s := by
  obtain ⟨d, rfl⟩ := BusEnd.data_ne_none done
  rfl

theorem strobeEnded_failed {e : BusEnd} {s : State} (failed : e.data = none) :
    strobeEnded e s = joinClass1 .strobe s := by
  rcases BusEnd.data_eq_none failed with rfl | rfl <;> rfl

/-- The records after an activation, before the engine goes on (R150). -/
def activated (l : Level) (s : State) : State :=
  s.modZone fun z =>
    { z with
      active := l, pending := none, hold := none, main := .idle
      slots := z.slots.map fun r => { r with status := none } }

theorem activate_pending {l : Level} {s : State} (pending : s.zone.pending = some l) :
    activate s = serveCatchUp (occurEvent .zoneDone 1 false (activated l s)) := by
  unfold activate
  rw [pending]
  refine (goOn_idle ?_).trans rfl
  rw [occurEvent_zone]
  rfl

/-- Serving the catch-up set gives a job, a catch-up slot and a write of class 2, and nothing else. -/
theorem serveCatchUp_changes (s : State) : ∃ job slot w, serveCatchUp s =
    (s.modZone fun z => { z with job := job, catchUpSlot := slot }).modBus fun b => { b with class2 := w } := by
  unfold serveCatchUp
  split
  · exact ⟨s.zone.job, s.zone.catchUpSlot, s.bus.class2, rfl⟩
  · split
    · exact ⟨s.zone.job, s.zone.catchUpSlot, s.bus.class2, rfl⟩
    · rename_i i rest _
      obtain ⟨w, h⟩ := requestLoad_class2
        (s.modZone fun z => { z with job := some ⟨i, false, .generation⟩, catchUpSlot := some i })
      exact ⟨_, _, w, h⟩

theorem serveCatchUp_slot {s : State} {i : Slot} (h : s.zone.catchUpSlot = some i) : serveCatchUp s = s :=
  serveCatchUp_none (.inl (by rw [h]; simp))

theorem distributionSet_empty {s : State} (h : ∀ i, s.statusOf i = none) : distributionSet s = [] := by
  simp [distributionSet, h]

theorem get_map {α β : Type} {n : Nat} (f : α → β) (v : Vector α n) (i : Fin n) :
    (v.map f).get i = f (v.get i) := by
  simp [Vector.get_eq_getElem]

/-- Settles O54, by the ends of the two writes. -/
theorem activationWritesComplete : Obligations.ActivationWritesComplete := by
  unfold Obligations.ActivationWritesComplete
  intro x first again l s
  refine ⟨fun u onBus freed => ?_, fun u onBus pending freed => ?_⟩
  · intro row
    have ended : row = .next (arbitrate (activateFieldEnded (busEnd x first again) u)) :=
      freed ▸ endOf_mine (mine := fun o => o = .activateField) (act := fun _ e u => activateFieldEnded e u)
        onBus rfl
    refine ⟨fun done => ?_, fun none => ?_, fun parity => ?_⟩
    · rw [ended, activateFieldEnded_done done]
    · rw [ended, none]
      rfl
    · rw [ended, parity]
      rfl
  · intro row
    have ended : row = .next (arbitrate (strobeEnded (busEnd x first first) u)) :=
      freed ▸ endOf_mine (mine := fun o => o = .strobe) (act := fun _ e u => strobeEnded e u) onBus rfl
    have zone : u.zone = s.zone := by rw [freed, freeBus_zone]
    refine ⟨fun bad => ?_, fun done => ?_⟩
    · rw [ended, strobeEnded_failed bad]
    · refine ⟨activated l u, _, rfl, rfl, ?_, ?_⟩
      · rw [ended, strobeEnded_done done, activate_pending (by rw [zone, pending])]
      · obtain ⟨job, slot, w, h⟩ := serveCatchUp_changes (occurEvent .zoneDone 1 false (activated l u))
        have after : (serveCatchUp (occurEvent .zoneDone 1 false (activated l u))).zone
            = { (activated l u).zone with job := job, catchUpSlot := slot } := by
          rw [h]
          show { (occurEvent .zoneDone 1 false (activated l u)).zone with job := job, catchUpSlot := slot } = _
          rw [occurEvent_zone]
        refine ⟨by rw [after]; rfl, by rw [after]; rfl, by rw [after]; rfl, distributionSet_empty fun i => ?_,
          fun i => ?_⟩
        · unfold State.statusOf
          rw [after]
          exact congrArg ZoneSlot.status (get_map _ u.zone.slots i)
        · rw [after, ← zone]
          have slot := get_map (fun r : ZoneSlot => { r with status := none }) u.zone.slots i
          exact (congrArg ZoneSlot.loaded slot).trans rfl

/-! ### Requests of the holder (R148, R151, R152) -/

theorem activateZones_refused {s : State} (h : s.zone.main ≠ .awaitActivate) : activateZones s =
    (s, .reply .state (encEngine s.zone.main ++ encGeneration (pendingGeneration s.zone) ++ encSetStatus s)) :=
  if_neg h

theorem activateZones_done {s : State} (h : s.zone.main = .awaitActivate) : activateZones s =
    let t := joinClass1 .activateField (s.modZone fun z => { z with main := .activating })
    (t, .reply .done (encEngine t.zone.main ++ encGeneration (pendingGeneration t.zone) ++ encSetStatus t)) :=
  if_pos h

theorem retryDistribution_refused {s : State} (h : s.zone.main ≠ .failed) :
    retryDistribution s = (s, .reply .state (u8 0 ++ encEngine s.zone.main)) := if_neg h

theorem retryDistribution_done {s : State} (h : s.zone.main = .failed) : retryDistribution s =
    let t := goOn ((modZoneSlots requeue s).modZone fun z => { z with main := .distributing })
    (t, .reply .done
      (u8 (allSlots.filter fun i => s.statusOf i = some .failedLoad).length ++ encEngine t.zone.main)) := if_pos h

theorem abortDistribution_refused {s : State} (h : s.zone.main = .idle ∨ s.zone.main = .activating) :
    abortDistribution s = (s, .reply .state (encSlots (catchUpSet s))) := by
  unfold abortDistribution
  rcases h with h | h <;> rw [h]

theorem abortDistribution_done {s : State} (idle : s.zone.main ≠ .idle) (activating : s.zone.main ≠ .activating) :
    abortDistribution s = (abort s,
      .reply .done (encGeneration (pendingGeneration s.zone) ++ encSlots (catchUpSet (abort s)))) := by
  unfold abortDistribution
  cases main : s.zone.main with
  | idle => exact absurd main idle
  | activating => exact absurd main activating
  | distributing => rfl
  | awaitActivate => rfl
  | failed => rfl

theorem Bus.forget_eq (i : Slot) (b : Bus) : Bus.forget i b =
    { b with
      current := match b.current with
        | some ⟨.loading k ignored, x⟩ => some ⟨.loading k (ignored || decide (k = i)), x⟩
        | some ⟨.slotActivate k ignored, x⟩ => some ⟨.slotActivate k (ignored || decide (k = i)), x⟩
        | x => x
      class1 := b.class1.filter fun e => e ≠ .slotActivate i
      class2 := match b.class2 with
        | some w => if w.slot = i then none else some w
        | none => none } := by
  have current : (b.current.map fun t => { t with owner := t.owner.ignoring i }) =
      match b.current with
      | some ⟨.loading k ignored, x⟩ => some ⟨.loading k (ignored || decide (k = i)), x⟩
      | some ⟨.slotActivate k ignored, x⟩ => some ⟨.slotActivate k (ignored || decide (k = i)), x⟩
      | x => x := by
    rcases b.current with _ | ⟨owner, x⟩
    · rfl
    · cases owner <;> rfl
  have class2 : (b.class2.filter fun w => w.slot ≠ i) =
      match b.class2 with
      | some w => if w.slot = i then none else some w
      | none => none := by
    cases b.class2 with
    | none => rfl
    | some w => by_cases same : w.slot = i <;> simp [Option.filter, same]
  exact congrArg₂ (fun x y => { b with
    current := x, class1 := b.class1.filter fun e => e ≠ Class1.slotActivate i, class2 := y }) current class2

/-- The records of an abort, before the catch-up set is served (R152). -/
def aborted (v : Vector ZoneSlot 8) (s : State) : State :=
  s.modZone fun z => { z with pending := none, hold := none, main := .idle, slots := v }

theorem abort_aborted (s : State) : ∃ v : Vector ZoneSlot 8,
    (∀ k, v.get k = abortSlot s k (s.zone.slots.get k))
      ∧ abort s = serveCatchUp (aborted v (stopMainLoad s)) := by
  obtain ⟨v, get, h⟩ := foldl_modZoneSlot_all (abortSlot s) (stopMainLoad s)
  have slots : (stopMainLoad s).zone.slots = s.zone.slots := by
    unfold stopMainLoad
    repeat' split
    all_goals rfl
  refine ⟨v, fun k => by rw [get, slots], ?_⟩
  unfold abort
  dsimp only
  rw [h]
  exact goOn_idle rfl

theorem stopMainLoad_main {s : State} {j : LoadJob} (job : s.zone.job = some j) (main : j.main = true) :
    stopMainLoad s = (endJob s).modBus (Bus.forget j.slot) := by
  unfold stopMainLoad
  rw [job]
  exact if_pos main

theorem stopMainLoad_none {s : State} (h : ∀ j, s.zone.job = some j → j.main = false) : stopMainLoad s = s := by
  unfold stopMainLoad
  cases job : s.zone.job with
  | none => rfl
  | some j => exact if_neg (by rw [h j job]; exact Bool.false_ne_true)

/-- Stopping the main load ends its job and takes its entries from the bus, and nothing else. -/
theorem stopMainLoad_changes (s : State) : ∃ job b, stopMainLoad s
    = { s with zone := { s.zone with job := job }, bus := b } ∧ b.class1 ⊆ s.bus.class1 := by
  by_cases h : ∀ j, s.zone.job = some j → j.main = false
  · exact ⟨s.zone.job, s.bus, stopMainLoad_none h, List.Subset.refl _⟩
  · simp only [not_forall] at h
    obtain ⟨j, job, main⟩ := h
    exact ⟨none, Bus.forget j.slot s.bus, stopMainLoad_main job (by simpa using main), List.filter_subset_self _⟩

/-- Settles O55, request by request; the abort by its records before and after the catch-up set is served. -/
theorem distributionRequestsAreJudged : Obligations.DistributionRequestsAreJudged := by
  unfold Obligations.DistributionRequestsAreJudged
  intro c tag s ready holds h answers standing
  refine ⟨fun other => ?_, fun t main taken => ?_, fun other => ?_, fun t main taken => ?_, fun other => ?_,
    fun idle activating => ?_⟩
  · exact exec_holder (r := .activateZones) ready holds rfl (activateZones_refused (s := h) other)
  · subst taken
    exact exec_holder (r := .activateZones) ready holds rfl (activateZones_done (s := h) main)
  · exact exec_holder (r := .retryDistribution) ready holds rfl (retryDistribution_refused (s := h) other)
  · subst taken
    exact exec_holder (r := .retryDistribution) ready holds rfl (retryDistribution_done (s := h) main)
  · exact exec_holder (r := .abortDistribution) ready holds rfl (abortDistribution_refused (s := h) other)
  · obtain ⟨v, slots, taken⟩ := abort_aborted h
    obtain ⟨job, slot, w, served⟩ := serveCatchUp_changes (aborted v (stopMainLoad h))
    obtain ⟨job', b, stopped, fewer⟩ := stopMainLoad_changes h
    have after := taken.trans served
    have slotsAfter : (abort h).zone.slots = v := by rw [after]; rfl
    have kept (i : Slot) : (abort h).zone.slots.get i = abortSlot h i (s.zone.slots.get i) := by
      rw [slotsAfter]
      exact slots i
    have zone : (abort h).zone = { s.zone with
        job := job, catchUpSlot := slot, pending := none, hold := none, main := .idle, slots := v } := by
      rw [after, stopped]
      rfl
    refine ⟨abort h, aborted v (stopMainLoad h),
      exec_holder (r := .abortDistribution) ready holds rfl (abortDistribution_done (s := h) idle activating),
      taken, fun j own main => ?_, fun other => ?_, ?_, fun i => ?_, ?_, ?_, ?_, distributionSet_empty fun i => ?_,
      ?_, ?_, ?_, fun i => ⟨?_, ?_⟩, fun i busy => ?_, ?_, ?_, ?_, ?_, ?_, ?_⟩
    · rw [stopMainLoad_main (s := h) own main]
      exact ⟨rfl, Bus.forget_eq _ _⟩
    · rw [stopMainLoad_none (s := h) other]
      exact ⟨rfl, rfl⟩
    · rw [stopped]
      rfl
    · rw [kept]
      rfl
    · rw [zone]
    · rw [zone]
    · rw [zone]
    · exact (congrArg ZoneSlot.status (kept i)).trans rfl
    · rw [zone]
    · rw [zone]
    · rw [zone]
    · rw [kept]
      rfl
    · rw [kept]
      show ((s.zone.slots.get i).catchUp || (h.isPowered i && decide ((abortSlot h i _).loaded ≠ _))) = true ↔ _
      rw [Bool.or_eq_true, Bool.and_eq_true, decide_eq_true_eq]
      rfl
    · rw [taken, serveCatchUp_slot (i := i) (by rw [stopped]; exact busy), stopped]
      exact busy
    · rw [after, stopped]
      rfl
    · rw [after, stopped]
      rfl
    · rw [after, stopped]
      rfl
    · rw [after, stopped]
      rfl
    · rw [after, stopped]
      rfl
    · rw [after, stopped]
      exact fewer

end Sys2Proof.Machine
end


-- ==== Sys2Proof/Proofs/SlotPower.lean ====
section
/-! SUPPORT. The commanded duty as it is written, what a slot leaves behind when it stops drawing, the notices of the
License Unit, and the power-good value. -/

namespace Sys2Proof.Machine

/-! ### The duty (R58, R63, R65) -/

/-- Settles O35: the trays are mapped by `TrayRec.unsettle`. -/
theorem dutyChangesAreWritten : Obligations.DutyChangesAreWritten := by
  unfold Obligations.DutyChangesAreWritten
  intro s d held
  refine ⟨fun same => if_pos same, fun other => ⟨s.cool.trays.map (TrayRec.unsettle s.time), if_neg other,
    fun y => ?_⟩⟩
  rw [get_map]
  dsimp only [TrayRec.unsettle]
  exact ⟨rfl, rfl, fun r => get_map _ _ r⟩

/-! ### Ports of a slot that stops drawing (R83) -/

theorem joinHeld_mem {e : Class1} (f : HeldField) {s : State} (h : e ∈ s.bus.class1) :
    e ∈ (joinHeld f s).bus.class1 := (joinHeld_prefix f s).subset h

theorem portsOff_keeps {α : Type} (f : State → α) (power : ∀ g u, f (State.modPower u g) = f u)
    (joins : ∀ x u, f (joinHeld x u) = f u) (i : Slot) (s : State) : f (portsOff i s) = f s := by
  unfold portsOff
  dsimp only
  split_ifs <;> simp only [power, joins]

theorem leaveDraw_keeps {α : Type} (f : State → α) (power : ∀ g u, f (State.modPower u g) = f u)
    (joins : ∀ x u, f (joinHeld x u) = f u) (i : Slot) (st : SlotPower) (s : State) :
    f (leaveDraw i st s) = f s := by
  unfold leaveDraw
  dsimp only
  rw [portsOff_keeps f power joins]
  split_ifs <;> simp only [joins, setSlotPower, modSlot, power]

/-- The entries of class 1 before the ports go to OFF, and the two port enable fields that may join. -/
theorem portsOff_class1 (i : Slot) (s : State) : ∀ e ∈ s.bus.class1, e ∈ (portsOff i s).bus.class1 := by
  intro e mem
  unfold portsOff
  dsimp only
  split_ifs
  · exact joinHeld_mem _ (joinHeld_mem _ mem)
  · exact joinHeld_mem _ mem
  · exact joinHeld_mem _ mem
  · exact mem

theorem leaveDraw_class1 (i : Slot) (st : SlotPower) (s : State) :
    ∀ e ∈ s.bus.class1, e ∈ (leaveDraw i st s).bus.class1 := by
  intro e mem
  refine portsOff_class1 i _ e ?_
  split_ifs
  · exact mem
  · exact joinHeld_mem _ mem

theorem leaveDraw_enable {st : SlotPower} (i : Slot) (s : State) (h : st ≠ .empty) :
    Class1.held (.powerEnable i) ∈ (leaveDraw i st s).bus.class1 := by
  refine portsOff_class1 i _ _ ?_
  rw [if_neg h]
  exact mem_joinHeld _ _

/-- An ENABLED port of the slot is among those of its port enable field. -/
theorem any_enabled {v : Vector PortPower 256} {p : Port} (enabled : (v.get p).isEnabled = true) :
    if portLocal p < 16 then ((slotPart v (portSlot p)).take 16).any PortPower.isEnabled = true
      else ((slotPart v (portSlot p)).drop 16).any PortPower.isEnabled = true := by
  have length : (slotPart v (portSlot p)).length = 32 := by rw [slotPart_eq_map]; simp
  have low : portLocal p < 32 := Nat.mod_lt _ (by decide)
  have place : portOf (portSlot p) ⟨portLocal p, low⟩ = p := by
    refine Fin.ext ?_
    show p.val / 32 * 32 + p.val % 32 = p.val
    omega
  have here : ∀ h, (slotPart v (portSlot p))[portLocal p]'h = v.get p := fun h => by
    simp only [slotPart_eq_map, List.getElem_map, List.getElem_finRange]
    exact congrArg v.get place
  split_ifs with first
  · refine List.any_eq_true.2 ⟨v.get p, ?_, enabled⟩
    exact List.mem_take_iff_getElem.2 ⟨portLocal p, by omega, here _⟩
  · refine List.any_eq_true.2 ⟨v.get p, ?_, enabled⟩
    refine List.mem_drop_iff_getElem.2 ⟨portLocal p - 16, by omega, ?_⟩
    rw [← here (by omega)]
    congr 1
    omega

theorem portsOff_enable {i : Slot} {p : Port} {s : State} (of : portSlot p = i)
    (enabled : (s.power.ports.get p).isEnabled = true) :
    Class1.held (enableFieldOf p) ∈ (portsOff i s).bus.class1 := by
  subst of
  have any := any_enabled enabled
  unfold portsOff enableFieldOf
  dsimp only
  by_cases first : portLocal p < 16
  · rw [if_pos first] at any ⊢
    rw [if_pos any]
    split_ifs
    · exact joinHeld_mem _ (mem_joinHeld _ _)
    · exact mem_joinHeld _ _
  · rw [if_neg first] at any ⊢
    rw [if_pos any]
    exact mem_joinHeld _ _

theorem leaveDraw_port (i : Slot) (st : SlotPower) (s : State) (p : Port) :
    (leaveDraw i st s).power.ports.get p = if portSlot p = i then .off else s.power.ports.get p := by
  rw [leaveDraw_power, Power.offPorts_get, Power.putSlot_ports]

/-- The draws of the other slots stay. -/
theorem slotDraw_left_ne {p : Power} {i j : Slot} (r : SlotRec) (other : j ≠ i) :
    slotDraw (p.left i r) j = slotDraw p j := by
  have draws : portDraws (p.left i r) j = portDraws p j :=
    Finset.sum_congr rfl fun l _ => by
      rw [Power.left, Power.offPorts_get, portSlot_portOf, if_neg other, Power.putSlot_ports]
  rw [slotDraw_eq, slotDraw_eq, draws, Power.left_slots, p.putSlot_ne r other]

/-- A slot that stops drawing takes its draw from the demand. -/
theorem demand_left {p : Power} {i : Slot} {r : SlotRec} (idle : r.power.drawing = false) :
    demand (p.left i r) + slotDraw p i = demand p := by
  have own : slotDraw (p.left i r) i = 0 := slotDraw_idle (by simpa [Power.left_slots] using idle)
  rw [demand_eq_sum, demand_eq_sum, ← Finset.add_sum_erase _ _ (Finset.mem_univ i),
    ← Finset.add_sum_erase _ (slotDraw p) (Finset.mem_univ i), own,
    Finset.sum_congr rfl fun j mem => slotDraw_left_ne r (Finset.ne_of_mem_erase mem)]
  omega

/-! ### The notice to the Zoning Unit (R146) -/

theorem slotLeft_eq (i : Slot) (s : State) : slotLeft i s = goOn
    ((s.modZone fun z =>
      { z with
        slots := updAt z.slots i fun r =>
          { r with loaded := 0, status := none, ackDeadline := none, catchUp := false }
        job := match z.job with
          | some j => if j.slot = i then none else some j
          | none => none
        catchUpSlot := if z.catchUpSlot = some i then none else z.catchUpSlot }).modBus (Bus.forget i)) := by
  have job : (s.zone.job.filter fun j => j.slot ≠ i) =
      match s.zone.job with
      | some j => if j.slot = i then none else some j
      | none => none := by
    cases s.zone.job with
    | none => rfl
    | some j => by_cases same : j.slot = i <;> simp [Option.filter, same]
  have slot : (s.zone.catchUpSlot.filter fun c => c ≠ i)
      = if s.zone.catchUpSlot = some i then none else s.zone.catchUpSlot := by
    cases s.zone.catchUpSlot with
    | none => rfl
    | some c => by_cases same : c = i <;> simp [Option.filter, same]
  exact congrArg₂ (fun x y => goOn ((s.modZone fun z =>
    { z with
      slots := updAt z.slots i fun r =>
        { r with loaded := 0, status := none, ackDeadline := none, catchUp := false }
      job := x, catchUpSlot := y }).modBus (Bus.forget i))) job slot

/-- Settles O40: the slot's draw, the hand-on, and the notice to the Zoning Unit. -/
theorem leavingPowerDropsTheDraw : Obligations.LeavingPowerDropsTheDraw := by
  unfold Obligations.LeavingPowerDropsTheDraw
  refine ⟨fun i st s t idle left => ?_, fun i st s t u left told => ?_, fun i s => ?_⟩
  · subst left
    refine ⟨leaveDraw_self i st s, fun j other => leaveDraw_ne st s other, leaveDraw_port i st s, ?_,
      leaveDraw_enable i s, fun p of enabled => ?_, leaveDraw_class1 i st s, ?_, ?_, ?_, ?_, ?_⟩
    · rw [leaveDraw_power]
      exact demand_left idle
    · refine portsOff_enable of ?_
      split_ifs
      · exact enabled
      · rw [joinHeld_power]
        exact enabled
    · exact leaveDraw_keeps State.lic (fun _ _ => rfl) joinHeld_lic i st s
    · exact leaveDraw_keeps State.auth (fun _ _ => rfl) joinHeld_auth i st s
    · exact leaveDraw_keeps State.cool (fun _ _ => rfl) joinHeld_cool i st s
    · exact leaveDraw_keeps State.zone (fun _ _ => rfl) joinHeld_zone i st s
    · exact leaveDraw_keeps State.alarm (fun _ _ => rfl) joinHeld_alarm i st s
  · subst left told
    refine ⟨fun powered => congrArg evalTight (if_pos (decide_eq_true powered)),
      fun other => congrArg evalTight (if_neg fun powered => other (of_decide_eq_true powered))⟩
  · rw [slotLeft_eq]
    exact congrArg goOn (congrArg (fun b : Bus => State.modBus _ fun _ => b) (Bus.forget_eq i s.bus))

/-! ### Ports and notices (R84 to R86) -/

theorem fits_iff (p : Power) (draw : Nat) : fits p draw = true ↔ demand p + draw ≤ p.avail := decide_eq_true_iff

theorem testPort_fits {p : Port} {k : PortClass} {s : State} (h : demand s.power + k.draw ≤ s.power.avail) :
    testPort p k s = evalTight (tellDemand (setPort p (.enabled k) s)) :=
  congrArg evalTight (if_pos ((fits_iff _ _).2 h))

theorem testPort_holds {p : Port} {k : PortClass} {s : State}
    (h : ¬ demand s.power + k.draw ≤ s.power.avail) :
    testPort p k s = evalTight (setPort p (.held k) s) :=
  congrArg evalTight (if_neg fun fit => h ((fits_iff _ _).1 fit))

theorem takeGrant_tested {p : Port} {k : PortClass} {s : State} (powered : s.isPowered (portSlot p) = true)
    (up : (s.lic.ports.get p).up = true) : takeGrant p k s = testPort p k s :=
  if_pos (by rw [powered, up]; rfl)

theorem takeGrant_ignored {p : Port} {k : PortClass} {s : State}
    (h : s.isPowered (portSlot p) = false ∨ (s.lic.ports.get p).up = false) : takeGrant p k s = s :=
  if_neg (by rcases h with h | h <;> simp [h])

theorem takeRelease_eq (p : Port) (s : State) : takeRelease p s =
    if (s.power.ports.get p).isEnabled then (evalTight (tellDemand (setPort p .off s)), true)
      else (evalTight (setPort p .off s), false) := rfl

theorem takeRegrade_enabled {p : Port} {k old : PortClass} {s : State} (h : s.power.ports.get p = .enabled old) :
    takeRegrade p k s =
      if k.draw ≤ old.draw then (evalTight (tellDemand (setPort p (.enabled k) s)), true)
      else if fits s.power (k.draw - old.draw) then
        (evalTight (tellDemand (setPort p (.enabled k) s)), false)
      else (evalTight (tellDemand (setPort p (.held k) s)), true) := by
  unfold takeRegrade
  rw [h]

theorem testSlotPort_eq (p : Port) (w : State) : testSlotPort p w =
    match grantOf w.lic p with
    | some g => if w.portExists p && (w.lic.ports.get p).up then testPort p g.cls w else w
    | none => w := by
  unfold testSlotPort
  cases grant : grantOf w.lic p with
  | some g => rw [licenseState_granted grant]
  | none =>
    rw [licenseState_ungranted grant]
    split_ifs <;> rfl

/-! ### The power-good value (R81, R82) -/

section
variable {i : Slot} {s : State}

theorem powerGoodExpiry_powering {d : Time} (h : (s.slotRec i).power = .powering d) :
    powerGoodExpiry i s = if reached s.time d then faultSlot i s else s := by
  unfold powerGoodExpiry
  rw [h]

theorem powerGood_powering {d : Time} (h : (s.slotRec i).power = .powering d) (v : Bool) :
    powerGood i v s = if v then enterPowered i s else s := by
  unfold powerGood
  rw [h]

theorem powerGood_powered (h : (s.slotRec i).power = .powered) (v : Bool) :
    powerGood i v s = if v then s else faultSlot i s := by
  unfold powerGood
  rw [h]

theorem powerGood_other (h : (s.slotRec i).power = .empty ∨ (s.slotRec i).power = .off
    ∨ (s.slotRec i).power = .faulted ∨ ∃ r, (s.slotRec i).power = .denied r) (v : Bool) : powerGood i v s = s := by
  unfold powerGood
  rcases h with h | h | h | ⟨r, h⟩ <;> rw [h]

end

/-- Settles O42: the ports and their notices, the entry into POWERED, and the power-good value. -/
theorem powerGoodDecidesTheSlot : Obligations.PowerGoodDecidesTheSlot := by
  unfold Obligations.PowerGoodDecidesTheSlot
  refine ⟨fun p k s => ?_, ?_, fun i s => ⟨fun d powering => ⟨fun due => ?_,
    fun early => ?_⟩, fun d powering => ⟨powerGood_powering powering true, powerGood_powering powering false⟩,
    fun powered => ⟨powerGood_powered powered true, powerGood_powered powered false⟩,
    fun v other => powerGood_other other v⟩⟩
  · intro fits tight told on held off
    refine ⟨fun st => ⟨fun same => if_pos same, fun other => if_neg other⟩, testPort_fits, testPort_holds,
      fun powered up => congrArg (·, false) (takeGrant_tested powered up),
      fun h => congrArg (·, false) (takeGrant_ignored h),
      fun x enabled => ⟨?_, fun less => ?_, fun more fit => ?_, fun more full => ?_⟩,
      fun x waiting => ⟨?_, ?_⟩, fun none => ⟨?_, ?_⟩, rfl, rfl, rfl⟩
    · exact (takeRelease_eq p s).trans (if_pos (by rw [enabled]; rfl))
    · exact (takeRegrade_enabled enabled).trans (if_pos less)
    · exact (takeRegrade_enabled enabled).trans
        ((if_neg (Nat.not_le.2 more)).trans (if_pos ((fits_iff _ _).2 fit)))
    · exact (takeRegrade_enabled enabled).trans
        ((if_neg (Nat.not_le.2 more)).trans (if_neg fun fit => absurd ((fits_iff _ _).1 fit) (Nat.not_le.2 full)))
    · exact (takeRelease_eq p s).trans (if_neg (by rw [waiting]; exact Bool.false_ne_true))
    · show takeRegrade p k s = _
      unfold takeRegrade
      rw [waiting]
      rfl
    · exact (takeRelease_eq p s).trans (if_neg (by rw [none]; exact Bool.false_ne_true))
    · show takeRegrade p k s = _
      unfold takeRegrade
      rw [none]
      rfl
  · intro i s u test walked
    have steps : test = fun w q => testSlotPort q w := funext fun w => funext fun q => (testSlotPort_eq q w).symm
    rw [walked, steps]
    rfl
  · exact congrArg (fun v => Host.Outcome.next (arbitrate v))
      ((powerGoodExpiry_powering powering).trans (if_pos due))
  · exact congrArg (fun v => Host.Outcome.next (arbitrate v))
      ((powerGoodExpiry_powering powering).trans (if_neg (by rw [early]; exact Bool.false_ne_true)))

end Sys2Proof.Machine
end


-- ==== Sys2Proof/Proofs/Recompute.lean ====
section
/-! SUPPORT. The recompute: the orders of its passes, what it keeps, and the requests that call for it. -/

namespace Sys2Proof.Machine

/-! ### Orders by priority (R75, R76) -/

section
variable {slots : List Slot} {levels : List Nat} {level : Slot → Nat} {f : Slot → Bool}

theorem mem_byLevel {i : Slot} : i ∈ (levels.flatMap fun n => slots.filter fun i => level i = n && f i) ↔
    level i ∈ levels ∧ i ∈ slots ∧ f i = true := by
  simp only [List.mem_flatMap, List.mem_filter, Bool.and_eq_true, decide_eq_true_eq]
  constructor
  · rintro ⟨n, mem, here, rfl, holds⟩
    exact ⟨mem, here, holds⟩
  · rintro ⟨mem, here, holds⟩
    exact ⟨_, mem, here, rfl, holds⟩

/-- Slots taken level by level are in the order of the levels, and within a level in their own. -/
theorem pairwise_byLevel {A : Slot → Slot → Prop} {B : Nat → Nat → Prop} (inSlots : slots.Pairwise A)
    (inLevels : levels.Pairwise B) : (levels.flatMap fun n => slots.filter fun i => level i = n && f i).Pairwise
      fun i j => B (level i) (level j) ∨ (level i = level j ∧ A i j) := by
  have at_ {n : Nat} {i : Slot} (mem : i ∈ slots.filter fun i => level i = n && f i) : level i = n := by
    have both := (List.mem_filter.1 mem).2
    rw [Bool.and_eq_true, decide_eq_true_eq] at both
    exact both.1
  refine List.pairwise_flatMap.2 ⟨fun n _ => ?_, inLevels.imp fun less i memI j memJ => .inl ?_⟩
  · exact (inSlots.filter _).imp_of_mem fun memI memJ before => .inr ⟨(at_ memI).trans (at_ memJ).symm, before⟩
  · rw [at_ memI, at_ memJ]
    exact less

end

theorem level_mem {n : Nat} (h : n ≤ 3) : n ∈ [0, 1, 2, 3] ∧ n ∈ [3, 2, 1, 0] := by
  have four : n = 0 ∨ n = 1 ∨ n = 2 ∨ n = 3 := by omega
  rcases four with rfl | rfl | rfl | rfl <;> decide

theorem SlotPower.isDenied_iff (st : SlotPower) : st.isDenied = true ↔ ∃ r, st = .denied r := by
  cases st <;> simp [SlotPower.isDenied]

theorem mem_heldPorts {p : Power} {q : Port} : q ∈ heldPorts p ↔ ∃ k, p.ports.get q = .held k := by
  unfold heldPorts allPorts
  rw [List.mem_filter]
  cases p.ports.get q <;> simp

/-! ### What a recompute keeps (R74 to R77) -/

/-- A view of the state that the passes of a recompute leave as it is. -/
structure PassKeeps {β : Type} (g : State → β) : Prop where
  form : ∀ s, g (s.modPower formBudget) = g s
  leave : ∀ i st s, g (leaveDraw i st s) = g s
  admitOne : ∀ i s, g (admitSlot i s) = g s
  admitPort : ∀ q s, g (admitPort q s) = g s

theorem foldl_keeps {α β : Type} (g : State → β) (f : State → α → State) (turn : ∀ t x, g (f t x) = g t)
    (xs : List α) (s : State) : g (xs.foldl f s) = g s := by
  induction xs generalizing s with
  | nil => rfl
  | cons x xs ih => exact (ih _).trans (turn s x)

section
variable {β : Type} {g : State → β} (keeps : PassKeeps g)
include keeps

theorem shedPass_keeps (is : List Slot) (s : State) : g (shedPass is s).1 = g s := by
  induction is generalizing s with
  | nil => rfl
  | cons i is ih =>
    unfold shedPass
    split
    · rfl
    · exact (ih _).trans (keeps.leave _ _ _)

theorem admissionPass_keeps (s : State) : g (admissionPass s) = g s :=
  (foldl_keeps g _ (fun t q => keeps.admitPort q t) _ _).trans
    (foldl_keeps g _ (fun t i => keeps.admitOne i t) _ _)

theorem recompute_keeps (handsOn : ∀ k left shed s, g (handOn k left shed s) = g s) (s : State) :
    g (recompute s) = g s := by
  unfold recompute recomputeShed
  dsimp only
  split
  · exact (handsOn _ _ _ _).trans ((shedPass_keeps keeps _ _).trans (keeps.form s))
  · exact (handsOn _ _ _ _).trans ((admissionPass_keeps keeps _).trans (keeps.form s))

end

/-- A view that looks neither at the budget nor at the bus is kept by the passes. -/
theorem passKeeps_of {β : Type} {g : State → β} (power : ∀ f s, g (State.modPower s f) = g s)
    (joins : ∀ x s, g (joinHeld x s) = g s) : PassKeeps g where
  form := power formBudget
  leave := leaveDraw_keeps g power joins
  admitOne i s := by
    unfold admitSlot
    split
    · rw [joins]
      unfold setSlotPower modSlot
      exact power _ s
    · rfl
  admitPort q s := by
    unfold Machine.admitPort setPort
    split
    · split
      · dsimp only
        split
        · exact power _ s
        · rw [joins, power]
      · rfl
    · rfl

/-- What of the budget a recompute leaves: the policy, the inputs, and of each slot all but the power state. -/
def Power.standing (p : Power) : Policy × InputRecord × (Slot → Option Card × Bool × Nat) :=
  (p.policy, p.input, fun j => ((p.slots.get j).card, (p.slots.get j).admin, (p.slots.get j).priority))

theorem standing_iff {s t : State} : t.power.standing = s.power.standing ↔
    t.power.policy = s.power.policy ∧ t.power.input = s.power.input
    ∧ ∀ j, (t.slotRec j).card = (s.slotRec j).card ∧ (t.slotRec j).admin = (s.slotRec j).admin
      ∧ (t.slotRec j).priority = (s.slotRec j).priority := by
  simp only [Power.standing, State.slotRec, Prod.mk.injEq, funext_iff]

theorem standing_putSlot (p : Power) (i : Slot) (st : SlotPower) :
    (p.putSlot i { p.slots.get i with power := st }).standing = p.standing := by
  have slots : (fun j => (((p.putSlot i { p.slots.get i with power := st }).slots.get j).card,
      ((p.putSlot i { p.slots.get i with power := st }).slots.get j).admin,
      ((p.putSlot i { p.slots.get i with power := st }).slots.get j).priority))
      = fun j => ((p.slots.get j).card, (p.slots.get j).admin, (p.slots.get j).priority) := by
    funext j
    by_cases same : j = i
    · subst same
      rw [Power.putSlot_self]
    · rw [Power.putSlot_ne _ _ same]
  exact congrArg (fun f => (p.policy, p.input, f)) slots

theorem passKeeps_standing : PassKeeps fun s => s.power.standing where
  form _ := rfl
  leave i st s := by
    rw [leaveDraw_power]
    exact standing_putSlot s.power i st
  admitOne i s := by
    rw [admitSlot_power]
    split
    · exact standing_putSlot s.power i _
    · rfl
  admitPort q s := by
    unfold Machine.admitPort
    split
    · split
      · rw [setPort_power]
        rfl
      · rfl
    · rfl

theorem recompute_standing (s : State) : (recompute s).power.standing = s.power.standing :=
  recompute_keeps passKeeps_standing (fun k left shed s => by rw [handOn_power]; rfl) s

/-! The License Unit and the Authority Unit take no part in a recompute. -/

/-- The License Unit, the Authority Unit, the time base and the zone transaction. -/
def State.apart (s : State) : License × Authority × Time × ZoneTxn := (s.lic, s.auth, s.time, s.zone.txn)

theorem apart_iff {s t : State} : t.apart = s.apart ↔ t.lic = s.lic ∧ t.auth = s.auth ∧ t.time = s.time
    ∧ t.zone.txn = s.zone.txn := by
  simp only [State.apart, Prod.mk.injEq]

theorem passKeeps_apart : PassKeeps State.apart :=
  passKeeps_of (fun _ _ => rfl) fun x s => by simp [State.apart]

theorem occurEvent_apart (k : AlarmClass) (n : Nat) (i : Bool) (s : State) :
    (occurEvent k n i s).apart = s.apart := by simp [State.apart]

theorem handSettled_apart (k : AlarmClass) (n : Nat) (s : State) : (handSettled k n s).apart = s.apart := by
  unfold handSettled
  split <;> simp [State.apart]

theorem eventSettled_apart (k : AlarmClass) (n : Nat) (s : State) : (eventSettled k n s).apart = s.apart := by
  unfold eventSettled
  split <;> simp [State.apart]

theorem tellDemand_apart (s : State) : (tellDemand s).apart = s.apart := by
  simp [tellDemand, giveDemand, State.apart]

theorem requestLoad_apart (s : State) : (requestLoad s).apart = s.apart := by
  obtain ⟨w, h⟩ := requestLoad_class2 s
  rw [h]
  rfl

theorem judgeComplete_apart (s : State) : (judgeComplete s).apart = s.apart := by
  unfold judgeComplete
  split_ifs
  · rfl
  · exact occurEvent_apart _ _ _ _
  · rfl
  · simp [State.apart]

theorem goOn_apart (s : State) : (goOn s).apart = s.apart := by
  unfold goOn
  split
  · obtain ⟨job, slot, w, h⟩ := serveCatchUp_changes s
    rw [h]
    rfl
  · split
    · rfl
    · split
      · exact requestLoad_apart _
      · exact judgeComplete_apart s
  · rfl

theorem slotLeft_apart (i : Slot) (s : State) : (slotLeft i s).apart = s.apart := goOn_apart _

theorem handOn_apart (k : RecomputeKind) (left shed : List Slot) (s : State) :
    (handOn k left shed s).apart = s.apart := by
  have leaves := foldl_keeps State.apart (fun t i => slotLeft i t) (fun t i => slotLeft_apart i t) left s
  have raises := foldl_keeps State.apart (fun t (i : Slot) => eventSettled .budgetShed (i.val + 1) t)
    (fun t i => eventSettled_apart .budgetShed (i.val + 1) t) shed (left.foldl (fun t i => slotLeft i t) s)
  have stamped (u : State) (f : Power → Power) : (u.modPower f).apart = u.apart := rfl
  unfold handOn
  dsimp only
  rw [stamped, evalTight, handSettled_apart, tellDemand_apart, raises, leaves]

theorem recompute_apart (s : State) : (recompute s).apart = s.apart :=
  recompute_keeps passKeeps_apart handOn_apart s

/-- The stamp of a recompute: its kind, and the time at which it began. -/
theorem recompute_stamp (s : State) : (recompute s).power.lastKind
      = (if (formBudget s.power).avail < demand s.power then .shed else .admission)
    ∧ (recompute s).power.lastTime = s.time := by
  have time {t : State} (h : t.apart = s.apart) : t.time = s.time := (apart_iff.1 h).2.2.1
  unfold recompute recomputeShed
  dsimp only
  split
  · rename_i exceeds
    rw [handOn_power]
    exact ⟨(if_pos exceeds).symm, time (shedPass_keeps passKeeps_apart _ (s.modPower formBudget))⟩
  · rename_i within
    rw [handOn_power]
    exact ⟨(if_neg within).symm, time (admissionPass_keeps passKeeps_apart (s.modPower formBudget))⟩

theorem shedPass_within {i : Slot} {is : List Slot} {s : State} (within : demand s.power ≤ s.power.avail) :
    shedPass (i :: is) s = (s, []) := by
  rw [shedPass]
  exact if_pos within

theorem shedPass_exceeds {i : Slot} {is : List Slot} {s : State} (exceeds : s.power.avail < demand s.power) :
    shedPass (i :: is) s =
      ((shedPass is (leaveDraw i (.denied .shed) s)).1,
        i :: (shedPass is (leaveDraw i (.denied .shed) s)).2) := by
  rw [shedPass]
  exact if_neg (Nat.not_le.2 exceeds)

theorem recompute_sheds {s : State}
    (exceeds : (s.modPower formBudget).power.avail < demand (s.modPower formBudget).power) :
    recompute s =
      let r := shedPass (shedOrder (s.modPower formBudget).power) (s.modPower formBudget)
      handOn .shed (r.2.filter fun i => (s.modPower formBudget).isPowered i) r.2 r.1 := by
  unfold recompute recomputeShed
  dsimp only
  rw [if_pos exceeds]

theorem recompute_admits {s : State}
    (within : demand (s.modPower formBudget).power ≤ (s.modPower formBudget).power.avail) :
    recompute s = handOn .admission [] [] (admissionPass (s.modPower formBudget)) := by
  unfold recompute recomputeShed
  dsimp only
  rw [if_neg (Nat.not_lt.2 within)]

/-- Settles O38: the orders, the passes by their branches, and the figures that a recompute leaves. -/
theorem recomputeFitsTheBudget : Obligations.RecomputeFitsTheBudget := by
  unfold Obligations.RecomputeFitsTheBudget
  refine ⟨fun p => ⟨?_, fun i low => ?_, ?_, fun i low => ?_, ?_, fun q => mem_heldPorts⟩,
    fun i is q s => ⟨rfl, shedPass_within, fun r exceeds rest => ?_, fun fit => ?_, fun full => ?_,
      fun k held => ⟨fun fit => ?_, fun full => ?_⟩⟩,
    fun s u formed => ?_, fun s agree powered low => ?_⟩
  · exact pairwise_byLevel (B := (· < ·)) (List.pairwise_reverse.2 (List.pairwise_lt_finRange 8)) (by decide)
  · exact mem_byLevel.trans ⟨fun h => h.2.2, fun h =>
      ⟨(level_mem low).1, List.mem_reverse.2 (mem_allSlots i), h⟩⟩
  · exact (pairwise_byLevel (B := (· > ·)) (List.pairwise_lt_finRange 8) (by decide)).imp
      fun h => h.imp_left id
  · rw [← SlotPower.isDenied_iff]
    exact mem_byLevel.trans ⟨fun h => h.2.2, fun h => ⟨(level_mem low).2, mem_allSlots i, h⟩⟩
  · exact (List.pairwise_lt_finRange 256).filter _
  · rw [rest, shedPass_exceeds exceeds]
  · exact if_pos ((fits_iff _ _).2 fit)
  · exact if_neg fun fit => absurd ((fits_iff _ _).1 fit) (Nat.not_le.2 full)
  · unfold admitPort
    rw [held]
    exact if_pos ((fits_iff _ _).2 fit)
  · unfold admitPort
    rw [held]
    exact if_neg fun fit => absurd ((fits_iff _ _).1 fit) (Nat.not_le.2 full)
  · subst formed
    intro handsOn
    refine ⟨fun r exceeds pass => ?_, fun v within admitted => ?_⟩
    · subst pass
      rw [recompute_sheds exceeds]
      rfl
    · subst admitted
      rw [recompute_admits within]
      rfl
  · intro t
    have laid : s.power.LaidOut :=
      ⟨fun i => (agree i).2.1, fun x on => of_decide_eq_true (powered x on), low⟩
    have figures := (Power.figures_eq_iff _ _).1 (recompute_figures s)
    obtain ⟨supply, -, -, -, avail⟩ := figures
    obtain ⟨kind, time⟩ := recompute_stamp s
    obtain ⟨policy, input, slots⟩ := standing_iff.1 (recompute_standing s)
    obtain ⟨lic, auth, now, -⟩ := apart_iff.1 (recompute_apart s)
    refine ⟨(recompute_sound laid).within, avail, supply, ?_, time, policy, input, lic, auth, now, slots⟩
    rw [kind]
    split <;> simp [*]

/-! ### The requests (R89 to R91) -/

/-- The results of SET RESERVE POLICY. -/
def encBudgetPolicy (s : State) (shed : Nat) : List Byte :=
  encPolicy s.power.policy ++ u16 s.power.supply ++ u16 s.power.avail ++ u16 (demand s.power)
    ++ yes s.power.gridLost ++ u8 shed

theorem setReservePolicy_unnamed {x : Byte} (s : State) (h : policyOf x = none) :
    setReservePolicy x s = (s, .reply .badParam (encBudgetPolicy s 0)) := by
  unfold setReservePolicy
  rw [h]
  rfl

theorem setReservePolicy_same {x : Byte} {p : Policy} (s : State) (h : policyOf x = some p)
    (same : p = s.power.policy) : setReservePolicy x s = (s, .reply .done (encBudgetPolicy s 0)) := by
  unfold setReservePolicy
  rw [h]
  exact if_pos same

theorem setReservePolicy_changes {x : Byte} {p : Policy} (s : State) (h : policyOf x = some p)
    (other : p ≠ s.power.policy) : setReservePolicy x s =
      let r := recomputeShed (s.modPower fun w => { w with policy := p })
      (r.1, .reply .done (encBudgetPolicy r.1 r.2.length)) := by
  unfold setReservePolicy
  rw [h]
  exact if_neg other

/-- The results of SLOT POWER: the slot's state, then the demand and A. -/
def encSlotPowered (i : Slot) (s : State) : List Byte :=
  encAdmin (s.slotRec i).admin ++ encSlotPower (s.slotRec i).power
    ++ opt encDenial (denialOf (s.slotRec i).power) ++ u16 (demand s.power) ++ u16 s.power.avail

theorem encSlotPowered_eq (i : Slot) (s : State) :
    encSlotState (s.slotRec i) ++ encDemandA s = encSlotPowered i s := (List.append_assoc _ _ _).symm

theorem slotPower_unnamed {x y : Byte} (s : State) (h : x.toNat = 0 ∨ 8 < x.toNat) :
    slotPower x y s = (s, .reply .badParam []) := by
  unfold slotPower
  rw [slotOf_none h]

theorem slotPower_noAction {x y : Byte} {i : Slot} (s : State) (named : x.toNat = i.val + 1)
    (one : y.toNat ≠ 1) (two : y.toNat ≠ 2) :
    slotPower x y s = (s, .reply .badParam (encSlotPowered i s)) := by
  unfold slotPower
  rw [slotOf_some named, slotActionOf_none one two]
  exact congrArg (fun bs => (s, Took.reply .badParam bs)) (encSlotPowered_eq i s)

/-- What SLOT POWER does to a slot, by its power state. -/
theorem slotAction_eq (i : Slot) (on : Bool) (u : State) : (if on then slotOn i u else slotOff i u) =
    match (u.slotRec i).power, on with
    | .off, true | .faulted, true => recompute (evalTight (handSettled .slotFault (i.val + 1)
        (setSlotPower i (.denied .waiting) u)))
    | .denied _, false | .faulted, false => recompute (evalTight
        (handSettled .slotFault (i.val + 1) (setSlotPower i .off u)))
    | .powering _, false | .powered, false => recompute (leavePower i .off u)
    | _, _ => u := by
  unfold slotOn slotOff
  cases on <;> cases (u.slotRec i).power <;> rfl

theorem slotPower_done {x y : Byte} {i : Slot} {on : Bool} (s : State) (named : x.toNat = i.val + 1)
    (action : y.toNat = if on then 1 else 2) : slotPower x y s =
      let u := modSlot i (fun r => { r with admin := on }) s
      let t := if on then slotOn i u else slotOff i u
      (t, .reply .done (encSlotPowered i t)) := by
  unfold slotPower
  rw [slotOf_some named, slotActionOf_some action]
  exact congrArg (fun bs => (_, Took.reply .done bs)) (encSlotPowered_eq i _)

theorem setShedPriority_unnamed {x y : Byte} (s : State) (h : x.toNat = 0 ∨ 8 < x.toNat) :
    setShedPriority x y s = (s, .reply .badParam (encPriorities s)) := by
  unfold setShedPriority
  rw [slotOf_none h]

theorem setShedPriority_named {x y : Byte} {i : Slot} (s : State) (named : x.toNat = i.val + 1) :
    setShedPriority x y s =
      if 3 < y.toNat then (s, .reply .badParam (encPriorities s))
      else if (s.slotRec i).priority = y.toNat then (s, .reply .done (encPriorities s))
      else
        let t := recompute (modSlot i (fun r => { r with priority := y.toNat }) s)
        (t, .reply .done (encPriorities t)) := by
  unfold setShedPriority
  rw [slotOf_some named]

/-- Settles O41, request by request. -/
theorem powerRequestsAreJudged : Obligations.PowerRequestsAreJudged := by
  unfold Obligations.PowerRequestsAreJudged
  intro c tag x y i s ready holds h done policyIs slotIs priorities refused named
  refine ⟨fun unnamed => ?_, fun p code same => ?_, fun p r code other taken => ?_, fun unnamed => ⟨?_, ?_⟩,
    fun named one two => ?_, fun on u t named action before after => ?_, fun named high => ?_,
    fun named low same => ?_, fun t named low other taken => ?_⟩
  · exact exec_holder (r := .setReservePolicy x) ready holds rfl (setReservePolicy_unnamed h unnamed)
  · exact exec_holder (r := .setReservePolicy x) ready holds rfl (setReservePolicy_same h code same)
  · subst taken
    exact exec_holder (r := .setReservePolicy x) ready holds rfl (setReservePolicy_changes h code other)
  · exact exec_holder (r := .slotPower x y) ready holds rfl (slotPower_unnamed h unnamed)
  · exact exec_holder (r := .setShedPriority x y) ready holds rfl (setShedPriority_unnamed h unnamed)
  · exact exec_holder (r := .slotPower x y) ready holds rfl (slotPower_noAction h named one two)
  · subst before
    have power : ((modSlot i (fun r => { r with admin := on }) h).slotRec i).power = (s.slotRec i).power := by
      rw [modSlot_self]
      rfl
    have moved := slotAction_eq i on (modSlot i (fun r => { r with admin := on }) h)
    rw [power] at moved
    have taken := after.trans moved.symm
    subst taken
    exact exec_holder (r := .slotPower x y) ready holds rfl (slotPower_done h named action)
  · exact exec_holder (r := .setShedPriority x y) ready holds rfl
      ((setShedPriority_named h named).trans (if_pos high))
  · exact exec_holder (r := .setShedPriority x y) ready holds rfl
      ((setShedPriority_named h named).trans ((if_neg (Nat.not_lt.2 low)).trans (if_pos same)))
  · subst taken
    exact exec_holder (r := .setShedPriority x y) ready holds rfl
      ((setShedPriority_named h named).trans ((if_neg (Nat.not_lt.2 low)).trans (if_neg other)))

end Sys2Proof.Machine
end


-- ==== Sys2Proof/Proofs/LicensePool.lean ====
section
/-! SUPPORT. The License Unit: the figures of the pool, the serving of the queue, the regrade by the ceiling and the
revocation, and the requests that change the pool. -/

namespace Sys2Proof.Machine

/-! ### The figures of the pool (R100, R102) -/

theorem foldl_max_ge : ∀ (xs : List Nat) (m : Nat), m ≤ xs.foldl max m ∧ ∀ x ∈ xs, x ≤ xs.foldl max m
  | [], m => ⟨Nat.le_refl m, nofun⟩
  | x :: xs, m => by
    obtain ⟨start, rest⟩ := foldl_max_ge xs (max m x)
    refine ⟨(Nat.le_max_left m x).trans start, fun y mem => ?_⟩
    rcases List.mem_cons.1 mem with rfl | mem
    · exact (Nat.le_max_right m y).trans start
    · exact rest y mem

theorem foldl_max_mem : ∀ (xs : List Nat) (m : Nat), xs.foldl max m = m ∨ xs.foldl max m ∈ xs
  | [], m => .inl rfl
  | x :: xs, m => by
    rw [List.foldl_cons]
    rcases foldl_max_mem xs (max m x) with same | mem
    · rcases Nat.le_total x m with less | more
      · exact .inl (same.trans (Nat.max_eq_left less))
      · exact .inr (List.mem_cons.2 (.inl (same.trans (Nat.max_eq_right more))))
    · exact .inr (List.mem_cons_of_mem _ mem)

theorem classOfCode_iff (n : Nat) (k : PortClass) : classOfCode n = some k ↔ n = k.code := by
  unfold classOfCode
  split
  · cases k <;> simp [PortClass.code]
  · cases k <;> simp [PortClass.code]
  · cases k <;> simp [PortClass.code]
  · rename_i one two three
    refine ⟨nofun, fun h => ?_⟩
    cases k
    · exact absurd h one
    · exact absurd h two
    · exact absurd h three

theorem classOfCode_none (n : Nat) : classOfCode n = none ↔ n = 0 ∨ 3 < n := by
  unfold classOfCode
  split
  · simp
  · simp
  · simp
  · rename_i one two three
    refine ⟨fun _ => ?_, fun _ => rfl⟩
    have not1 : n ≠ 1 := one
    have not2 : n ≠ 2 := two
    have not3 : n ≠ 3 := three
    omega

theorem ceilingOf_iff {l : License} (k : PortClass) : ceilingOf l = some k ↔
    (∃ e ∈ l.table, e.ceiling.toNat = k.weight) ∧ ∀ e ∈ l.table, e.ceiling.toNat ≤ k.weight := by
  have pos : k.weight ≠ 0 := by cases k <;> decide
  unfold ceilingOf
  rw [classOfCode_iff]
  obtain ⟨-, most⟩ := foldl_max_ge (l.table.map fun e => e.ceiling.toNat) 0
  constructor
  · intro code
    have reached := foldl_max_mem (l.table.map fun e => e.ceiling.toNat) 0
    rw [show (l.table.map fun e => e.ceiling.toNat).foldl max 0 = k.weight from code] at reached most
    refine ⟨?_, fun e mem => most _ (List.mem_map_of_mem mem)⟩
    simpa using reached.resolve_left pos
  · rintro ⟨⟨e, mem, top⟩, all⟩
    have above : k.weight ≤ ceilingCode l := top ▸ most _ (List.mem_map_of_mem mem)
    have below : ceilingCode l ≤ k.weight := by
      rcases foldl_max_mem (l.table.map fun e => e.ceiling.toNat) 0 with zero | mem
      · exact (show ceilingCode l = 0 from zero) ▸ Nat.zero_le _
      · obtain ⟨x, inTable, value⟩ := List.mem_map.1 mem
        exact (show x.ceiling.toNat = ceilingCode l from value) ▸ all x inTable
    exact Nat.le_antisymm below above

/-! ### What the lists' changes leave (R101, R104) -/

theorem OnlyLicJoin.others {s t : State} (h : OnlyLicJoin s t) : t.power = s.power ∧ t.alarm = s.alarm
    ∧ t.auth = s.auth ∧ t.zone = s.zone ∧ t.link = s.link := by
  unfold OnlyLicJoin at h
  rw [h]
  exact ⟨rfl, rfl, rfl, rfl, rfl⟩

theorem grantPort_lic (p : Port) (c : PortClass) (s : State) :
    (grantPort p c s).lic = { s.lic with grants := s.lic.grants ++ [⟨p, c⟩] } := by
  simp [grantPort, joinClassField]

theorem effectiveClass_congr {l m : License} (table : l.table = m.table) (ports : l.ports = m.ports) (p : Port) :
    effectiveClass l p = effectiveClass m p := by
  unfold effectiveClass ceilingOf ceilingCode
  rw [table, ports]

/-! ### Serving (R103) -/

/-- What serving the queue `ps` of a state leaves. -/
structure Served (ps : List Port) (s : State) (r : State × List Grant) : Prop where
  queue : ps = r.2.map Grant.port ++ r.1.lic.waiting
  grants : r.1.lic.grants = s.lic.grants ++ r.2
  classes : ∀ g ∈ r.2, effectiveClass s.lic g.port = some g.cls
  head : ∀ p rest, r.1.lic.waiting = p :: rest →
    ∀ k, effectiveClass s.lic p = some k → freeUnits r.1.lic < k.weight
  table : r.1.lic.table = s.lic.table
  ports : r.1.lic.ports = s.lic.ports
  apart : OnlyLicJoin s r.1

theorem served_stops {ps : List Port} {s : State} (queue : s.lic.waiting = ps)
    (head : ∀ p rest, ps = p :: rest → ∀ k, effectiveClass s.lic p = some k → freeUnits s.lic < k.weight) :
    Served ps s (s, []) :=
  ⟨queue.symm, (List.append_nil _).symm, nofun, fun p rest h => head p rest (queue ▸ h), rfl, rfl, rfl⟩

theorem serve_served : ∀ (ps : List Port) (s : State), s.lic.waiting = ps → Served ps s (serve ps s)
  | [], s, queue => served_stops queue nofun
  | p :: ps, s, queue => by
    cases effective : effectiveClass s.lic p with
    | none =>
      have stops : serve (p :: ps) s = (s, []) := by
        rw [serve, effective]
      rw [stops]
      refine served_stops queue fun q rest same k class_ => ?_
      cases same
      rw [effective] at class_
      cases class_
    | some c =>
      by_cases fit : c.weight ≤ freeUnits s.lic
      · let t := grantPort p c (s.modLic fun l => { l with waiting := ps })
        have goes : serve (p :: ps) s = ((serve ps t).1, ⟨p, c⟩ :: (serve ps t).2) := by
          rw [serve, effective]
          exact if_pos fit
        have lic : t.lic = { s.lic with waiting := ps, grants := s.lic.grants ++ [⟨p, c⟩] } := grantPort_lic _ _ _
        have same (q : Port) : effectiveClass t.lic q = effectiveClass s.lic q :=
          effectiveClass_congr (by rw [lic]) (by rw [lic]) q
        have rest := serve_served ps t (by rw [lic])
        rw [goes]
        refine ⟨congrArg (p :: ·) rest.queue, ?_, fun g mem => ?_, fun q more waiting k class_ => ?_, ?_, ?_, ?_⟩
        · rw [rest.grants, lic]
          simp
        · rcases List.mem_cons.1 mem with rfl | mem
          · exact effective
          · exact (same _).symm.trans (rest.classes g mem)
        · exact rest.head q more waiting k ((same q).trans class_)
        · exact rest.table.trans (by rw [lic])
        · exact rest.ports.trans (by rw [lic])
        · have granted : OnlyLicJoin s t :=
            OnlyLicJoin.trans (t := s.modLic fun l => { l with waiting := ps }) rfl (onlyLicJoin_joinField p _ _)
          exact granted.trans rest.apart
      · have stops : serve (p :: ps) s = (s, []) := by
          rw [serve, effective]
          exact if_neg fit
        rw [stops]
        refine served_stops queue fun q rest same k class_ => ?_
        cases same
        rw [effective] at class_
        cases class_
        exact Nat.lt_of_not_le fit

theorem headWeight_iff (l : License) (w : Nat) : headWeight l = some w ↔
    ∃ p rest k, l.waiting = p :: rest ∧ effectiveClass l p = some k ∧ k.weight = w := by
  unfold headWeight
  cases l.waiting with
  | nil => simp
  | cons p rest =>
    rw [Option.map_eq_some_iff]
    constructor
    · rintro ⟨k, class_, weight⟩
      exact ⟨p, rest, k, rfl, class_, weight⟩
    · rintro ⟨q, more, k, same, class_, weight⟩
      cases same
      exact ⟨k, class_, weight⟩

/-- The four changes after which the queue is served (R103). -/
theorem mustServe_iff (before after : License) : mustServe before after = true ↔
    freeUnits before < freeUnits after ∨ ceilingCode before < ceilingCode after
      ∨ (∃ p rest, before.waiting = p :: rest ∧ p ∉ after.waiting)
      ∨ ∃ p q rest more old new, before.waiting = p :: rest ∧ after.waiting = q :: more
        ∧ effectiveClass before p = some old ∧ effectiveClass after q = some new
        ∧ new.weight < old.weight := by
  have left : (match before.waiting with | [] => false | p :: _ => !after.waiting.contains p) = true ↔
      ∃ p rest, before.waiting = p :: rest ∧ p ∉ after.waiting := by
    cases before.waiting with
    | nil => simp
    | cons p rest => simp
  have lighter : (match headWeight before, headWeight after with
      | some w, some v => decide (v < w)
      | _, _ => false) = true ↔ ∃ w v, headWeight before = some w ∧ headWeight after = some v ∧ v < w := by
    cases headWeight before <;> cases headWeight after <;> simp
  unfold mustServe
  rw [Bool.or_eq_true, Bool.or_eq_true, Bool.or_eq_true, decide_eq_true_eq, decide_eq_true_eq, or_assoc, or_assoc]
  refine or_congr Iff.rfl (or_congr Iff.rfl (or_congr left (lighter.trans ?_)))
  constructor
  · rintro ⟨w, v, old, new, less⟩
    obtain ⟨p, rest, x, queue, class_, rfl⟩ := (headWeight_iff _ _).1 old
    obtain ⟨q, more, y, queue', class', rfl⟩ := (headWeight_iff _ _).1 new
    exact ⟨p, q, rest, more, x, y, queue, queue', class_, class', less⟩
  · rintro ⟨p, q, rest, more, x, y, queue, queue', class_, class', less⟩
    exact ⟨_, _, (headWeight_iff _ _).2 ⟨p, rest, x, queue, class_, rfl⟩,
      (headWeight_iff _ _).2 ⟨q, more, y, queue', class', rfl⟩, less⟩

/-- Settles O45: the figures, the walk over the queue, the four changes, and the notices. -/
theorem queueIsServedFromItsHead : Obligations.QueueIsServedFromItsHead := by
  unfold Obligations.QueueIsServedFromItsHead
  refine ⟨fun l p k => ⟨rfl, rfl, rfl, rfl, rfl, rfl, fun empty => ?_, fun _ => ceilingOf_iff k, fun none => ?_,
    fun ceiling => ?_⟩, fun s consistent => ?_, fun before ns s => ⟨fun calls => ?_, fun quiet => ?_, rfl⟩,
    fun n ns s => ⟨rfl, rfl, fun h => if_pos h, fun h => if_neg (by rw [h]; exact Bool.false_ne_true)⟩⟩
  · unfold ceilingOf ceilingCode
    rw [empty]
    rfl
  · unfold effectiveClass
    rw [none]
    rfl
  · unfold effectiveClass
    rw [ceiling]
    rfl
  · have served := serve_served s.lic.waiting s rfl
    obtain ⟨power, alarm, -, -, -⟩ := served.apart.others
    exact ⟨served.queue, served.grants, served.classes, served.head, served.table, served.ports, power, alarm⟩
  · exact if_pos ((mustServe_iff _ _).2 calls)
  · exact if_neg fun must => quiet ((mustServe_iff _ _).1 must)

/-! ### Licenses taken back (R106, R107) -/

theorem regrades_lic (c : PortClass) : ∀ (ps : List Port) (s : State),
    (ps.foldl (fun t p => regradePort p c t) s).lic
      = { s.lic with grants := s.lic.grants.map fun g => if g.port ∈ ps then ⟨g.port, c⟩ else g }
  | [], s => by simp
  | p :: ps, s => by
    have grants : ((s.lic.grants.map fun g => if g.port = p then ⟨p, c⟩ else g).map
        fun g => if g.port ∈ ps then ⟨g.port, c⟩ else g)
          = s.lic.grants.map fun g => if g.port ∈ p :: ps then ⟨g.port, c⟩ else g := by
      rw [List.map_map]
      refine List.map_congr_left fun g _ => ?_
      by_cases here : g.port = p
      · by_cases again : p ∈ ps <;> simp [here, again]
      · simp [here]
    rw [List.foldl_cons, regrades_lic c ps, regradePort_lic]
    exact congrArg (fun gs : List Grant => { s.lic with grants := gs }) grants

theorem regradeByCeiling_lowered {before : License} {s : State} {k : PortClass} (ceiling : ceilingOf s.lic = some k)
    (lower : ceilingCode s.lic < ceilingCode before) : regradeByCeiling before s =
      ((aboveCeiling s.lic k).foldl (fun t p => regradePort p k t) s,
        (aboveCeiling s.lic k).map fun p => .regrade p k) := by
  unfold regradeByCeiling
  rw [ceiling]
  exact if_pos lower

theorem regradeByCeiling_kept {before : License} {s : State}
    (h : ceilingOf s.lic = none ∨ ceilingCode before ≤ ceilingCode s.lic) : regradeByCeiling before s = (s, []) := by
  unfold regradeByCeiling
  split
  · rfl
  · rename_i c ceiling
    exact if_neg (Nat.not_lt.2 (h.resolve_left (by rw [ceiling]; simp)))

theorem mem_aboveCeiling {l : License} (apart : (l.grants.map Grant.port).Nodup) {g : Grant} (mem : g ∈ l.grants)
    (c : PortClass) : g.port ∈ aboveCeiling l c ↔ c.code < g.cls.code := by
  unfold aboveCeiling
  rw [List.mem_map]
  constructor
  · rintro ⟨x, here, same⟩
    obtain ⟨inList, above⟩ := List.mem_filter.1 here
    rw [ports_unique _ apart x inList g mem same] at above
    exact of_decide_eq_true above
  · exact fun above => ⟨g, List.mem_filter.2 ⟨mem, decide_eq_true above⟩, rfl⟩

/-- What a revocation over a grant list from its tail leaves: the head it keeps, and the tail it takes. -/
structure Revoked (grants : List Grant) (s : State) (r : State × List Port) (kept taken : List Grant) : Prop where
  split : grants = kept ++ taken
  grants : r.1.lic.grants = kept
  order : r.2 = (taken.map Grant.port).reverse
  queue : r.1.lic.waiting = taken.map Grant.port ++ s.lic.waiting
  fits : grantedUnits r.1.lic ≤ poolTotal s.lic
  least : ∀ g rest, taken = g :: rest → poolTotal s.lic < ((kept ++ [g]).map fun x => x.cls.weight).sum
  table : r.1.lic.table = s.lic.table
  ports : r.1.lic.ports = s.lic.ports

theorem revoke_revoked : ∀ (gs : List Grant) (s : State), s.lic.grants = gs.reverse →
    (gs.map Grant.port).Nodup → ∃ kept taken, Revoked gs.reverse s (revoke gs s) kept taken
  | [], s, list, _ => ⟨[], [], rfl, list, rfl, rfl, by
      show grantedUnits s.lic ≤ _
      unfold grantedUnits
      rw [list]
      exact Nat.zero_le _, nofun, rfl, rfl⟩
  | g :: gs, s, list, apart => by
    obtain ⟨fresh, apart⟩ := List.nodup_cons.1 apart
    by_cases fit : grantedUnits s.lic ≤ poolTotal s.lic
    · have stops : revoke (g :: gs) s = (s, []) := by
        rw [revoke]
        exact if_pos fit
      rw [stops]
      exact ⟨_, [], (List.append_nil _).symm, list, rfl, rfl, fit, nofun, rfl, rfl⟩
    · let t := (releasePort g.port s).modLic fun l => { l with waiting := g.port :: l.waiting }
      have goes : revoke (g :: gs) s = ((revoke gs t).1, g.port :: (revoke gs t).2) := by
        rw [revoke]
        exact if_neg fit
      have lic : t.lic = { s.lic with
          grants := s.lic.grants.filter (fun x => x.port ≠ g.port), waiting := g.port :: s.lic.waiting } := by
        simp [t, releasePort, joinClassField]
      have left : t.lic.grants = gs.reverse := by
        rw [lic]
        show s.lic.grants.filter _ = _
        rw [list, List.reverse_cons, List.filter_append]
        have others : gs.reverse.filter (fun x => decide (x.port ≠ g.port)) = gs.reverse :=
          List.filter_eq_self.2 fun x mem => by
            have other : x.port ≠ g.port := fun same =>
              fresh (same ▸ List.mem_map_of_mem (List.mem_reverse.1 mem))
            simpa using other
        rw [others]
        simp
      have total : poolTotal t.lic = poolTotal s.lic := by rw [lic]; rfl
      obtain ⟨kept, taken, rest⟩ := revoke_revoked gs t left apart
      rw [goes]
      refine ⟨kept, taken ++ [g], ?_, rest.grants, ?_, ?_, total ▸ rest.fits, fun x more first => ?_, ?_, ?_⟩
      · rw [List.reverse_cons, rest.split, List.append_assoc]
      · simp [rest.order]
      · rw [rest.queue, lic]
        simp
      · cases taken with
        | nil =>
          cases first
          have all : kept = gs.reverse := by simpa using rest.split.symm
          have exceeds := Nat.lt_of_not_le fit
          unfold grantedUnits at exceeds
          rw [all]
          rwa [list, List.reverse_cons] at exceeds
        | cons y ys =>
          cases first
          exact total ▸ rest.least _ ys rfl
      · exact rest.table.trans (by rw [lic])
      · exact rest.ports.trans (by rw [lic])

/-- Settles O44, by the walk over the ports above the ceiling and the walk from the tail of the grants. -/
theorem licensesAreTakenBack : Obligations.LicensesAreTakenBack := by
  unfold Obligations.LicensesAreTakenBack
  intro s apart
  have ports : (s.lic.grants.map Grant.port).Nodup := (List.nodup_append.1 apart).1
  refine ⟨fun before k ceiling lower => ?_, fun before h => regradeByCeiling_kept h, ?_⟩
  · intro r
    have graded : r = _ := regradeByCeiling_lowered ceiling lower
    rw [graded]
    refine ⟨?_, ?_⟩
    · rw [regrades_lic]
      refine List.map_congr_left fun g mem => ?_
      simp only [mem_aboveCeiling ports mem k]
    · unfold aboveCeiling
      rw [List.map_map]
      rfl
  · have reversed : (s.lic.grants.reverse.map Grant.port).Nodup := by
      rw [List.map_reverse]
      exact List.nodup_reverse.2 ports
    obtain ⟨kept, taken, revoked⟩ := revoke_revoked s.lic.grants.reverse s (List.reverse_reverse _).symm reversed
    refine ⟨kept, taken, (List.reverse_reverse _).symm.trans revoked.split, revoked.grants, revoked.order,
      revoked.queue, revoked.fits, revoked.least, revoked.table, revoked.ports⟩

end Sys2Proof.Machine
end


-- ==== Sys2Proof/Proofs/LicenseRequests.lean ====
section
/-! SUPPORT. What a step of the License Unit leaves as it was, and the requests of the License Unit: INSTALL
ENTITLEMENT, REMOVE ENTITLEMENT and PORT ADMIN. -/

namespace Sys2Proof.Machine

/-! ### The notices leave the lists, the authority and the transaction (R85, R86) -/

theorem setPort_apart (p : Port) (st : PortPower) (s : State) : (setPort p st s).apart = s.apart := by
  unfold setPort
  dsimp only
  split <;> simp [State.apart]

theorem testPort_apart (p : Port) (k : PortClass) (s : State) : (testPort p k s).apart = s.apart := by
  unfold testPort evalTight
  rw [handSettled_apart]
  split
  · rw [tellDemand_apart, setPort_apart]
  · rw [setPort_apart]

theorem takeGrant_apart (p : Port) (k : PortClass) (s : State) : (takeGrant p k s).apart = s.apart := by
  unfold takeGrant
  split
  · exact testPort_apart p k s
  · rfl

theorem takeRelease_apart (p : Port) (s : State) : (takeRelease p s).1.apart = s.apart := by
  unfold takeRelease evalTight
  dsimp only
  split
  · rw [handSettled_apart, tellDemand_apart, setPort_apart]
  · rw [handSettled_apart, setPort_apart]

theorem takeRegrade_apart (p : Port) (k : PortClass) (s : State) : (takeRegrade p k s).1.apart = s.apart := by
  unfold takeRegrade evalTight
  split
  · rw [handSettled_apart]
  · rw [handSettled_apart, setPort_apart]
  · split_ifs <;> rw [handSettled_apart, tellDemand_apart, setPort_apart]

theorem takeNotice_apart (n : Notice) (s : State) : (takeNotice n s).1.apart = s.apart := by
  cases n with
  | grant p k => exact takeGrant_apart p k s
  | release p => exact takeRelease_apart p s
  | regrade p k => exact takeRegrade_apart p k s

theorem takeAll_apart : ∀ (ns : List Notice) (s : State), (takeAll ns s).1.apart = s.apart
  | [], _ => rfl
  | n :: ns, s => (takeAll_apart ns (takeNotice n s).1).trans (takeNotice_apart n s)

theorem handNotices_apart (ns : List Notice) (s : State) : (handNotices ns s).apart = s.apart := by
  unfold handNotices
  dsimp only
  split
  · rw [recompute_apart, takeAll_apart]
  · exact takeAll_apart ns s

theorem handCondition_apart (k : AlarmClass) (n : Nat) (s : State) : (handCondition k n s).apart = s.apart := by
  simp [State.apart]

theorem raiseRevoked_apart (ps : List Port) (s : State) : (raiseRevoked ps s).apart = s.apart :=
  foldl_keeps State.apart (fun t (p : Port) => occurEvent .licenseRevoked (p.val + 1) false t)
    (fun t p => occurEvent_apart .licenseRevoked (p.val + 1) false t) ps s

/-! ### What serving leaves (R103) -/

/-- The table, the settings of the ports and all that stands outside the License Unit. -/
theorem serveAfter_leaves (before : License) (s : State) : (serveAfter before s).1.lic.table = s.lic.table
    ∧ (serveAfter before s).1.lic.ports = s.lic.ports ∧ OnlyLicJoin s (serveAfter before s).1 := by
  unfold serveAfter
  split
  · have served := serve_served s.lic.waiting s rfl
    exact ⟨served.table, served.ports, served.apart⟩
  · exact ⟨rfl, rfl, rfl⟩

theorem endStep_lic (before : License) (ns : List Notice) (s : State) :
    (endStep before ns s).1.lic = (serveAfter before s).1.lic := by
  have kept : (endStep before ns s).1.apart = (serveAfter before s).1.apart := by
    unfold endStep
    dsimp only
    rw [handCondition_apart, handNotices_apart]
  exact (apart_iff.1 kept).1

theorem endStep_table (before : License) (ns : List Notice) (s : State) :
    (endStep before ns s).1.lic.table = s.lic.table := by
  rw [endStep_lic]
  exact (serveAfter_leaves before s).1

/-! ### Entitlements (R97 to R99, R105 to R108) -/

/-- Whether the values of a record keep it from being installed (R99). -/
def Entitlement.bad (e : Entitlement) : Prop :=
  e.flags.toNat ≠ 0 ∨ e.units.toNat = 0 ∨ 768 < e.units.toNat
    ∨ e.ceiling.toNat = 0 ∨ 3 < e.ceiling.toNat ∨ e.id.toNat = 0

theorem bad_iff (e : Entitlement) : (e.flags ≠ 0 ∨ e.units = 0 ∨ 768 < e.units.toNat
    ∨ classOfCode e.ceiling.toNat = none ∨ e.id = 0) ↔ e.bad := by
  have zero {w : Nat} (b : BitVec w) : b = 0 ↔ b.toNat = 0 := by
    rw [← BitVec.toNat_inj]
    simp
  unfold Entitlement.bad
  rw [classOfCode_none, ne_eq, zero e.flags, zero e.units, zero e.id, or_assoc]

section
variable {serial : Option (BitVec 64)} {l : License} {e : Entitlement}

/-- A check code or a serial number that does not fit fails the check. -/
theorem installCheck_fake (fake : ¬ (e.check = crc32 e.head ∧ serial = some e.serial)) :
    installCheck serial l e = some .checkFail := by
  unfold installCheck
  by_cases check : e.check = crc32 e.head
  · exact (if_neg (not_not_intro check)).trans (if_pos fun same => fake ⟨check, same⟩)
  · exact if_pos check

/-- A genuine record is judged by its values and the table. -/
theorem installCheck_genuine (genuine : e.check = crc32 e.head ∧ serial = some e.serial) :
    installCheck serial l e =
      if e.flags ≠ 0 ∨ e.units = 0 ∨ 768 < e.units.toNat ∨ classOfCode e.ceiling.toNat = none ∨ e.id = 0 then
        some .badParam
      else if l.table.any fun x => x.id = e.id then some .duplicate
      else if 16 ≤ l.table.length then some .noSpace
      else none :=
  (if_neg (not_not_intro genuine.1)).trans (if_neg (not_not_intro genuine.2))

theorem any_id_iff (l : License) (id : BitVec 32) :
    (l.table.any fun x => x.id = id) = true ↔ ∃ x ∈ l.table, x.id = id := by
  simp

theorem installEntitlement_refused {o : OutcomeCode} {s : State} (h : installCheck s.serial s.lic e = some o) :
    installEntitlement e s = (s, .reply o (u8 s.lic.table.length ++ encPool s.lic ++ u16 0)) := by
  unfold installEntitlement
  rw [h]

theorem installEntitlement_installed {s : State} {r : State × Nat} (h : installCheck s.serial s.lic e = none)
    (ended : r = endStep s.lic [] (s.modLic fun l => { l with table := l.table ++ [e] })) :
    installEntitlement e s = (r.1, .reply .done (u8 r.1.lic.table.length ++ encPool r.1.lic ++ u16 r.2)) := by
  unfold installEntitlement
  rw [h, ended]

end

theorem removeEntitlement_unknown {id : BitVec 32} {s : State} (h : ¬ ∃ x ∈ s.lic.table, x.id = id) :
    removeEntitlement id s = (s, .reply .notFound
      (encPool s.lic ++ u16 0 ++ u16 0 ++ u16 0 ++ u16 s.lic.waiting.length)) := by
  unfold removeEntitlement
  exact if_neg fun known => h ((any_id_iff s.lic id).1 known)

/-- The changes of the lists by REMOVE ENTITLEMENT: the regrade by the ceiling, the revocation and the serving. -/
structure Removal (id : BitVec 32) (s s1 : State) (graded : State × List Notice) (revoked : State × List Port)
    (served : State × List Grant) : Prop where
  struck : s1 = s.modLic fun l => { l with table := l.table.filter fun x => x.id ≠ id }
  regrades : graded = regradeByCeiling s.lic s1
  revokes : revoked = revoke graded.1.lic.grants.reverse graded.1
  serves : served = serveAfter s.lic revoked.1

section
variable {id : BitVec 32} {s s1 t : State} {graded : State × List Notice} {revoked : State × List Port}
  {served : State × List Grant}

theorem removeEntitlement_known (known : ∃ x ∈ s.lic.table, x.id = id)
    (removal : Removal id s s1 graded revoked served)
    (ends : t = handCondition .licenseWait 1 (raiseRevoked revoked.2 (handNotices
      (graded.2 ++ revoked.2.map (fun p => .release p) ++ served.2.map (fun g => .grant g.port g.cls))
      served.1))) :
    removeEntitlement id s = (t, .reply .done (encPool t.lic ++ u16 graded.2.length ++ u16 revoked.2.length
      ++ u16 served.2.length ++ u16 t.lic.waiting.length)) := by
  obtain ⟨rfl, rfl, rfl, rfl⟩ := removal
  rw [ends]
  unfold removeEntitlement
  exact if_pos ((any_id_iff s.lic id).2 known)

theorem regradeByCeiling_leaves (before : License) (s : State) :
    (regradeByCeiling before s).1.lic.table = s.lic.table ∧ (regradeByCeiling before s).1.lic.ports = s.lic.ports := by
  unfold regradeByCeiling
  split
  · exact ⟨rfl, rfl⟩
  · split
    · dsimp only
      rw [regrades_lic]
      exact ⟨rfl, rfl⟩
    · exact ⟨rfl, rfl⟩

theorem revoked_leaves : ∀ (gs : List Grant) (l : License),
    (License.revoked gs l).table = l.table ∧ (License.revoked gs l).ports = l.ports
  | [], _ => ⟨rfl, rfl⟩
  | g :: gs, l => by
    unfold License.revoked
    split
    · exact ⟨rfl, rfl⟩
    · exact revoked_leaves gs _

/-- The changes of the lists keep the table that is left, the settings of the ports and all that stands outside
the License Unit. -/
theorem Removal.leaves (removal : Removal id s s1 graded revoked served) :
    served.1.lic.table = s1.lic.table ∧ served.1.lic.ports = s.lic.ports ∧ served.1.auth = s.auth
      ∧ served.1.zone = s.zone := by
  have struck : OnlyLicJoin s s1 := removal.struck ▸ rfl
  have graded' : OnlyLicJoin s1 graded.1 := removal.regrades ▸ onlyLicJoin_regradeByCeiling _ _
  obtain ⟨revoked', lists⟩ := revoke_spec graded.1.lic.grants.reverse graded.1
  rw [← removal.revokes] at revoked' lists
  obtain ⟨table, ports, served'⟩ := removal.serves ▸ serveAfter_leaves s.lic revoked.1
  obtain ⟨gradedTable, gradedPorts⟩ := removal.regrades ▸ regradeByCeiling_leaves s.lic s1
  obtain ⟨revokedTable, revokedPorts⟩ := revoked_leaves graded.1.lic.grants.reverse graded.1.lic
  rw [← lists] at revokedTable revokedPorts
  obtain ⟨-, -, auth, zone, -⟩ := (((struck.trans graded').trans revoked').trans served').others
  refine ⟨(table.trans revokedTable).trans gradedTable, ?_, auth, zone⟩
  rw [ports, revokedPorts, gradedPorts, removal.struck]
  rfl

theorem Removal.ends_leaves (removal : Removal id s s1 graded revoked served) {ns : List Notice}
    (ends : t = handCondition .licenseWait 1 (raiseRevoked revoked.2 (handNotices ns served.1))) :
    t.lic = served.1.lic ∧ t.lic.table = s1.lic.table ∧ t.lic.ports = s.lic.ports
      ∧ t.auth = s.auth ∧ t.zone.txn = s.zone.txn := by
  have kept : t.apart = served.1.apart := by
    rw [ends, handCondition_apart, raiseRevoked_apart, handNotices_apart]
  obtain ⟨lic, auth, -, txn⟩ := apart_iff.1 kept
  obtain ⟨table, ports, auth', zone⟩ := removal.leaves
  refine ⟨lic, ?_, ?_, auth.trans auth', ?_⟩
  · rw [lic, table]
  · rw [lic, ports]
  · rw [txn, zone]

end

/-- Settles O43, by the checks of INSTALL in their order, and by the changes of REMOVE in theirs. -/
theorem entitlementsAreJudged : Obligations.EntitlementsAreJudged := by
  unfold Obligations.EntitlementsAreJudged
  refine ⟨fun p ps s => ⟨rfl, rfl⟩, fun c tag e s ready holds => ?_⟩
  intro h install pool refused bad genuine same
  have refuses {o : OutcomeCode} (judged : installCheck s.serial s.lic e = some o) : refused o :=
    exec_holder (r := .installEntitlement e) ready holds rfl (installEntitlement_refused (s := h) judged)
  have goodValues (fine : ¬ bad) := mt (bad_iff e).1 fine
  have fresh (new : ¬ same) : ¬ (s.lic.table.any fun x => x.id = e.id) = true := mt (any_id_iff s.lic e.id).1 new
  refine ⟨fun fake => refuses (installCheck_fake fake), fun real wrong => ?_, fun real fine known => ?_,
    fun real fine new full => ?_, fun real fine new room => ?_, fun new => ?_, fun known => ?_⟩
  · exact refuses ((installCheck_genuine real).trans (if_pos ((bad_iff e).2 wrong)))
  · exact refuses ((installCheck_genuine real).trans
      ((if_neg (goodValues fine)).trans (if_pos ((any_id_iff s.lic e.id).2 known))))
  · exact refuses ((installCheck_genuine real).trans
      ((if_neg (goodValues fine)).trans ((if_neg (fresh new)).trans (if_pos full))))
  · have passes : installCheck s.serial s.lic e = none := (installCheck_genuine real).trans
      ((if_neg (goodValues fine)).trans ((if_neg (fresh new)).trans (if_neg (Nat.not_le.2 room))))
    refine ⟨_, rfl, endStep_table _ _ _, ?_⟩
    exact exec_holder (r := .installEntitlement e) ready holds rfl (installEntitlement_installed (s := h) passes rfl)
  · exact exec_holder (r := .removeEntitlement e.id) ready holds rfl (removeEntitlement_unknown (s := h) new)
  · have removal : Removal e.id h _ _ _ _ := ⟨rfl, rfl, rfl, rfl⟩
    have serves := removeEntitlement_known (s := h) known removal rfl
    obtain ⟨lic, table, ports, auth, txn⟩ := removal.ends_leaves rfl
    have link := (kept_serveRequest c (.removeEntitlement e.id) h).link
    rw [show serveRequest c (.removeEntitlement e.id) h = _ from serves] at link
    exact ⟨_, _, _, _, _, rfl, rfl, rfl, rfl, rfl,
      exec_holder (r := .removeEntitlement e.id) ready holds rfl serves, lic, table, ports, link, auth, txn⟩

end Sys2Proof.Machine
end


-- ==== Sys2Proof/Proofs/PortAdmin.lean ====
section
/-! SUPPORT. PORT ADMIN: the request, the walk over its ports, the changes of the grant list, and what it does to
one port. -/

namespace Sys2Proof.Machine

/-! ### The request (R109) -/

/-- The results of PORT ADMIN for a group: one for each port, and the figures of the pool. -/
def encPortAdmin (g : Fin 32) (t : State) (rs : List PortResult) : List Byte :=
  (((groupPorts g).zip rs).flatMap fun x => encPortResult t x.1 x.2)
    ++ (u16 (grantedUnits t.lic) ++ u16 (freeUnits t.lic) ++ u16 t.lic.waiting.length)

theorem encPortAdmin_eq (g : Fin 32) (t : State) (rs : List PortResult) :
    (((groupPorts g).zip rs).flatMap fun x => encPortResult t x.1 x.2)
      ++ u16 (grantedUnits t.lic) ++ u16 (freeUnits t.lic) ++ u16 t.lic.waiting.length = encPortAdmin g t rs := by
  unfold encPortAdmin
  rw [List.append_assoc, List.append_assoc, List.append_assoc]

section
variable {group mask action cls : Byte} {g : Fin 32} {s : State}

theorem portAdmin_outside (h : 31 < group.toNat) : portAdmin group mask action cls s = (s, .reply .badParam []) := by
  unfold portAdmin
  rw [groupOf_none h]

theorem portAdmin_badParam (named : group.toNat = g.val) (bad : portActionOf action = none ∨ classOf cls = none) :
    portAdmin group mask action cls s
      = (s, .reply .badParam (encPortAdmin g s (List.replicate 8 .untouched))) := by
  rw [← encPortAdmin_eq]
  unfold portAdmin
  rw [groupOf_some named]
  dsimp only
  rcases bad with bad | bad
  · rw [bad]
  · rw [bad]
    cases portActionOf action <;> rfl

theorem portAdmin_done {up : Bool} {k : PortClass} {r : State × List PortResult} (named : group.toNat = g.val)
    (action' : action.toNat = if up then 1 else 2) (cls' : cls.toNat = k.code)
    (handled : r = adminPorts up k ((groupPorts g).zip ((List.range 8).map mask.getLsbD)) s) :
    portAdmin group mask action cls s = (r.1, .reply .done (encPortAdmin g r.1 r.2)) := by
  rw [← encPortAdmin_eq, handled]
  unfold portAdmin
  rw [groupOf_some named, portActionOf_some action', classOf_some cls']

end

/-! ### One port (R110 to R113) -/

theorem classFieldOf_place {i : Slot} {q : Fin 4} {p : Port} (slot : p.val / 32 = i.val)
    (quarter : p.val % 32 / 8 = q.val) : classFieldOf p = .portClass i q := by
  have slot' : portSlot p = i := Fin.ext slot
  unfold classFieldOf portLocal
  rw [slot']
  refine congrArg (HeldField.portClass i) (Fin.ext ?_)
  have below : p.val % 32 < 32 := Nat.mod_lt _ (by decide)
  show (if _ then (0 : Fin 4) else _).val = _
  rw [← quarter]
  split_ifs
  · exact (Nat.div_eq_of_lt (by omega)).symm
  · show 1 = _
    omega
  · show 2 = _
    omega
  · show 3 = _
    omega

/-- The class in effect for a port whose settings changed. -/
theorem effectiveClass_modPort {p : Port} {f : PortConfig → PortConfig} {s : State} {cls : PortClass}
    (asks : (f (s.lic.ports.get p)).requested = cls) :
    effectiveClass (modPort p f s).lic p = (ceilingOf s.lic).map cls.smaller := by
  show Option.map (PortClass.smaller ((updAt s.lic.ports p f).get p).requested) _ = _
  rw [updAt_self, asks]
  rfl

section
variable {p : Port} {s : State} {k cls old : PortClass}

theorem isEmpty_and_iff {ps : List Port} {n m : Nat} :
    (ps.isEmpty && decide (n ≤ m)) = true ↔ ps = [] ∧ n ≤ m := by
  rw [Bool.and_eq_true, List.isEmpty_iff, decide_eq_true_eq]

theorem requestLicense_noCeiling (h : effectiveClass s.lic p = none) :
    requestLicense p s = (queuePort p s, [], .waiting) := by
  unfold requestLicense
  rw [h]

theorem requestLicense_grants (h : effectiveClass s.lic p = some k) (empty : s.lic.waiting = [])
    (fit : k.weight ≤ freeUnits s.lic) : requestLicense p s = (grantPort p k s, [.grant p k], .granted) := by
  unfold requestLicense
  rw [h]
  exact if_pos (isEmpty_and_iff.2 ⟨empty, fit⟩)

theorem requestLicense_queues (h : effectiveClass s.lic p = some k)
    (blocked : s.lic.waiting ≠ [] ∨ freeUnits s.lic < k.weight) :
    requestLicense p s = (queuePort p s, [], .waiting) := by
  unfold requestLicense
  rw [h]
  refine if_neg fun free => ?_
  obtain ⟨empty, fit⟩ := isEmpty_and_iff.1 free
  exact blocked.elim (fun waits => waits empty) fun more => absurd fit (Nat.not_le.2 more)

/-- The port, with the class it requests from now on. -/
def requestsClass (p : Port) (cls : PortClass) (s : State) : State :=
  modPort p (fun r => { r with requested := cls }) s

/-- An UP of a GRANTED port is judged by the class in effect for the class it requests. -/
theorem upGranted_ceiling {ceiling new : PortClass} (h : ceilingOf s.lic = some ceiling)
    (smaller : cls.smaller ceiling = new) : upGranted p old cls s =
      if new = old then (requestsClass p cls s, [], .unchanged)
      else if new.weight < old.weight then
        (regradePort p new (requestsClass p cls s), [.regrade p new], .regraded)
      else if s.lic.waiting.isEmpty && decide (new.weight - old.weight ≤ freeUnits s.lic) then
        (regradePort p new (requestsClass p cls s), [.regrade p new], .regraded)
      else (s, [], .noUnits) := by
  have effective : effectiveClass (modPort p (fun r => { r with requested := cls }) s).lic p = some new := by
    rw [effectiveClass_modPort rfl, h, ← smaller]
    rfl
  unfold upGranted
  dsimp only
  rw [effective]
  rfl

theorem upGranted_noCeiling (h : ceilingOf s.lic = none) : upGranted p old cls s = (s, [], .noUnits) := by
  have effective : effectiveClass (modPort p (fun r => { r with requested := cls }) s).lic p = none := by
    rw [effectiveClass_modPort rfl, h]
    rfl
  unfold upGranted
  dsimp only
  rw [effective]

/-! A port of license state NONE. -/

theorem portUp_absent (state : licenseState s.lic p = .none) (absent : s.portExists p = false) :
    portUp p cls s = (modPort p (fun _ => ⟨true, cls⟩) s, [], .recorded) := by
  unfold portUp
  rw [state]
  exact if_neg (by rw [absent]; exact Bool.false_ne_true)

theorem portUp_present (state : licenseState s.lic p = .none) (present : s.portExists p = true) :
    portUp p cls s = requestLicense p (modPort p (fun _ => ⟨true, cls⟩) s) := by
  unfold portUp
  rw [state]
  exact if_pos present

theorem portDown_none (state : licenseState s.lic p = .none) : portDown p s =
    (modPort p (fun r => { r with up := false }) s, [], if s.portExists p then .unchanged else .recorded) := by
  unfold portDown
  rw [state]

/-! A WAITING port. -/

theorem portUp_waiting (state : licenseState s.lic p = .waiting) :
    portUp p cls s = (requestsClass p cls s, [], .waiting) := by
  unfold portUp
  rw [state]
  rfl

theorem portDown_waiting (state : licenseState s.lic p = .waiting) : portDown p s =
    (unqueuePort p (modPort p (fun r => { r with up := false }) s), [], .withdrawn) := by
  unfold portDown
  rw [state]

/-! A GRANTED port. -/

theorem portUp_granted (state : licenseState s.lic p = .granted old) : portUp p cls s = upGranted p old cls s := by
  unfold portUp
  rw [state]

theorem portDown_granted (state : licenseState s.lic p = .granted old) : portDown p s =
    (releasePort p (modPort p (fun r => { r with up := false }) s), [.release p], .released) := by
  unfold portDown
  rw [state]

end

/-- Settles O46: the request, the walk, the changes of the grant list, and one port by its license state. -/
theorem portAdminHandlesItsMask : Obligations.PortAdminHandlesItsMask := by
  unfold Obligations.PortAdminHandlesItsMask
  refine ⟨fun c tag group mask action cls s ready holds => ?_, fun up k p rest s => ⟨rfl, rfl, fun r t handled ends => ?_⟩,
    fun i q p k s slot quarter => ?_, fun p cls s => ?_⟩
  · intro h row tail
    refine ⟨fun outside => ?_, fun g named => ⟨fun bad => ?_, fun up k action' cls' => ⟨_, rfl, ?_⟩⟩⟩
    · exact exec_holder (r := .portAdmin group mask action cls) ready holds rfl (portAdmin_outside (s := h) outside)
    · exact exec_holder (r := .portAdmin group mask action cls) ready holds rfl
        (portAdmin_badParam (s := h) named bad)
    · exact exec_holder (r := .portAdmin group mask action cls) ready holds rfl
        (portAdmin_done (s := h) named action' cls' rfl)
  · rw [ends, handled]
    rfl
  · have field := classFieldOf_place slot quarter
    unfold grantPort releasePort regradePort joinClassField
    rw [field]
    exact ⟨rfl, rfl, rfl⟩
  · intro up down asked wider closed queued
    refine ⟨fun state absent => ⟨portUp_absent state absent, ?_⟩, fun state present => ?_,
      fun state => ⟨portUp_waiting state, portDown_waiting state⟩,
      fun old state => ⟨portDown_granted state, fun none => ?_, fun ceiling some' => ?_⟩⟩
    · refine (portDown_none state).trans ?_
      rw [absent]
      rfl
    · have requests : up = requestLicense p asked := portUp_present state present
      refine ⟨?_, fun none => ?_, fun ceiling some' => ⟨fun empty fit => ?_, fun blocked => ?_⟩⟩
      · refine (portDown_none state).trans ?_
        rw [present]
        rfl
      · have effective : effectiveClass asked.lic p = Option.none := by
          rw [show asked = modPort p (fun _ => ⟨true, cls⟩) s from rfl, effectiveClass_modPort rfl, none]
          rfl
        exact requests.trans (requestLicense_noCeiling effective)
      all_goals
        have effective : effectiveClass asked.lic p = some (cls.smaller ceiling) := by
          rw [show asked = modPort p (fun _ => ⟨true, cls⟩) s from rfl, effectiveClass_modPort rfl, some']
          rfl
      · exact requests.trans (requestLicense_grants effective empty fit)
      · exact requests.trans (requestLicense_queues effective blocked)
    · exact (portUp_granted state).trans (upGranted_noCeiling none)
    · have judged : up = _ := (portUp_granted state).trans (upGranted_ceiling some' rfl)
      refine ⟨fun same => judged.trans (if_pos same), fun less => ?_, fun more empty fit => ?_, fun more blocked => ?_⟩
      · have other : cls.smaller ceiling ≠ old := fun same => absurd (same ▸ less) (Nat.lt_irrefl _)
        exact judged.trans ((if_neg other).trans (if_pos less))
      all_goals
        have other : cls.smaller ceiling ≠ old := fun same => absurd (same ▸ more) (Nat.lt_irrefl _)
        have notLess : ¬ (cls.smaller ceiling).weight < old.weight := Nat.lt_asymm more
      · exact judged.trans ((if_neg other).trans
          ((if_neg notLess).trans (if_pos (isEmpty_and_iff.2 ⟨empty, fit⟩))))
      · refine judged.trans ((if_neg other).trans ((if_neg notLess).trans (if_neg fun free => ?_)))
        obtain ⟨empty, fit⟩ := isEmpty_and_iff.1 free
        exact blocked.elim (fun waits => waits empty) fun short => absurd fit (Nat.not_le.2 short)

end Sys2Proof.Machine
end


-- ==== Sys2Proof/Proofs/ScanStarts.lean ====
section
/-! SUPPORT. How a pass starts and ends: the scan marks, the attempts at the chassis serial, and what the end of a
transaction leaves of the scan. -/

namespace Sys2Proof.Machine

/-! ### Scan marks (R37) -/

theorem markDue_from20 (s : State) :
    markDue s = true ↔ 20 ≤ s.time.toNat ∧ s.time.toNat % 20 = 0 ∧ s.lastMark ≠ s.time := by
  have nonzero : s.time ≠ 0 ↔ s.time.toNat ≠ 0 := not_congr (by rw [← BitVec.toNat_inj]; rfl)
  rw [markDue_iff, nonzero]
  constructor
  · rintro ⟨started, whole, fresh⟩
    exact ⟨by omega, whole, fresh⟩
  · rintro ⟨started, whole, fresh⟩
    exact ⟨by omega, whole, fresh⟩

theorem startScan_known {s : State} {v : BitVec 64} (known : s.serial = some v) : startScan s = startPass s := by
  unfold startScan
  exact if_neg (by rw [known]; exact Bool.false_ne_true)

theorem startScan_unread {s : State} (unread : s.serial = none) : startScan s = startAttempt s := by
  unfold startScan
  exact if_pos (by rw [unread]; rfl)

section
variable {s : State}

theorem takeMark_idle (due : markDue s = true) (idle : s.bus.scan = .idle) :
    takeMark s = startScan { s with lastMark := s.time } := by
  refine (if_pos due).trans ?_
  dsimp only
  rw [idle]

theorem takeMark_running (due : markDue s = true) (running : s.bus.scan ≠ .idle) : takeMark s =
    (show State from { s with lastMark := s.time }).modBus fun b => { b with startPending := true } := by
  refine (if_pos due).trans ?_
  dsimp only
  split
  · exact absurd ‹_› running
  · rfl

end

/-- Settles O28, by the mark and by what the engine does at it. -/
theorem scanMarkStartsAPass : Obligations.ScanMarkStartsAPass := by
  unfold Obligations.ScanMarkStartsAPass
  rintro s t rfl mark
  have taken {v : State} (h : takeMark s = v) : exec .scanMark s = .next (arbitrate v) :=
    congrArg (fun v => Host.Outcome.next (arbitrate v)) h
  refine ⟨fun v due idle known => taken ?_, fun due idle unread => taken ?_,
    fun due running => taken (takeMark_running ((markDue_from20 s).2 due) running),
    fun not => taken (if_neg fun due => not ((markDue_from20 s).1 due))⟩
  · exact (takeMark_idle ((markDue_from20 s).2 due) idle).trans (startScan_known known)
  · exact (takeMark_idle ((markDue_from20 s).2 due) idle).trans (startScan_unread unread)

/-! ### The end of a transaction leaves the scan -/

theorem freeBus_sameScan (t : OnBus) (e : BusEnd) (s : State) : SameScan s.bus (freeBus t e s).bus :=
  (moves_freeBus t e (.refl s)).kept.scan

@[simp] theorem freeBus_scan (t : OnBus) (e : BusEnd) (s : State) : (freeBus t e s).bus.scan = s.bus.scan :=
  (freeBus_sameScan t e s).1

@[simp] theorem freeBus_startPending (t : OnBus) (e : BusEnd) (s : State) :
    (freeBus t e s).bus.startPending = s.bus.startPending := (freeBus_sameScan t e s).2.1

/-! ### The chassis serial (R198) -/

theorem serialOf_four (p0 p1 p2 p3 : BitVec 16) : serialOf [p0, p1, p2, p3] = BitVec.ofNat 64
    (p0.toNat + 2 ^ 16 * p1.toNat + 2 ^ 32 * p2.toNat + 2 ^ 48 * p3.toNat) := by
  refine congrArg (BitVec.ofNat 64) ?_
  show (((0 * 65536 + p3.toNat) * 65536 + p2.toNat) * 65536 + p1.toNat) * 65536 + p0.toNat = _
  omega

section
variable {got : List (BitVec 16)} {owed : Bool} {e : BusEnd} {s : State}

theorem serialEnded_piece {d : BitVec 16} (scan : s.bus.scan = .serial got owed) (more : got.length < 3) :
    serialEnded (.done d) s
      = s.modBus fun b => { b with scan := .serial (got ++ [d]) owed, class4 := true } := by
  unfold serialEnded
  rw [scan]
  exact if_neg (by rw [List.length_append, List.length_singleton]; omega)

theorem serialEnded_last {d : BitVec 16} (scan : s.bus.scan = .serial got owed) (last : got.length = 3) :
    serialEnded (.done d) s = endAttempt owed { s with serial := some (serialOf (got ++ [d])) } := by
  unfold serialEnded
  rw [scan]
  exact if_pos (by rw [List.length_append, List.length_singleton, last])

theorem serialEnded_failed (scan : s.bus.scan = .serial got owed) (failed : e.data = none) :
    serialEnded e s = endAttempt owed s := by
  unfold serialEnded
  rw [scan]
  rcases BusEnd.data_eq_none failed with rfl | rfl <;> rfl

theorem endAttempt_eq {pending : Bool} (same : s.bus.startPending = pending) : endAttempt owed s =
    if owed then startPass s
    else if pending then startPass (s.modBus fun b => { b with startPending := false })
    else s.modBus fun b => { b with scan := .idle } := by
  unfold endAttempt endScan
  rw [same]

end

/-- Settles O31, by the outcome of the read and the pieces read before it. -/
theorem serialIsReadInFourPieces : Obligations.SerialIsReadInFourPieces := by
  unfold Obligations.SerialIsReadInFourPieces
  rintro x got owed first again s u onBus scan rfl row passes ends
  let u := freeBus ⟨.serial, x⟩ (busEnd x first again) s
  have scan' : u.bus.scan = .serial got owed := (freeBus_scan _ _ s).trans scan
  have ended {e : BusEnd} {v : State} (h : busEnd x first again = e) (k : serialEnded e u = v) :
      row = .next (arbitrate v) := by
    subst h k
    exact endOf_mine (mine := fun o => o = .serial) (act := fun _ e t => serialEnded e t) onBus (by simp)
  have attempt {v : State} (same : v.bus = u.bus) : endAttempt owed v = ends v :=
    endAttempt_eq (same ▸ freeBus_startPending _ _ s)
  refine ⟨fun d done more => ended done (serialEnded_piece scan' more), fun p0 p1 p2 p3 three done => ?_,
    fun failed => ended rfl ((serialEnded_failed scan' failed).trans (attempt rfl)), ?_⟩
  · subst three
    refine ended done ((serialEnded_last scan' rfl).trans ?_)
    rw [show [p0, p1, p2] ++ [p3] = [p0, p1, p2, p3] from rfl, serialOf_four]
    exact attempt rfl
  · unfold scanGrant
    rw [scan]

end Sys2Proof.Machine
end


-- ==== Sys2Proof/Proofs/ScanPass.lean ====
section
/-! SUPPORT. A pass of the scan: the transactions of its list, where each end leads, the acknowledgement values and
deadlines, the rewrite and the completion. -/

namespace Sys2Proof.Machine

/-! ### Through the scan list (R38) -/

section
variable {s : State}

theorem afterSlot_next {i j : Slot} (next : j.val = i.val + 1) :
    afterSlot i s = scanTo (.slotLines j (s.zone.slots.get j).ackDeadline.isSome) s := by
  have inList : i.val + 1 < 8 := next ▸ j.isLt
  have same : (⟨i.val + 1, inList⟩ : Slot) = j := Fin.ext next.symm
  exact (dif_pos inList).trans (congrArg (fun k => reachSlot k s) same)

theorem afterBay_next {b b' : Bay} (next : b'.val = b.val + 1) : afterBay b s = scanTo (.bayLines b') s := by
  have inList : b.val + 1 < 4 := next ▸ b'.isLt
  have same : (⟨b.val + 1, inList⟩ : Bay) = b' := Fin.ext next.symm
  exact (dif_pos inList).trans (congrArg (fun k => scanTo (.bayLines k) s) same)

theorem afterTray_next {y y' : Tray} (next : y'.val = y.val + 1) : afterTray y s = scanTo (.trayLine y') s := by
  have inList : y.val + 1 < 3 := next ▸ y'.isLt
  have same : (⟨y.val + 1, inList⟩ : Tray) = y' := Fin.ext next.symm
  exact (dif_pos inList).trans (congrArg (fun k => scanTo (.trayLine k) s) same)

theorem afterTray_last {f : HeldField} {rest : List HeldField} (fields : rewriteList s.bus = f :: rest) :
    afterTray 2 s = scanTo (.rewrite f rest) s := by
  refine (dif_neg (by decide)).trans ?_
  rw [fields]
  rfl

theorem rotorEnded_next {y : Tray} {r r' : Rotor} {rise : Bool} {e : BusEnd} {u : State}
    (next : r'.val = r.val + 1) (taken : u = if rise then rotorAtRise y r (e.data.map BitVec.toNat) s
      else rotorSpeed y r (e.data.map BitVec.toNat) s) : rotorEnded y r rise e s = scanTo (.rotor y r' rise) u := by
  have inList : r.val + 1 < 4 := next ▸ r'.isLt
  have same : (⟨r.val + 1, inList⟩ : Rotor) = r' := Fin.ext next.symm
  rw [taken]
  exact (dif_pos inList).trans (congrArg (fun k => scanTo (.rotor y k rise) _) same)

end

/-! ### Acknowledgements (R145, R155) -/

section
variable {i : Slot} {d : BitVec 16} {s : State}

theorem ackValue_loading (other : s.zone.catchUpSlot ≠ some i) : ackValue i d s =
    if (s.zone.slots.get i).status = some .awaitAck ∧ d = pendingGeneration s.zone then
      goOn (modZoneSlot i (fun r => { r with status := some .loaded, loaded := d, ackDeadline := none }) s)
    else s := if_neg other

theorem ackValue_catchUp (own : s.zone.catchUpSlot = some i) : ackValue i d s =
    if (s.zone.slots.get i).ackDeadline.isSome ∧ d = s.zone.active.generation then
      joinClass1 (.slotActivate i) (modZoneSlot i (fun r => { r with ackDeadline := none }) s)
    else s := if_pos own

theorem judgeAckDeadline_none (unset : (s.zone.slots.get i).ackDeadline = none) : judgeAckDeadline i s = s := by
  unfold judgeAckDeadline
  rw [unset]

end

/-! ### The completion of a pass (R37, R41) -/

section
variable {s u : State}

theorem completePass_idle (ended : u = judgeAckDeadlines (coolingPass s)) (no : s.bus.startPending = false) :
    completePass s = u.modBus fun b => { b with scan := .idle } := by
  have kept : u.bus.startPending = s.bus.startPending := ended ▸ (kept_passEnd s).scan.2.1
  rw [completePass, ← ended]
  exact if_neg (by rw [kept, no]; exact Bool.false_ne_true)

theorem completePass_pending (ended : u = judgeAckDeadlines (coolingPass s)) (yes : s.bus.startPending = true) :
    completePass s = startScan (u.modBus fun b => { b with startPending := false }) := by
  have kept : u.bus.startPending = s.bus.startPending := ended ▸ (kept_passEnd s).scan.2.1
  rw [completePass, ← ended]
  exact if_pos (kept.trans yes)

end

/-! ### The rewrite (R42) -/

theorem countP_toList {α : Type} {n : Nat} (v : Vector α n) (p : α → Bool) :
    v.toList.countP p = ((List.finRange n).filter fun i => p (v.get i)).length := by
  rw [toList_eq_map_get, List.countP_map, List.countP_eq_length_filter]
  rfl

theorem rewriteList_length (b : Bus) : (rewriteList b).length =
    7 * b.slotSeen.toList.countP Debounce.present + b.traySeen.toList.countP Debounce.present + 1 := by
  unfold rewriteList
  rw [countP_toList, countP_toList, List.length_append, List.length_append, List.length_flatMap, List.length_map]
  simp [allSlots, Nat.mul_comm]

theorem rewriteList_slot {b : Bus} {i : Slot} (present : (b.slotSeen.get i).present = true) :
    [HeldField.powerEnable i, .portEnable i 0, .portEnable i 1, .portClass i 0, .portClass i 1,
      .portClass i 2, .portClass i 3] <:+: rewriteList b := by
  have listed : i ∈ allSlots.filter fun i => (b.slotSeen.get i).present :=
    List.mem_filter.2 ⟨mem_allSlots i, present⟩
  have fields := ((List.singleton_infix_iff _ _).2 listed).flatMap fun i : Slot =>
    [HeldField.powerEnable i, .portEnable i 0, .portEnable i 1, .portClass i 0, .portClass i 1,
      .portClass i 2, .portClass i 3]
  rw [List.flatMap_singleton] at fields
  unfold rewriteList
  rw [List.append_assoc]
  exact fields.trans (List.prefix_append _ _).isInfix

theorem mem_rewriteList_duty {b : Bus} {y : Tray} (present : (b.traySeen.get y).present = true) :
    HeldField.duty y ∈ rewriteList b :=
  List.mem_append_left _ (List.mem_append_right _ (List.mem_map_of_mem
    (List.mem_filter.2 ⟨List.mem_finRange y, present⟩)))

/-- Settles O30: the list, and where the end of each of its transactions leads. -/
theorem scanTransactionEnds : Obligations.ScanTransactionEnds := by
  unfold Obligations.ScanTransactionEnds
  refine ⟨fun x st first again s onBus scan => ?_, fun w i b y r awaited inputOk outputOk rise k l f rest s => ?_,
    fun st i j b b' y y' s => ⟨rfl, rfl, rfl, afterSlot_next, rfl, afterBay_next, rfl, afterTray_next,
      fun f rest => afterTray_last⟩, fun e s => ?_, fun i d e s => ?_,
    fun b inputOk outputOk rated kind e s t taken => ?_, fun y r r' rise d e s t u taken spun => ?_,
    fun e f g rest s u ended => ⟨rfl, completePass_idle ended, fun yes known => ?_, fun yes unread => ?_⟩,
    fun i s => ?_, fun b => ⟨rewriteList_length b, fun i => rewriteList_slot, fun y => mem_rewriteList_duty,
      List.mem_append_right _ (List.mem_singleton_self _)⟩⟩
  · intro e
    refine (endOf_mine (mine := fun o => o = .scan) (act := fun _ e t => scanEnded e t) onBus (by simp)).trans ?_
    have scan' : (freeBus ⟨.scan, x⟩ e s).bus.scan = .pass st := (freeBus_scan _ _ s).trans scan
    have goes : scanEnded e (freeBus ⟨.scan, x⟩ e s) = scanStepEnded st e (freeBus ⟨.scan, x⟩ e s) := by
      unfold scanEnded
      rw [scan']
    exact congrArg (fun v => Host.Outcome.next (arbitrate v)) goes
  · intro slot bay tray
    refine ⟨fun idle => ?_, fun st scan => ?_, rfl, rfl, rfl, rfl, rfl, rfl, rfl, rfl, rfl, rfl, rfl,
      congrArg (fun first => Txn.read first 16) (Nat.add_assoc _ _ _).symm, rfl⟩
    · unfold scanGrant
      rw [idle]
    · unfold scanGrant
      rw [scan]
  · intro reading u
    exact ⟨rfl, rfl⟩
  · intro r
    refine ⟨rfl, fun failed => ?_, fun other await named => ?_, fun other not => ?_, fun own set named => ?_,
      fun own not => ?_⟩
    · rcases BusEnd.data_eq_none failed with rfl | rfl <;> rfl
    · exact (ackValue_loading other).trans (if_pos ⟨await, named⟩)
    · refine (ackValue_loading other).trans (if_neg ?_)
      rintro ⟨await, named⟩
      exact not.elim (fun h => h await) fun h => h named
    · exact (ackValue_catchUp own).trans (if_pos ⟨Option.isSome_iff_ne_none.2 set, named⟩)
    · refine (ackValue_catchUp own).trans (if_neg ?_)
      rintro ⟨set, named⟩
      exact not.elim (Option.isSome_iff_ne_none.1 set) fun h => h named
  · subst taken
    refine ⟨rfl, rfl, rfl, fun failed => ?_, rfl⟩
    rcases BusEnd.data_eq_none failed with rfl | rfl <;> rfl
  · subst taken
    refine ⟨rfl, rfl, fun failed => ?_, fun next => rotorEnded_next next spun, fun last => ?_⟩
    · rcases BusEnd.data_eq_none failed with rfl | rfl <;> rfl
    · subst last spun
      rfl
  · refine (completePass_pending ended yes).trans ?_
    obtain ⟨v, known⟩ := Option.ne_none_iff_exists'.1 known
    have kept : u.serial = s.serial := ended ▸ (kept_passEnd s).serial
    exact startScan_known (kept.trans known)
  · have kept : u.serial = s.serial := ended ▸ (kept_passEnd s).serial
    exact (completePass_pending ended yes).trans (startScan_unread (kept.trans unread))
  · intro r
    refine ⟨rfl, judgeAckDeadline_none, fun d set => ⟨fun early => ?_, fun due other => ?_, fun due own => ?_⟩⟩
    · exact (judgeAckDeadline_set set).trans (if_neg (by rw [early]; exact Bool.false_ne_true))
    · exact (judgeAckDeadline_set set).trans ((if_pos due).trans (if_neg other))
    · exact (judgeAckDeadline_set set).trans ((if_pos due).trans (if_pos own))

end Sys2Proof.Machine
end


-- ==== Sys2Proof/Proofs/Readings.lean ====
section
/-! SUPPORT. What the scan's readings do at the Cooling Controller: the sensors and T_in, the supplies, the trays and
their rotors, and the settling of the conditions at a pass completion. -/

namespace Sys2Proof.Machine

/-! ### T_in (R54 to R56) -/

section
variable {c : Cooling} {x y : Sensor}

theorem warmest_pair (two : c.sensors = #v[x, y]) :
    warmest c = (([x, y].filter Sensor.valid).map Sensor.last).max? := by
  unfold warmest
  rw [two]
  rfl

theorem formTIn_valid {v : Int} (h : warmest c = some v) : formTIn c = (v, false) := by
  unfold formTIn
  rw [h]

theorem formTIn_noneValid (h : warmest c = none) : formTIn c =
    if c.sensors.toList.all fun r => r.invalidPasses = 4 then (50, true) else (c.tIn, c.assumed) := by
  unfold formTIn
  rw [h]

theorem warmest_both (two : c.sensors = #v[x, y]) (first : x.valid = true) (second : y.valid = true) :
    warmest c = some (max x.last y.last) := by
  rw [warmest_pair two, List.filter_cons_of_pos first, List.filter_cons_of_pos second]
  rfl

theorem warmest_first (two : c.sensors = #v[x, y]) (first : x.valid = true) (second : y.valid = false) :
    warmest c = some x.last := by
  rw [warmest_pair two, List.filter_cons_of_pos first, List.filter_cons_of_neg (by simp [second])]
  rfl

theorem warmest_second (two : c.sensors = #v[x, y]) (first : x.valid = false) (second : y.valid = true) :
    warmest c = some y.last := by
  rw [warmest_pair two, List.filter_cons_of_neg (by simp [first]), List.filter_cons_of_pos second]
  rfl

theorem warmest_neither (two : c.sensors = #v[x, y]) (first : x.valid = false) (second : y.valid = false) :
    warmest c = none := by
  rw [warmest_pair two, List.filter_cons_of_neg (by simp [first]), List.filter_cons_of_neg (by simp [second])]
  rfl

theorem allLost_iff (two : c.sensors = #v[x, y]) :
    (c.sensors.toList.all fun r => r.invalidPasses = 4) = true ↔ x.invalidPasses = 4 ∧ y.invalidPasses = 4 := by
  rw [two]
  simp

end

section
variable {tIn : Int} {assumed : Bool} {s : State}

/-- The record with a new T_in, before anything follows from it. -/
theorem updateTIn_formed (formed : formTIn s.cool = (tIn, assumed)) : updateTIn s =
    if tIn ≠ s.cool.tIn then
      recomputeDuty (coolingNotice (handSettled .tempCrit 1 (handSettled .tempWarn 1
        ((s.modCool fun c => { c with tIn := tIn, assumed := assumed }).modCool reformUsable))))
    else if assumed ≠ s.cool.assumed then
      recomputeDuty (s.modCool fun c => { c with tIn := tIn, assumed := assumed })
    else s := by
  unfold updateTIn
  dsimp only
  rw [formed]

end

/-! ### Rotors (R58, R59) -/

section
variable {c : Cooling} {now : Time} {y : Tray} {r : Rotor} {speed maximum : Nat}

theorem rotorAfter_known (known : (c.trays.get y).maximum = some maximum) : rotorAfter c now y r speed =
    if reached now (c.trays.get y).settle then judgeRotor maximum c.duty speed ((c.trays.get y).rotors.get r)
    else { (c.trays.get y).rotors.get r with measured := speed } := by
  unfold rotorAfter
  dsimp only
  rw [known]

theorem rotorNumber_eq (y : Tray) (r : Rotor) : rotorNumber y r = 4 * y.val + r.val + 1 :=
  congrArg (fun n => n + r.val + 1) (Nat.mul_comm _ _)

theorem handRotors_eq (y : Tray) (s : State) :
    handRotors y s = [1, 2, 3, 4].foldl (fun u k => handSettled .fanRotorFail (4 * y.val + k) u) s := by
  unfold handRotors
  simp only [rotorNumber_eq]
  rfl

end

/-! ### The conditions at the settling (R62) -/

theorem conditionNow_congr {s t : State} (cool : t.cool.supplies = s.cool.supplies ∧ t.cool.trays = s.cool.trays
      ∧ t.cool.tIn = s.cool.tIn ∧ t.cool.sensors = s.cool.sensors) (power : t.power = s.power)
    (lic : t.lic = s.lic) (auth : t.auth = s.auth) (k : AlarmClass) (n : Nat) :
    conditionNow t k n = conditionNow s k n := by
  obtain ⟨supplies, trays, tIn, sensors⟩ := cool
  unfold conditionNow
  rw [supplies, trays, tIn, sensors, power, lic, auth]

theorem conditionNow_handCondition (k l : AlarmClass) (m n : Nat) (s : State) :
    conditionNow (handCondition k m s) l n = conditionNow s l n := by
  refine conditionNow_congr ⟨?_, ?_, ?_, ?_⟩ (handCondition_power _ _ _) (handCondition_lic _ _ _)
    (handCondition_auth _ _ _) l n <;> rw [handCondition_cool]

theorem condRow?_occurCondition (k : AlarmClass) (m : Nat) (v : Bool) (s : State) (l : AlarmClass) (n : Nat) :
    condRow? (occurCondition k m v s).alarm l n = condRow? (modCond k m
      (fun r => { r with condition := v, changed := s.time }.settleSeen) s).alarm l n := by
  refine condRow?_conds ?_ l n
  unfold occurCondition
  rw [reevaluate_conds]
  exact (appendHistory_ringOnly _ _ _ _ _).conds

theorem condRow?_modCond_ne {k l : AlarmClass} {m n : Nat} {f : CondRow → CondRow} (s : State)
    (key : ∀ r, (f r).cls = r.cls ∧ (f r).number = r.number) (other : ¬ (l = k ∧ n = m)) :
    condRow? (modCond k m f s).alarm l n = condRow? s.alarm l n := by
  show List.find? _ (List.map _ s.alarm.conds) = _
  unfold condRow?
  induction s.alarm.conds with
  | nil => rfl
  | cons r rs ih =>
    obtain ⟨cls, number⟩ := key r
    rw [List.map_cons, List.find?_cons, List.find?_cons, ih]
    by_cases here : r.cls = k ∧ r.number = m
    · obtain ⟨rfl, rfl⟩ := here
      have away : ¬ (r.cls = l ∧ r.number = n) := fun same => other ⟨same.1.symm, same.2.symm⟩
      rw [if_pos ⟨rfl, rfl⟩, cls, number, decide_eq_false away]
    · rw [if_neg here]

/-- The row of a condition holds the value of the owner's records. -/
def RowAgrees (k : AlarmClass) (n : Nat) (s : State) : Prop :=
  ∀ r, condRow? s.alarm k n = some r → r.condition = conditionNow s k n

theorem settleSeen_key (v : Bool) (t : Time) (r : CondRow) :
    ({ r with condition := v, changed := t }.settleSeen).cls = r.cls
      ∧ ({ r with condition := v, changed := t }.settleSeen).number = r.number
      ∧ ({ r with condition := v, changed := t }.settleSeen).condition = v := by
  rw [CondRow.settleSeen_eq]
  exact ⟨rfl, rfl, rfl⟩

theorem rowAgrees_handCondition_self (k : AlarmClass) (n : Nat) (s : State) :
    RowAgrees k n (handCondition k n s) := by
  intro r row
  rw [conditionNow_handCondition]
  cases before : condRow? s.alarm k n with
  | none =>
    have same : heldCondition s.alarm k n = false := by
      unfold heldCondition
      rw [before]
    unfold handCondition at row
    dsimp only at row
    split at row
    · rw [before] at row
      cases row
    · rw [condRow?_occurCondition, condRow?_modCond s fun r => ⟨(settleSeen_key _ _ r).1, (settleSeen_key _ _ r).2.1⟩,
        before] at row
      cases row
  | some old =>
    by_cases agree : old.condition = conditionNow s k n
    · rw [handCondition_same before agree, before] at row
      cases row
      exact agree
    · rw [handCondition_changed before agree, condRow?_occurCondition,
        condRow?_modCond s fun r => ⟨(settleSeen_key _ _ r).1, (settleSeen_key _ _ r).2.1⟩, before] at row
      cases row
      exact (settleSeen_key _ _ old).2.2

theorem rowAgrees_handCondition {l : AlarmClass} {m : Nat} {s : State} (k : AlarmClass) (n : Nat)
    (agrees : RowAgrees l m s) : RowAgrees l m (handCondition k n s) := by
  by_cases same : l = k ∧ m = n
  · obtain ⟨rfl, rfl⟩ := same
    exact rowAgrees_handCondition_self l m s
  · intro r row
    rw [conditionNow_handCondition]
    refine agrees r ?_
    unfold handCondition at row
    dsimp only at row
    split at row
    · exact row
    · rwa [condRow?_occurCondition, condRow?_modCond_ne s
        (fun r => ⟨(settleSeen_key _ _ r).1, (settleSeen_key _ _ r).2.1⟩) same] at row

theorem rowAgrees_handAll {l : AlarmClass} {m : Nat} : ∀ (xs : List (AlarmClass × Nat)) (s : State),
    (RowAgrees l m s ∨ (l, m) ∈ xs) → RowAgrees l m (xs.foldl (fun t x => handCondition x.1 x.2 t) s)
  | [], s, h => h.resolve_right (List.not_mem_nil)
  | x :: xs, s, h => by
    refine rowAgrees_handAll xs (handCondition x.1 x.2 s) ?_
    rcases h with agrees | mem
    · exact .inl (rowAgrees_handCondition x.1 x.2 agrees)
    · rcases List.mem_cons.1 mem with rfl | mem
      · exact .inl (rowAgrees_handCondition_self l m s)
      · exact .inr mem

theorem mem_withheldRows {k : AlarmClass} {n : Nat} (withheld : k ∈ [AlarmClass.psuFault, .psuInputLost,
      .fanRotorFail, .fanTrayAbsent, .tempWarn, .tempCrit, .sensorLost, .budgetTight, .slotFault])
    (numbered : 1 ≤ n ∧ n ≤ k.count) : (k, n) ∈ withheldRows :=
  List.mem_flatMap.2 ⟨k, withheld, List.mem_map.2 ⟨n, (mem_numbersTo n _).2 numbered, rfl⟩⟩

theorem conditionNow_settle (s : State) (k : AlarmClass) (n : Nat) :
    conditionNow (settle s) k n = conditionNow s k n :=
  foldl_keeps (fun u : State => conditionNow u k n) (fun t (x : AlarmClass × Nat) => handCondition x.1 x.2 t)
    (fun t x => conditionNow_handCondition x.1 k x.2 n t) withheldRows (s.modCool fun c => { c with settled := true })

theorem settle_rows {k : AlarmClass} {n : Nat} {s : State} (withheld : k ∈ [AlarmClass.psuFault, .psuInputLost,
      .fanRotorFail, .fanTrayAbsent, .tempWarn, .tempCrit, .sensorLost, .budgetTight, .slotFault])
    (numbered : 1 ≤ n ∧ n ≤ k.count) : RowAgrees k n (settle s) :=
  rowAgrees_handAll withheldRows _ (.inr (mem_withheldRows withheld numbered))

/-- The records that the conditions are read from, all but the settled flag. -/
theorem settle_leaves (s : State) : (settle s).cool = { s.cool with settled := true }
    ∧ (settle s).power = s.power ∧ (settle s).zone = s.zone := by
  have kept := foldl_keeps (fun u : State => (u.cool, u.power, u.zone))
    (fun t (x : AlarmClass × Nat) => handCondition x.1 x.2 t) (fun t x => by simp)
    withheldRows (s.modCool fun c => { c with settled := true })
  simp only [Prod.mk.injEq] at kept
  exact kept

/-! ### The completion of a pass (R62) -/

theorem coolingPass_settled {s : State} {n : Nat} (count : n = min 3 (s.cool.passes + 1))
    (h : n < 3 ∨ s.cool.settled = true) :
    coolingPass s = recomputeDuty (s.modCool fun c => { c with passes := n }) := by
  subst count
  refine congrArg recomputeDuty (if_neg ?_)
  rintro ⟨three, unsettled⟩
  rcases h with few | settled
  · exact absurd three (Nat.ne_of_lt few)
  · exact Bool.false_ne_true (unsettled.symm.trans settled)

theorem coolingPass_settles {s : State} (third : 3 = min 3 (s.cool.passes + 1)) (h : s.cool.settled = false) :
    coolingPass s = recomputeDuty (settle (s.modCool fun c => { c with passes := 3 })) := by
  have passes : (s.modCool fun c => { c with passes := min 3 (c.passes + 1) })
      = s.modCool fun c => { c with passes := 3 } :=
    congrArg (fun n => s.modCool fun c => { c with passes := n }) third.symm
  exact congrArg recomputeDuty ((if_pos ⟨third.symm, h⟩).trans (congrArg settle passes))

/-! ### Supplies and trays (R49 to R53, R57 to R61) -/

section
variable {b : Bay} {inputOk outputOk : Bool} {y : Tray} {r : Rotor} {s : State}

theorem supplyLines_same (same : (s.cool.supplies.get b).state = supplyStateOf inputOk outputOk) :
    supplyLines b inputOk outputOk s = s := if_pos same

theorem supplyLines_changed (differs : (s.cool.supplies.get b).state ≠ supplyStateOf inputOk outputOk) :
    supplyLines b inputOk outputOk s = coolingNotice (handSupply b (modSupply b
      (fun x => supplyAt s.cool.tIn (supplyStateOf inputOk outputOk) x.identity) s)) := if_neg differs

theorem rotorAtRise_early {speed : Option Nat} (early : r.val < 3) :
    rotorAtRise y r speed s = modRotor y r (fun _ => fixRotor speed) s := if_neg (Nat.ne_of_lt early)

theorem rotorAtRise_last {speed : Option Nat} (last : r.val = 3) : rotorAtRise y r speed s
    = recomputeDuty (coolingNotice (handRotors y (modRotor y r (fun _ => fixRotor speed) s))) := if_pos last

theorem rotorSpeed_same {v : Nat} {new : RotorRec} (judged : new = rotorAfter s.cool s.time y r v)
    (same : new.fit = ((s.cool.trays.get y).rotors.get r).fit) :
    rotorSpeed y r (some v) s = modRotor y r (fun _ => new) s := by
  subst judged
  exact if_pos same

theorem rotorSpeed_changed {v : Nat} {new : RotorRec} (judged : new = rotorAfter s.cool s.time y r v)
    (differs : new.fit ≠ ((s.cool.trays.get y).rotors.get r).fit) :
    rotorSpeed y r (some v) s = recomputeDuty (coolingNotice
      (handSettled .fanRotorFail (4 * y.val + r.val + 1) (modRotor y r (fun _ => new) s))) := by
  subst judged
  rw [← rotorNumber_eq]
  exact if_neg differs

theorem trayRise_eq (maximum : Nat) : trayRise y maximum s = recomputeDuty (handSettled .fanTrayAbsent (y.val + 1)
    (s.modCool fun c => { c with trays := updAt c.trays y fun x => { x with
      maximum := some (max 2000 (min 20000 maximum)), settle := s.time + 2000 } })) := rfl

end

/-! ### Rotors judged (R59) -/

section
variable {maximum duty was speed low run : Nat}

theorem judgeRotor_goodLow (slow : 2 * speed < maximum * duty / 100) :
    judgeRotor maximum duty speed ⟨.good, was, low, run⟩
      = if low + 1 = 3 then ⟨.failed, speed, 0, 0⟩ else ⟨.good, speed, low + 1, run⟩ := if_pos slow

theorem judgeRotor_failedFast (fast : ¬ 2 * speed < maximum * duty / 100) :
    judgeRotor maximum duty speed ⟨.failed, was, low, run⟩
      = if run + 1 = 10 then ⟨.good, speed, 0, 0⟩ else ⟨.failed, speed, low, run + 1⟩ := if_neg fast

end

/-- Settles O33, by the readings of the sensors, the rotors, the bays and the trays, and by the completion of a
pass. -/
theorem sensorsAndRotorsAreJudged : Obligations.SensorsAndRotorsAreJudged := by
  unfold Obligations.SensorsAndRotorsAreJudged
  refine ⟨fun v r => ⟨rfl, rfl, rfl⟩, fun c x y two => ⟨fun first second => ?_, fun first second => ?_,
      fun first second => ?_, fun first second four four' => ?_, fun first second fewer => ?_⟩,
    fun w reading tIn assumed s => ⟨rfl, fun formed => ⟨fun moves => ?_, fun stays flag => ?_, fun stays flag => ?_⟩⟩,
    fun maximum duty was speed low run => ?_, fun c now y r speed maximum known => ⟨fun due => ?_, fun early => ?_⟩,
    fun b rated input inputOk outputOk s => ?_, fun y r maximum speed s => ?_, fun s n count =>
      ⟨coolingPass_settled count, fun third unsettled => ?_⟩⟩
  · exact formTIn_valid (warmest_both two first second)
  · exact formTIn_valid (warmest_first two first second)
  · exact formTIn_valid (warmest_second two first second)
  · exact (formTIn_noneValid (warmest_neither two first second)).trans (if_pos ((allLost_iff two).2 ⟨four, four'⟩))
  · refine (formTIn_noneValid (warmest_neither two first second)).trans (if_neg fun lost => ?_)
    obtain ⟨four, four'⟩ := (allLost_iff two).1 lost
    exact fewer.elim (fun h => h four) fun h => h four'
  · exact (updateTIn_formed formed).trans (if_pos moves)
  · subst stays
    exact (updateTIn_formed formed).trans ((if_neg (not_not_intro rfl)).trans (if_pos flag))
  · exact (updateTIn_formed formed).trans ((if_neg (not_not_intro stays)).trans (if_neg (not_not_intro flag)))
  · intro isLow
    exact ⟨fun slow fewer => (judgeRotor_goodLow slow).trans (if_neg fewer),
      fun slow => (judgeRotor_goodLow slow).trans (if_pos rfl), fun fast => if_neg fast,
      fun fast fewer => (judgeRotor_failedFast fast).trans (if_neg fewer),
      fun fast => (judgeRotor_failedFast fast).trans (if_pos rfl), fun slow => if_pos slow, rfl⟩
  · exact (rotorAfter_known known).trans (if_pos due)
  · exact (rotorAfter_known known).trans (if_neg (by rw [early]; exact Bool.false_ne_true))
  · intro old st put conditions identity
    refine ⟨?_, supplyLines_same, supplyLines_changed, rfl, rfl⟩
    have rating : min 6000 rated = min rated 6000 := Nat.min_comm _ _
    unfold supplyRise
    rw [rating]
    rfl
  · intro put putRotor rotors old fixed
    have hands (u : State) : handRotors y u = rotors u := handRotors_eq y u
    have fixes : fixRotor speed = fixed := by cases speed <;> rfl
    refine ⟨trayRise_eq maximum, ?_, fun early =>
        (rotorAtRise_early early).trans (congrArg (fun v => modRotor y r (fun _ => v) s) fixes), fun last => ?_, rfl,
      fun v new judged => ⟨rotorSpeed_same judged, rotorSpeed_changed judged⟩⟩
    · unfold trayLoss
      rw [hands]
      rfl
    · exact (rotorAtRise_last last).trans (congrArg (fun v => recomputeDuty (coolingNotice v))
        ((hands _).trans (congrArg (fun v => rotors (modRotor y r (fun _ => v) s)) fixes)))
  · subst third
    obtain ⟨cool, power, zone⟩ := settle_leaves (s.modCool fun c => { c with passes := 3 })
    refine ⟨settle (s.modCool fun c => { c with passes := 3 }), coolingPass_settles count unsettled, cool, power, zone,
      fun k withheld m r first last row => ?_⟩
    have agrees : RowAgrees k m (settle (s.modCool fun c => { c with passes := 3 })) :=
      settle_rows withheld ⟨first, last⟩
    rw [agrees r row]
    exact conditionNow_settle _ k m

end Sys2Proof.Machine
end


-- ==== Sys2Proof/Proofs/SlotAside.lean ====
section
/-! SUPPORT. A slot that does not draw: what the notices of the License Unit and a recompute leave of its record, its
ports and the budget. -/

namespace Sys2Proof.Machine

/-! ### The settled flag (R62) -/

@[simp] theorem recomputeDuty_settled (s : State) : (recomputeDuty s).cool.settled = s.cool.settled := by
  unfold recomputeDuty
  dsimp only
  split
  · rfl
  · rw [joinAll_cool]
    rfl

@[simp] theorem handSettled_cool (k : AlarmClass) (n : Nat) (s : State) : (handSettled k n s).cool = s.cool := by
  unfold handSettled
  split <;> simp

@[simp] theorem evalTight_cool (s : State) : (evalTight s).cool = s.cool := handSettled_cool _ _ s

@[simp] theorem tellDemand_settled (s : State) : (tellDemand s).cool.settled = s.cool.settled :=
  recomputeDuty_settled _

@[simp] theorem setPort_cool (p : Port) (st : PortPower) (s : State) : (setPort p st s).cool = s.cool := by
  unfold setPort
  dsimp only
  split <;> simp

theorem requestLoad_cool (s : State) : (requestLoad s).cool = s.cool := by
  obtain ⟨w, h⟩ := requestLoad_class2 s
  rw [h]
  rfl

theorem judgeComplete_cool (s : State) : (judgeComplete s).cool = s.cool := by
  unfold judgeComplete
  split_ifs <;> simp

theorem goOn_cool (s : State) : (goOn s).cool = s.cool := by
  unfold goOn
  split
  · obtain ⟨job, slot, w, h⟩ := serveCatchUp_changes s
    rw [h]
    rfl
  · split
    · rfl
    · split
      · exact requestLoad_cool _
      · exact judgeComplete_cool s
  · rfl

theorem leaveDraw_cool (i : Slot) (st : SlotPower) (s : State) : (leaveDraw i st s).cool = s.cool :=
  leaveDraw_keeps State.cool (fun _ _ => rfl) joinHeld_cool i st s

theorem leavePower_settled (i : Slot) (st : SlotPower) (s : State) :
    (leavePower i st s).cool.settled = s.cool.settled := by
  have told : (tellDemand (leaveDraw i st s)).cool.settled = s.cool.settled :=
    (tellDemand_settled _).trans (congrArg Cooling.settled (leaveDraw_cool i st s))
  unfold leavePower
  dsimp only
  rw [evalTight_cool]
  split
  · exact (congrArg Cooling.settled (goOn_cool _)).trans told
  · exact told

theorem OnlyLicJoin.cool {s t : State} (h : OnlyLicJoin s t) : t.cool = s.cool := by
  unfold OnlyLicJoin at h
  rw [h]
  rfl

/-! ### The notices of the License Unit (R85, R86) -/

/-- A change that leaves the slot records, the budget, the settled flag and the ports of slot `i` as they are. -/
structure Aside (i : Slot) (s t : State) : Prop where
  slots : t.power.slots = s.power.slots
  avail : t.power.avail = s.power.avail
  settled : t.cool.settled = s.cool.settled
  ports : ∀ p, portSlot p = i → t.power.ports.get p = s.power.ports.get p

section
variable {i : Slot} {s t u : State}

theorem aside_of_power (power : t.power = s.power) (settled : t.cool.settled = s.cool.settled) : Aside i s t :=
  ⟨by rw [power], by rw [power], settled, fun p _ => by rw [power]⟩

theorem aside_refl (i : Slot) (s : State) : Aside i s s := aside_of_power rfl rfl

theorem Aside.trans (h : Aside i s t) (k : Aside i t u) : Aside i s u :=
  ⟨k.slots.trans h.slots, k.avail.trans h.avail, k.settled.trans h.settled,
    fun p mem => (k.ports p mem).trans (h.ports p mem)⟩

theorem Aside.isPowered (h : Aside i s t) (j : Slot) : t.isPowered j = s.isPowered j := by
  unfold State.isPowered State.slotRec
  rw [h.slots]

theorem OnlyLicJoin.aside (h : OnlyLicJoin s t) : Aside i s t :=
  aside_of_power h.others.1 (congrArg Cooling.settled h.cool)

theorem aside_evalTight (h : Aside i s t) : Aside i s (evalTight t) :=
  h.trans (aside_of_power (by simp) (by simp))

theorem aside_tellDemand (h : Aside i s t) : Aside i s (tellDemand t) :=
  h.trans (aside_of_power (by simp) (by simp))

theorem aside_setPort {p : Port} {st : PortPower} (h : portSlot p = i → st = s.power.ports.get p) :
    Aside i s (setPort p st s) := by
  refine ⟨?_, ?_, ?_, fun q mem => ?_⟩
  · rw [setPort_power, Power.putPort_slots]
  · rw [setPort_power]
    rfl
  · rw [setPort_cool]
  · rw [setPort_power]
    by_cases same : q = p
    · subst same
      exact (Power.putPort_self _ _ _).trans (h mem)
    · exact Power.putPort_ne _ _ same

theorem aside_testPort {p : Port} (k : PortClass) (other : portSlot p ≠ i) : Aside i s (testPort p k s) := by
  have set (st : PortPower) : Aside i s (setPort p st s) := aside_setPort fun same => absurd same other
  unfold testPort
  refine aside_evalTight ?_
  split
  · exact aside_tellDemand (set _)
  · exact set _

/-- A notice that finds nothing to change at slot `i`, and after which no recompute is called for. -/
def Notice.passes (i : Slot) (s : State) : Notice → Prop
  | .grant _ _ => True
  | .release p => portSlot p = i ∧ s.power.ports.get p = .off
  | .regrade _ _ => False

theorem Notice.passes_aside {n : Notice} (h : Aside i s t) (passes : n.passes i s) : n.passes i t := by
  cases n with
  | grant p k => trivial
  | release p =>
    obtain ⟨mem, off⟩ := passes
    exact ⟨mem, (h.ports p mem).trans off⟩
  | regrade p k => exact passes.elim

theorem takeGrant_aside (unpowered : s.isPowered i = false) (p : Port) (k : PortClass) :
    Aside i s (takeGrant p k s) := by
  by_cases own : portSlot p = i
  · rw [takeGrant_ignored (.inl (own ▸ unpowered))]
    exact aside_refl i s
  · unfold takeGrant
    split
    · exact aside_testPort k own
    · exact aside_refl i s

theorem takeNotice_aside {n : Notice} (unpowered : s.isPowered i = false) (passes : n.passes i s) :
    Aside i s (takeNotice n s).1 ∧ (takeNotice n s).2 = false := by
  cases n with
  | grant p k => exact ⟨takeGrant_aside unpowered p k, rfl⟩
  | release p =>
    obtain ⟨mem, off⟩ := passes
    have eq : takeRelease p s = (evalTight (setPort p .off s), false) := by
      rw [takeRelease_eq, off]
      rfl
    show Aside i s (takeRelease p s).1 ∧ (takeRelease p s).2 = false
    rw [eq]
    exact ⟨aside_evalTight (aside_setPort fun _ => off.symm), rfl⟩
  | regrade p k => exact passes.elim

theorem takeAll_aside : ∀ (ns : List Notice) (s : State), s.isPowered i = false → (∀ n ∈ ns, n.passes i s) →
    Aside i s (takeAll ns s).1 ∧ (takeAll ns s).2 = false
  | [], s, _, _ => ⟨aside_refl i s, rfl⟩
  | n :: ns, s, unpowered, passes => by
    obtain ⟨first, quiet⟩ := takeNotice_aside unpowered (passes n (List.mem_cons_self))
    obtain ⟨rest, quiets⟩ := takeAll_aside ns (takeNotice n s).1 ((first.isPowered i).trans unpowered)
      fun m mem => Notice.passes_aside first (passes m (List.mem_cons_of_mem _ mem))
    refine ⟨first.trans rest, ?_⟩
    show ((takeNotice n s).2 || (takeAll ns (takeNotice n s).1).2) = false
    rw [quiet, quiets]
    rfl

theorem handNotices_aside {ns : List Notice} (unpowered : s.isPowered i = false)
    (passes : ∀ n ∈ ns, n.passes i s) : Aside i s (handNotices ns s) := by
  obtain ⟨aside, quiet⟩ := takeAll_aside ns s unpowered passes
  unfold handNotices
  dsimp only
  rw [if_neg (by rw [quiet]; exact Bool.false_ne_true)]
  exact aside

/-- A step of the License Unit with such notices. -/
theorem endStep_aside {ns : List Notice} (before : License) (unpowered : s.isPowered i = false)
    (passes : ∀ n ∈ ns, n.passes i s) : Aside i s (endStep before ns s).1 := by
  have served : Aside i s (serveAfter before s).1 := (serveAfter_leaves before s).2.2.aside
  have handed : Aside i s (handNotices (ns ++ grantNotices (serveAfter before s).2) (serveAfter before s).1) := by
    refine served.trans (handNotices_aside ((served.isPowered i).trans unpowered) fun n mem => ?_)
    rcases List.mem_append.1 mem with mem | mem
    · exact Notice.passes_aside served (passes n mem)
    · obtain ⟨g, -, rfl⟩ := List.mem_map.1 mem
      trivial
  exact handed.trans (aside_of_power (handCondition_power _ _ _) (by rw [endStep]; simp))

end

/-! ### A recompute (R75, R76) -/

/-- What holds of the budget before a recompute and is kept by each of its turns holds after it. -/
theorem recompute_induct {P : Power → Prop} {s : State} (start : P s.power) (form : ∀ q, P q → P (formBudget q))
    (stamp : ∀ q k t, P q → P { q with lastKind := k, lastTime := t })
    (sheds : ∀ j, (s.slotRec j).power.drawing = true → ∀ u : State, P u.power → P (leaveDraw j (.denied .shed) u).power)
    (admits : ∀ j, (s.slotRec j).power.isDenied = true → ∀ u : State, u.time = s.time → P u.power →
      P (admitSlot j u).power)
    (enables : ∀ (q : Port) (u : State), P u.power → P (admitPort q u).power) : P (recompute s).power := by
  have formed : P (s.modPower formBudget).power := form _ start
  by_cases exceeds : (s.modPower formBudget).power.avail < demand (s.modPower formBudget).power
  · have pass : ∀ (is : List Slot) (u : State), (∀ j ∈ is, (s.slotRec j).power.drawing = true) → P u.power →
        P (shedPass is u).1.power := by
      intro is
      induction is with
      | nil => exact fun _ _ h => h
      | cons j is ih =>
        intro u drawing h
        unfold shedPass
        split
        · exact h
        · exact ih _ (fun k mem => drawing k (List.mem_cons_of_mem _ mem)) (sheds j (drawing j List.mem_cons_self) u h)
    rw [recompute_sheds exceeds]
    dsimp only
    rw [handOn_power]
    exact stamp _ _ _ (pass _ _ (fun j mem => (mem_byLevel.1 mem).2.2) formed)
  · rw [recompute_admits (Nat.le_of_not_lt exceeds), handOn_power]
    refine stamp _ _ _ ?_
    have slots : ((admitOrder (s.modPower formBudget).power).foldl (fun t i => admitSlot i t)
          (s.modPower formBudget)).time = s.time
        ∧ P ((admitOrder (s.modPower formBudget).power).foldl (fun t i => admitSlot i t)
          (s.modPower formBudget)).power := by
      refine List.foldlRecOn _ _ (motive := fun u : State => u.time = s.time ∧ P u.power) ⟨rfl, formed⟩ ?_
      rintro u ⟨now, h⟩ j mem
      have kept := (apart_iff.1 (passKeeps_apart.admitOne j u)).2.2.1
      exact ⟨kept.trans now, admits j (mem_byLevel.1 mem).2.2 u now h⟩
    unfold admissionPass
    exact List.foldlRecOn _ _ (motive := fun u : State => P u.power) slots.2 fun u h q _ => enables q u h

theorem admitPort_slotRec (q : Port) (i : Slot) (u : State) :
    (admitPort q u).power.slots.get i = u.power.slots.get i := by rw [admitPort_slots]

section
variable {i : Slot} {s : State}

/-- A slot that neither draws nor waits is no part of a recompute. -/
theorem recompute_idle (idle : (s.slotRec i).power.drawing = false) (settled : (s.slotRec i).power.isDenied = false) :
    (recompute s).slotRec i = s.slotRec i := by
  refine recompute_induct (P := fun q => q.slots.get i = s.slotRec i) rfl (fun _ h => h) (fun _ _ _ h => h)
    (fun j drawing u h => ?_) (fun j denied u _ h => ?_) (fun q u h => (admitPort_slotRec q i u).trans h)
  · have other : i ≠ j := fun same => by rw [same, drawing] at idle; cases idle
    exact (leaveDraw_ne _ u other).trans h
  · have other : i ≠ j := fun same => by rw [same, denied] at settled; cases settled
    rw [admitSlot_power]
    split
    · exact (u.power.putSlot_ne _ other).trans h
    · exact h

/-- A DENIED slot waits on, or is admitted with its power-good deadline. -/
theorem recompute_denied {r : DenialReason} (denied : (s.slotRec i).power = .denied r) :
    ((recompute s).slotRec i).power = .denied r
      ∨ ((recompute s).slotRec i).power = .powering (s.time + 1000) := by
  refine recompute_induct (P := fun q => (q.slots.get i).power = .denied r
    ∨ (q.slots.get i).power = .powering (s.time + 1000)) (.inl denied) (fun _ h => h) (fun _ _ _ h => h)
    (fun j drawing u h => ?_) (fun j _ u now h => ?_) (fun q u h => ?_)
  · have other : i ≠ j := fun same => by rw [← same, denied] at drawing; cases drawing
    have kept : (leaveDraw j (.denied .shed) u).power.slots.get i = u.power.slots.get i := leaveDraw_ne _ u other
    rw [kept]
    exact h
  · rw [admitSlot_power]
    split
    · by_cases same : i = j
      · subst same
        rw [Power.putSlot_self, now]
        exact .inr rfl
      · rw [u.power.putSlot_ne _ same]
        exact h
    · exact h
  · rw [admitPort_slots]
    exact h

theorem admitPort_off {p : Port} (q : Port) {u : State} (off : u.power.ports.get p = .off) :
    (admitPort q u).power.ports.get p = .off := by
  unfold admitPort
  split
  · rename_i c held
    split
    · have other : p ≠ q := fun same => by rw [← same, off] at held; cases held
      rw [setPort_power]
      exact (Power.putPort_ne _ _ other).trans off
    · exact off
  · exact off

/-- An OFF port stays OFF. -/
theorem recompute_off {p : Port} (off : s.power.ports.get p = .off) : (recompute s).power.ports.get p = .off := by
  refine recompute_induct (P := fun q => q.ports.get p = .off) off (fun _ h => h) (fun _ _ _ h => h)
    (fun j _ u h => ?_) (fun j _ u _ h => ?_) (fun q u h => admitPort_off q h)
  · rw [leaveDraw_port]
    split
    · rfl
    · exact h
  · rw [admitSlot_power]
    split
    · exact h
    · exact h

end

end Sys2Proof.Machine
end


-- ==== Sys2Proof/Proofs/Presence.lean ====
section
/-! SUPPORT. The debounced presence: the reads of a slot, its rise and its loss, and the License Unit's part of
both. -/

namespace Sys2Proof.Machine

/-! ### The card (R79) -/

theorem cardRead_eq (kind : Byte) (base ports : Nat) : cardRead kind base ports
    = ⟨kind, min base 1000, if 1 ≤ ports ∧ ports ≤ 32 then ports else 32⟩ := by
  have count : (if ports = 0 ∨ 32 < ports then 32 else ports) = if 1 ≤ ports ∧ ports ≤ 32 then ports else 32 := by
    by_cases inRange : 1 ≤ ports ∧ ports ≤ 32
    · rw [if_pos inRange, if_neg (by omega)]
    · rw [if_neg inRange, if_pos (by omega)]
  unfold cardRead
  rw [count, Nat.min_comm]

theorem modSlot_modSlot (i : Slot) (f g : SlotRec → SlotRec) (s : State) :
    modSlot i g (modSlot i f s) = modSlot i (fun r => g (f r)) s := by
  have slots : updAt (updAt s.power.slots i f) i g = updAt s.power.slots i fun r => g (f r) := by
    unfold updAt
    rw [Vector.set_set]
    exact congrArg (fun r => s.power.slots.set i.val (g r) i.isLt) (updAt_self s.power.slots i f)
  exact congrArg (fun v => s.modPower fun p => { p with slots := v }) slots

/-! ### The License Unit's part (R114) -/

theorem slotPorts_eq (i : Slot) : slotPorts i = (List.range 32).map fun k => Fin.ofNat 256 (32 * i.val + k) := by
  refine List.ext_getElem (by simp [slotPorts]) fun k inPorts inRange => Fin.ext ?_
  have small : k < 32 := by simpa [slotPorts] using inPorts
  simp only [slotPorts, List.getElem_map, List.getElem_finRange, List.getElem_range]
  show i.val * 32 + k = (32 * i.val + k) % 256
  omega

theorem updAt_same {α : Type} {n : Nat} (v : Vector α n) (i : Fin n) {f : α → α} (same : f (v.get i) = v.get i) :
    updAt v i f = v := by
  unfold updAt
  rw [same]
  exact Vector.set_getElem_self i.isLt

section
variable {i : Slot} {p : Port} {s : State}

/-- Whether a port that comes into existence requests its license. -/
theorem riseStep_asks (up : (s.lic.ports.get p).up = true) (present : s.portExists p = true)
    (state : licenseState s.lic p = .none) :
    riseStep p s = (endStep s.lic (requestLicense p s).2.1 (requestLicense p s).1).1 :=
  if_pos (by rw [up, present, state]; rfl)

theorem riseStep_rests (h : ¬ ((s.lic.ports.get p).up = true ∧ s.portExists p = true
    ∧ licenseState s.lic p = .none)) : riseStep p s = s := by
  refine if_neg fun asks => h ?_
  rw [Bool.and_eq_true, Bool.and_eq_true, decide_eq_true_eq] at asks
  exact ⟨asks.1.1, asks.1.2, asks.2⟩

/-- A port that is UP at its class is as it was after an UP at that class. -/
theorem portUp_again (up : (s.lic.ports.get p).up = true) (present : s.portExists p = true)
    (state : licenseState s.lic p = .none) :
    portUp p (s.lic.ports.get p).requested s = requestLicense p s := by
  have settings : (⟨true, (s.lic.ports.get p).requested⟩ : PortConfig) = s.lic.ports.get p :=
    up ▸ rfl
  have same : modPort p (fun _ => ⟨true, (s.lic.ports.get p).requested⟩) s = s :=
    congrArg (fun v => s.modLic fun l => { l with ports := v }) (updAt_same _ _ settings)
  rw [portUp_present state present, same]

theorem requestLicense_leaves (p : Port) (s : State) : OnlyLicJoin s (requestLicense p s).1
    ∧ ∀ n ∈ (requestLicense p s).2.1, ∃ k, n = .grant p k := by
  unfold requestLicense
  split
  · exact ⟨rfl, nofun⟩
  · split
    · refine ⟨onlyLicJoin_joinField p _ s, fun n mem => ⟨_, List.mem_singleton.1 mem⟩⟩
    · exact ⟨rfl, nofun⟩

theorem riseStep_aside (p : Port) (unpowered : s.isPowered i = false) : Aside i s (riseStep p s) := by
  unfold riseStep
  split
  · obtain ⟨lists, grants⟩ := requestLicense_leaves p s
    have aside : Aside i s (requestLicense p s).1 := lists.aside
    refine aside.trans (endStep_aside _ ((aside.isPowered i).trans unpowered) fun n mem => ?_)
    obtain ⟨k, rfl⟩ := grants n mem
    trivial
  · exact aside_refl i s

theorem licenseRise_aside (unpowered : s.isPowered i = false) : Aside i s (licenseRise i s) :=
  List.foldlRecOn (slotPorts i) _ (motive := fun u => Aside i s u) (aside_refl i s) fun _ h p _ =>
    h.trans (riseStep_aside p ((h.isPowered i).trans unpowered))

end

/-- A port is on neither list. -/
def License.offLists (l : License) (p : Port) : Prop := (∀ g ∈ l.grants, g.port ≠ p) ∧ p ∉ l.waiting

/-- No port is on both lists. -/
def License.onOne (l : License) : Prop := ∀ g ∈ l.grants, g.port ∉ l.waiting

theorem onOne_of_consistent {l : License} (h : l.consistent) : l.onOne := fun g mem waits =>
  (List.nodup_append.1 h.1).2.2 g.port (List.mem_map_of_mem mem) g.port waits rfl

theorem grantOf_none {l : License} {p : Port} (h : grantOf l p = none) : ∀ g ∈ l.grants, g.port ≠ p :=
  fun g mem same => List.find?_eq_none.1 h g mem (decide_eq_true same)

theorem licenseState_waiting {l : License} {p : Port} (h : licenseState l p = .waiting) : grantOf l p = none := by
  cases grant : grantOf l p with
  | none => rfl
  | some g =>
    rw [licenseState_granted grant] at h
    cases h

/-- What the loss of the ports `ps` of a slot leaves of the two lists. -/
structure Lost (ps : List Port) (s : State) (r : State × List Notice) : Prop where
  apart : OnlyLicJoin s r.1
  notices : ∀ n ∈ r.2, ∃ p ∈ ps, n = .release p
  settings : r.1.lic.ports = s.lic.ports
  grants : ∀ g ∈ r.1.lic.grants, g ∈ s.lic.grants
  waiting : ∀ p ∈ r.1.lic.waiting, p ∈ s.lic.waiting
  gone : ∀ p ∈ ps, r.1.lic.offLists p

theorem License.onOne_of_fewer {l m : License} (h : l.onOne) (grants : ∀ g ∈ m.grants, g ∈ l.grants)
    (waiting : ∀ p ∈ m.waiting, p ∈ l.waiting) : m.onOne :=
  fun g mem waits => h g (grants g mem) (waiting _ waits)

theorem losePort_lost {s : State} (h : s.lic.onOne) (p : Port) : Lost [p] s (losePort p s) := by
  unfold losePort
  split
  · rename_i k state
    have lic : (releasePort p s).lic = { s.lic with grants := s.lic.grants.filter fun g => g.port ≠ p } := by
      simp [releasePort, joinClassField]
    refine ⟨onlyLicJoin_joinField p _ s, fun n mem => ⟨p, List.mem_cons_self, List.mem_singleton.1 mem⟩, by rw [lic],
      fun g mem => ?_, fun q mem => ?_, fun q mem => ?_⟩
    · rw [lic] at mem
      exact (List.mem_filter.1 mem).1
    · rwa [lic] at mem
    · cases List.mem_singleton.1 mem
      rw [lic]
      refine ⟨fun g mem => of_decide_eq_true (List.mem_filter.1 mem).2, ?_⟩
      obtain ⟨g, grant, -⟩ := granted_grantOf _ _ _ state
      have here : g.port = p := 
        of_decide_eq_true (List.find?_some (p := fun g : Grant => decide (g.port = p)) grant)
      exact here ▸ h g (List.mem_of_find?_eq_some grant)
  · rename_i state
    refine ⟨rfl, nofun, rfl, fun g mem => mem, fun q mem => (List.mem_filter.1 mem).1, fun q mem => ?_⟩
    cases List.mem_singleton.1 mem
    exact ⟨grantOf_none (l := s.lic) (licenseState_waiting state), fun mem => of_decide_eq_true (List.mem_filter.1 mem).2 rfl⟩
  · rename_i state
    refine ⟨rfl, nofun, rfl, fun g mem => mem, fun q mem => mem, fun q mem => ?_⟩
    cases List.mem_singleton.1 mem
    obtain ⟨granted, waits⟩ := onNeither _ _ state
    exact ⟨fun g mem same => granted (same ▸ List.mem_map_of_mem mem), waits⟩

theorem losePorts_lost : ∀ (ps : List Port) (s : State), s.lic.onOne → Lost ps s (losePorts ps s)
  | [], _, _ => ⟨rfl, nofun, rfl, fun _ mem => mem, fun _ mem => mem, nofun⟩
  | p :: ps, s, h => by
    have first := losePort_lost h p
    have rest := losePorts_lost ps (losePort p s).1 (License.onOne_of_fewer h first.grants first.waiting)
    refine ⟨first.apart.trans rest.apart, fun n mem => ?_, rest.settings.trans first.settings,
      fun g mem => first.grants g (rest.grants g mem), fun q mem => first.waiting q (rest.waiting q mem),
      fun q mem => ?_⟩
    · rcases List.mem_append.1 mem with mem | mem
      · obtain ⟨q, here, eq⟩ := first.notices n mem
        exact ⟨q, List.mem_singleton.1 here ▸ List.mem_cons_self, eq⟩
      · obtain ⟨q, here, eq⟩ := rest.notices n mem
        exact ⟨q, List.mem_cons_of_mem _ here, eq⟩
    · rcases List.mem_cons.1 mem with rfl | mem
      · obtain ⟨granted, waits⟩ := first.gone q (List.mem_singleton_self q)
        exact ⟨fun g mem => granted g (rest.grants g mem), fun mem => waits (rest.waiting q mem)⟩
      · exact rest.gone q mem

/-- Serving brings no port onto the lists. -/
theorem serveAfter_offLists {before : License} {s : State} {p : Port} (off : s.lic.offLists p) :
    (serveAfter before s).1.lic.offLists p := by
  unfold serveAfter
  split
  · have served := serve_served s.lic.waiting s rfl
    obtain ⟨granted, waits⟩ := off
    rw [served.queue] at waits
    obtain ⟨notServed, notLeft⟩ := not_or.1 fun mem => waits (List.mem_append.2 mem)
    refine ⟨fun g mem => ?_, notLeft⟩
    rw [served.grants] at mem
    rcases List.mem_append.1 mem with mem | mem
    · exact granted g mem
    · exact fun same => notServed (same ▸ List.mem_map_of_mem mem)
  · exact off

section
variable {i : Slot} {s : State}

/-- At the loss of a slot that is not POWERED and has no port in power the budget stays as it is. -/
theorem licenseLoss_aside (h : s.lic.onOne) (unpowered : s.isPowered i = false)
    (off : ∀ p, portSlot p = i → s.power.ports.get p = .off) : Aside i s (licenseLoss i s) := by
  have lost := losePorts_lost (slotPorts i) s h
  have aside : Aside i s (losePorts (slotPorts i) s).1 := lost.apart.aside
  refine aside.trans (endStep_aside _ ((aside.isPowered i).trans unpowered) fun n mem => ?_)
  obtain ⟨p, here, rfl⟩ := lost.notices n mem
  have own : portSlot p = i := mem_slotPorts.1 here
  exact ⟨own, (aside.ports p own).trans (off p own)⟩

theorem licenseLoss_lists (h : s.lic.onOne) : (licenseLoss i s).lic.ports = s.lic.ports
    ∧ ∀ p, portSlot p = i → (licenseLoss i s).lic.offLists p := by
  have lost := losePorts_lost (slotPorts i) s h
  have lic : (licenseLoss i s).lic = _ := endStep_lic _ _ _
  rw [lic]
  exact ⟨(serveAfter_leaves _ _).2.1.trans lost.settings, fun p mem =>
    serveAfter_offLists (lost.gone p (mem_slotPorts.2 mem))⟩

/-! ### The records of a slot that becomes EMPTY (R80) -/

theorem emptySlot_drawing (drawing : (s.slotRec i).power.drawing = true) :
    emptySlot i s = modSlot i (fun r => { r with card := none }) (leavePower i .empty s) := by
  unfold emptySlot
  cases state : (s.slotRec i).power with
  | powering d => rfl
  | powered => rfl
  | empty | off | denied _ | faulted =>
    rw [state] at drawing
    cases drawing

theorem emptySlot_idle (idle : (s.slotRec i).power.drawing = false) :
    emptySlot i s = handSettled .budgetTight 1 (handSettled .slotFault (i.val + 1)
      (modSlot i (fun r => { r with card := none, power := .empty }) s)) := by
  have empties : dropCard i (setSlotPower i .empty s)
      = modSlot i (fun r => { r with card := none, power := .empty }) s := modSlot_modSlot i _ _ s
  have same : emptySlot i s = evalTight (handSlotFault i (dropCard i (setSlotPower i .empty s))) := by
    unfold emptySlot
    cases state : (s.slotRec i).power with
    | powering d | powered =>
      rw [state] at idle
      cases idle
    | empty | off | denied _ | faulted => rfl
  rw [same, empties]
  rfl

theorem emptySlot_self (i : Slot) (s : State) :
    (emptySlot i s).slotRec i = { s.slotRec i with card := none, power := .empty } := by
  unfold State.slotRec
  rw [emptySlot_power]
  split
  · rw [Power.left_slots, Power.putSlot_self]
    rfl
  · rw [Power.putSlot_self]
    rfl

theorem emptySlot_ne {j : Slot} (other : j ≠ i) : (emptySlot i s).slotRec j = s.slotRec j := by
  unfold State.slotRec
  rw [emptySlot_power]
  split
  · rw [Power.left_slots, Power.putSlot_ne _ _ other]
  · rw [Power.putSlot_ne _ _ other]

theorem emptySlot_avail (i : Slot) (s : State) : (emptySlot i s).power.avail = s.power.avail := by
  rw [emptySlot_power]
  split <;> rfl

theorem emptySlot_off (powered : s.portsPowered) {p : Port} (mem : portSlot p = i) :
    (emptySlot i s).power.ports.get p = .off := by
  rw [emptySlot_power]
  split
  · rw [Power.left, Power.offPorts_get, if_pos mem]
  · rename_i idle
    rw [Power.putSlot_ports]
    by_contra on
    have state : (s.slotRec i).power = .powered := of_decide_eq_true (mem ▸ powered p on)
    exact idle (by rw [state]; rfl)

theorem emptySlot_settled (i : Slot) (s : State) : (emptySlot i s).cool.settled = s.cool.settled := by
  cases drawing : (s.slotRec i).power.drawing with
  | true =>
    rw [emptySlot_drawing drawing]
    exact leavePower_settled i .empty s
  | false =>
    rw [emptySlot_idle drawing, handSettled_cool, handSettled_cool]
    rfl

theorem leavePower_apart (i : Slot) (st : SlotPower) (s : State) : (leavePower i st s).apart = s.apart := by
  have left : (leaveDraw i st s).apart = s.apart := passKeeps_apart.leave i st s
  unfold leavePower evalTight
  dsimp only
  rw [handSettled_apart]
  split
  · rw [slotLeft_apart, tellDemand_apart, left]
  · rw [tellDemand_apart, left]

theorem emptySlot_lic (i : Slot) (s : State) : (emptySlot i s).lic = s.lic := by
  cases drawing : (s.slotRec i).power.drawing with
  | true =>
    rw [emptySlot_drawing drawing]
    exact (apart_iff.1 (leavePower_apart i .empty s)).1
  | false =>
    rw [emptySlot_idle drawing]
    have kept : (handSettled .budgetTight 1 (handSettled .slotFault (i.val + 1)
        (modSlot i (fun r => { r with card := none, power := .empty }) s))).apart = s.apart := by
      rw [handSettled_apart, handSettled_apart]
      rfl
    exact (apart_iff.1 kept).1

end

/-! ### Rise and loss (R79, R80) -/

/-- What a rise leaves before its recompute. -/
theorem slotRise_before {i : Slot} {s w : State} (x : Card)
    (carded : w = modSlot i (fun r => { r with card := some x, power := if r.admin then .denied .waiting else .off }) s) :
    Aside i w (licenseRise i (handSettled .budgetTight 1 w)) := by
  have record : (w.slotRec i).power ≠ .powered := by
    rw [carded, modSlot_self]
    dsimp only
    split <;> nofun
  have tight : Aside i w (handSettled .budgetTight 1 w) := aside_evalTight (aside_refl i w)
  exact tight.trans (licenseRise_aside ((tight.isPowered i).trans (decide_eq_false record)))

theorem Aside.slotRec {i : Slot} {s t : State} (h : Aside i s t) (j : Slot) : t.slotRec j = s.slotRec j := by
  unfold State.slotRec
  rw [h.slots]

theorem eventSettled_slotRec (k : AlarmClass) (n : Nat) (s : State) (j : Slot) :
    (eventSettled k n s).slotRec j = s.slotRec j := by
  unfold State.slotRec
  rw [eventSettled_power]

theorem eventSettled_time (k : AlarmClass) (n : Nat) (s : State) : (eventSettled k n s).time = s.time :=
  (apart_iff.1 (eventSettled_apart k n s)).2.2.1

theorem recompute_slotRec (s : State) (j : Slot) : ((recompute s).slotRec j).card = (s.slotRec j).card
    ∧ ((recompute s).slotRec j).admin = (s.slotRec j).admin
    ∧ ((recompute s).slotRec j).priority = (s.slotRec j).priority := by
  obtain ⟨-, -, records⟩ := standing_iff.1 (recompute_standing s)
  exact records j

/-! ### The presence reads (R38 to R41) -/

/-- A first reading that differs is held until the next one. -/
theorem take_differs (present : Bool) :
    Debounce.take (some (!present)) ⟨present, false⟩ = (⟨present, true⟩, .nothing) := by
  cases present <;> rfl

theorem slotIdentityEnded_failed {i : Slot} {awaited : Bool} {e : BusEnd} {s : State} (failed : e.data = none)
    (kind base : BitVec 16) :
    slotIdentityEnded i awaited [some kind, some base] e s = afterSlotReads i awaited s := by
  unfold slotIdentityEnded
  rw [failed]

section
variable {i : Slot} {s t : State}

/-- The slot record after a rise. -/
theorem slotRise_record {x : Card} (risen : t = slotRise i x s) :
    (t.slotRec i).card = some x ∧ (t.slotRec i).admin = (s.slotRec i).admin
      ∧ (t.slotRec i).priority = (s.slotRec i).priority
      ∧ ((s.slotRec i).admin = false → (t.slotRec i).power = .off)
      ∧ ((s.slotRec i).admin = true → (t.slotRec i).power = .denied .waiting
        ∨ (t.slotRec i).power = .powering (s.time + 1000)) := by
  let w := modSlot i (fun r => { r with card := some x, power := if r.admin then .denied .waiting else .off }) s
  let v := licenseRise i (handSettled .budgetTight 1 w)
  let u := eventSettled .slotChange (i.val + 1) v
  have last : t = recompute u := risen
  have record : u.slotRec i =
      { s.slotRec i with card := some x, power := if (s.slotRec i).admin then .denied .waiting else .off } :=
    ((eventSettled_slotRec _ _ v i).trans ((slotRise_before x rfl).slotRec i)).trans (modSlot_self i _ s)
  have handed : (handSettled .budgetTight 1 w).time = w.time := (apart_iff.1 (handSettled_apart _ _ w)).2.2.1
  have now : u.time = s.time := (eventSettled_time _ _ v).trans
    ((moves_licenseRise i (.refl (o := false) (handSettled .budgetTight 1 w))).kept.time.trans handed)
  obtain ⟨card, admin, priority⟩ := recompute_slotRec u i
  rw [record] at card admin priority
  rw [last]
  refine ⟨card, admin, priority, fun down => ?_, fun up => ?_⟩
  · have off : (u.slotRec i).power = .off := by
      rw [record, down]
      rfl
    rw [recompute_idle (by rw [off]; rfl) (by rw [off]; rfl)]
    exact off
  · have waits : (u.slotRec i).power = .denied .waiting := by
      rw [record, up]
      rfl
    rw [← now]
    exact recompute_denied waits

/-- What a loss leaves before its recompute. -/
theorem slotLoss_before (powered : s.portsPowered) (lists : s.lic.consistent) :
    Aside i (emptySlot i s) (licenseLoss i (emptySlot i s)) := by
  have one : (emptySlot i s).lic.onOne := (emptySlot_lic i s).symm ▸ onOne_of_consistent lists
  refine licenseLoss_aside one (decide_eq_false ?_) fun p mem => emptySlot_off powered mem
  rw [emptySlot_self]
  nofun

/-- The records after a loss. -/
theorem slotLoss_record (powered : s.portsPowered) (lists : s.lic.consistent) (lost : t = slotLoss i s) :
    (t.slotRec i).card = none ∧ (t.slotRec i).power = .empty
      ∧ (t.slotRec i).admin = (s.slotRec i).admin ∧ (t.slotRec i).priority = (s.slotRec i).priority
      ∧ (∀ p, portSlot p = i → t.power.ports.get p = .off ∧ t.lic.offLists p)
      ∧ t.lic.ports = s.lic.ports := by
  let v := licenseLoss i (emptySlot i s)
  let u := eventSettled .slotChange (i.val + 1) v
  have aside : Aside i (emptySlot i s) v := slotLoss_before powered lists
  have last : t = recompute u := lost
  have record : u.slotRec i = { s.slotRec i with card := none, power := .empty } :=
    (eventSettled_slotRec _ _ v i).trans ((aside.slotRec i).trans (emptySlot_self i s))
  have kept : (recompute u).slotRec i = u.slotRec i :=
    recompute_idle (by rw [record]; rfl) (by rw [record]; rfl)
  have license : (recompute u).lic = v.lic :=
    (apart_iff.1 (recompute_apart u)).1.trans (apart_iff.1 (eventSettled_apart _ _ v)).1
  have one : (emptySlot i s).lic.onOne := (emptySlot_lic i s).symm ▸ onOne_of_consistent lists
  obtain ⟨settings, gone⟩ := licenseLoss_lists (i := i) one
  rw [last, kept, record, license]
  refine ⟨rfl, rfl, rfl, rfl, fun p mem => ⟨recompute_off ?_, gone p mem⟩, ?_⟩
  · have raised : u.power = v.power := eventSettled_power _ _ v
    rw [raised, aside.ports p mem]
    exact emptySlot_off powered mem
  · exact settings.trans (congrArg License.ports (emptySlot_lic i s))

end

/-- Settles O29, by the debounce record, the identity reads, and the records that a rise and a loss leave. -/
theorem presenceIsDebounced : Obligations.PresenceIsDebounced := by
  unfold Obligations.PresenceIsDebounced
  refine ⟨fun present differing d => ⟨rfl, rfl, rfl, take_differs present, rfl, rfl, rfl, rfl, rfl⟩,
    fun i awaited e s t taken => ?_, fun i awaited x kind base ports e s => ⟨rfl, rfl, rfl, rfl, fun failed => ?_,
      rfl, rfl, rfl⟩, cardRead_eq, fun i x s t risen => ?_, fun i p ps ns s u => ?_,
    fun i s t powered lists lost => ?_⟩
  · subst taken
    rfl
  · exact slotIdentityEnded_failed failed kind base
  · obtain ⟨card, admin, priority, down, up⟩ := slotRise_record risen
    have aside := slotRise_before (i := i) (s := s) x rfl
    refine ⟨card, admin, priority, down, up, _, rfl, risen, fun j other => ?_, fun p mem => ?_, ?_, ?_⟩
    · exact (aside.slotRec j).trans (modSlot_ne _ s other)
    · exact aside.ports p mem
    · exact aside.avail
    · exact aside.settled
  · intro ports asks lost
    have same : slotPorts i = ports := slotPorts_eq i
    refine ⟨?_, riseStep_rests, fun requests r request => ?_, ?_, rfl, fun first => ?_, fun k state => ?_,
      fun state => ?_, fun state => ?_⟩
    · rw [← same]
      rfl
    · obtain ⟨up, present, state⟩ := requests
      rw [request, portUp_again up present state]
      exact riseStep_asks up present state
    · show licenseLoss i s = (endStep s.lic (losePorts ports s).2 (losePorts ports s).1).1
      rw [← same]
      rfl
    · rw [losePorts, first]
    · unfold losePort
      rw [state]
    · unfold losePort
      rw [state]
      rfl
    · unfold losePort
      rw [state]
  · obtain ⟨card, state, admin, priority, ports, settings⟩ := slotLoss_record powered lists lost
    have aside := slotLoss_before (i := i) powered lists
    refine ⟨card, state, admin, priority, fun p mem => ⟨(ports p mem).1, (ports p mem).2.1, (ports p mem).2.2⟩,
      settings, emptySlot i s, _, ?_, rfl, lost, fun j other => ?_, ?_, ?_⟩
    · cases drawing : (s.slotRec i).power.drawing with
      | true => exact emptySlot_drawing drawing
      | false => exact emptySlot_idle drawing
    · exact (aside.slotRec j).trans (emptySlot_ne other)
    · exact aside.avail.trans (emptySlot_avail i s)
    · exact aside.settled.trans (emptySlot_settled i s)

end Sys2Proof.Machine
end
